-- ==== Sys2Proof/Word.lean ====
section
/-! DEFINITION. The word types of the H7 and their plainest reading (R4: bit 0 is the least significant bit). -/

namespace Sys2Proof

/-- A 32-bit instruction word, scalar register, lattice element or pool word (R28, R94, R147). -/
abbrev Word := BitVec 32

/-- One byte of memory (R4). -/
abbrev Byte := BitVec 8

/-- The six-bit name of a scalar register s0 to s63, or a plain six-bit field (R34). -/
abbrev Reg := BitVec 6

/-- The three-bit name of a predicate p0 to p7 (R28). -/
abbrev Guard := BitVec 3

end Sys2Proof
end

