-- ==== Sys2Proof/Syntax.lean ====
section
/-! DEFINITION. The instructions, commands and events of the opcode table: one constructor per row. The 161 encoded
operations carry the fields of their format (R34) without the chain bit, which is framing of the bundle (R28). The 84
events and commands have no encoding; their operands say which object of the state the step concerns. -/

namespace Sys2Proof

/-- The B operand that field M selects in formats F-S, F-C and F-X (R35). -/
inductive BOp where
  | reg (r : Reg)
  | pool (i : BitVec 6)
  | imm (v : BitVec 6)
deriving DecidableEq, Repr

/-- A vector operand field of F-V (R37). -/
inductive VOp where
  | row (k : BitVec 4)
  | col (k : BitVec 4)
  | diag (k : BitVec 4)
  | port (k : BitVec 4)
deriving DecidableEq, Repr

/-- F-S with all of D, A and B (R34). -/
structure FS where
  g : Guard
  d : Reg
  a : Reg
  b : BOp
deriving DecidableEq, Repr

/-- F-S with D and A only. -/
structure FDA where
  g : Guard
  d : Reg
  a : Reg
deriving DecidableEq, Repr

/-- F-S with D and B only. -/
structure FDB where
  g : Guard
  d : Reg
  b : BOp
deriving DecidableEq, Repr

/-- F-S with A and B only. -/
structure FAB where
  g : Guard
  a : Reg
  b : BOp
deriving DecidableEq, Repr

/-- F-S with B only. -/
structure FB where
  g : Guard
  b : BOp
deriving DecidableEq, Repr

/-- F-S with A only. -/
structure FA where
  g : Guard
  a : Reg
deriving DecidableEq, Repr

/-- F-S with D only. -/
structure FD where
  g : Guard
  d : Reg
deriving DecidableEq, Repr

/-- F-S with no operand. -/
structure FG where
  g : Guard
deriving DecidableEq, Repr

/-- F-J: a signed 20-bit packet displacement (R41). -/
structure FJ where
  g : Guard
  j : BitVec 20
deriving DecidableEq, Repr

/-- F-L: a counter register and a signed 14-bit packet displacement (R41). -/
structure FL where
  g : Guard
  a : Reg
  j : BitVec 14
deriving DecidableEq, Repr

/-- F-C: condition, predicate written, A and B (R39, R108). -/
structure FC where
  g : Guard
  cc : BitVec 3
  pd : BitVec 3
  a : Reg
  b : BOp
deriving DecidableEq, Repr

/-- F-C of the two-source predicate instructions: `k` is NR, NB, NA from high to low (R111). -/
structure FP where
  g : Guard
  k : BitVec 3
  pd : BitVec 3
  a : BitVec 3
  b : BitVec 3
deriving DecidableEq, Repr

/-- F-C of `pnot` (R111). -/
structure FN where
  g : Guard
  pd : BitVec 3
  a : BitVec 3
deriving DecidableEq, Repr

/-- F-V with three vector operands and T (R152). -/
structure FV where
  g : Guard
  d : VOp
  a : VOp
  b : VOp
  t : BitVec 2
deriving DecidableEq, Repr

/-- F-V with three vector operands, T = 00. -/
structure FV0 where
  g : Guard
  d : VOp
  a : VOp
  b : VOp
deriving DecidableEq, Repr

/-- F-V with D, A and T. -/
structure FVT where
  g : Guard
  d : VOp
  a : VOp
  t : BitVec 2
deriving DecidableEq, Repr

/-- F-V with D and A, T = 00. -/
structure FVA where
  g : Guard
  d : VOp
  a : VOp
deriving DecidableEq, Repr

/-- F-V with A and B vectors only (`vchk`, R173). -/
structure FVC where
  g : Guard
  a : VOp
  b : VOp
deriving DecidableEq, Repr

/-- F-V with D, A and a plain six-bit value in B, and T: `vunpk`, `vdqnt` (R89, R91). -/
structure FVI where
  g : Guard
  d : VOp
  a : VOp
  i : BitVec 6
  t : BitVec 2
deriving DecidableEq, Repr

/-- F-V with D, A and a plain six-bit value in B, T = 00: `vcvt`, `vtopk`, `vtopk.i`, `vscan` (R86, R170, R165). -/
structure FVK where
  g : Guard
  d : VOp
  a : VOp
  k : BitVec 6
deriving DecidableEq, Repr

/-- `vbcst`: vector D from scalar A (R167). -/
structure FVB where
  g : Guard
  d : VOp
  a : Reg
  t : BitVec 2
deriving DecidableEq, Repr

/-- `vext`: scalar D from an element of vector A (R167). -/
structure FVE where
  g : Guard
  d : Reg
  a : VOp
  i : BitVec 6
  t : BitVec 2
deriving DecidableEq, Repr

/-- `vins`: an element of vector D from scalar A (R167). -/
structure FVN where
  g : Guard
  d : VOp
  a : Reg
  i : BitVec 6
  t : BitVec 2
deriving DecidableEq, Repr

/-- F-M of the scalar loads and stores (R183). -/
structure FM where
  g : Guard
  d : Reg
  a : Reg
  off : BitVec 8
deriving DecidableEq, Repr

/-- F-M of the vector loads and stores (R183). -/
structure FMV where
  g : Guard
  d : VOp
  a : Reg
  off : BitVec 8
deriving DecidableEq, Repr

/-- F-M of `pref` (R183). -/
structure FMP where
  g : Guard
  a : Reg
  off : BitVec 8
deriving DecidableEq, Repr

/-- F-S of `barv` and `cadd`: SCOPE, A and B (R252). -/
structure FR where
  g : Guard
  sc : BitVec 3
  a : Reg
  b : BOp
deriving DecidableEq, Repr

/-- F-S of `bartx`: NA, SCOPE, A and B (R252). -/
structure FRT where
  g : Guard
  na : Bool
  sc : BitVec 3
  a : Reg
  b : BOp
deriving DecidableEq, Repr

/-- F-S of `phase.rel`: SCOPE (R252). -/
structure FRP where
  g : Guard
  sc : BitVec 3
deriving DecidableEq, Repr

/-- F-X with X1, X2, A and B (R275). -/
structure FX where
  g : Guard
  x : BitVec 3
  y : BitVec 3
  a : Reg
  b : BOp
deriving DecidableEq, Repr

/-- F-X with X2, A and B. -/
structure FXY where
  g : Guard
  y : BitVec 3
  a : Reg
  b : BOp
deriving DecidableEq, Repr

/-- F-X with X2 and A (`tcfg`). -/
structure FXA where
  g : Guard
  y : BitVec 3
  a : Reg
deriving DecidableEq, Repr

/-- F-X with X2 only (`wlat`). -/
structure FXW where
  g : Guard
  y : BitVec 3
deriving DecidableEq, Repr

/-- F-X with X1 and A (`azero`). -/
structure FXZ where
  g : Guard
  x : BitVec 3
  a : Reg
deriving DecidableEq, Repr

/-- F-X with X1 and X2 (`fsig`). -/
structure FXX where
  g : Guard
  x : BitVec 3
  y : BitVec 3
deriving DecidableEq, Repr

/-- F-X with X1, X2 and B (`frep`). -/
structure FXB where
  g : Guard
  x : BitVec 3
  y : BitVec 3
  b : BOp
deriving DecidableEq, Repr

/-- F-X with X1, A and B (`fscat`, `fsum`). -/
structure FXS where
  g : Guard
  x : BitVec 3
  a : Reg
  b : BOp
deriving DecidableEq, Repr

/-- F-S of `xst`: B is a register, M = 00 (R350). -/
structure FXT where
  g : Guard
  d : Reg
  a : Reg
  b : Reg
deriving DecidableEq, Repr

/-- The page move a MIGRATION step makes: the page of `2^(12+t)` bytes at `va` of `pasid` goes to `base` of location
class `cls` on device `dev` (R242, R238). -/
structure MigrateArgs where
  pasid : Nat
  va : Nat
  t : Nat
  cls : Nat
  dev : Nat
  base : Nat
deriving DecidableEq, Repr

/-- A Lelum flit of 144 bytes (R338): the header, the 128 bytes of payload, and the CRC. -/
structure Flit where
  header : BitVec 64
  payload : List Byte
  crc : BitVec 64
deriving DecidableEq, Repr

/-- A tree flit bundle: the data of child `child` (an index of the node's child order) for segment `seg` reaching node
`node` of table entry `tree` (R314, R316). -/
structure TreeFlit where
  tree : Nat
  node : Nat
  child : Nat
  seg : Nat
deriving DecidableEq, Repr

/-- A received Ethernet frame (R429): port, destination MAC, VLAN priority, bytes, and whether its FCS matched. -/
structure Frame where
  port : Nat
  mac : Nat
  prio : Nat
  bytes : List Byte
  fcsOk : Bool
deriving DecidableEq, Repr

/-- One row of the opcode table: an operation of a bundle, a host command, or an event. -/
inductive Instr where
  -- bundle framing (R32, R33)
  | nop
  | lpx (n : BitVec 2)
  -- control (R129)
  | br (o : FJ)
  | brl (o : FJ)
  | jr (o : FB)
  | loop (o : FL)
  | halt (o : FG)
  | trap (o : FB)
  | spawn (o : FAB)
  | trig (o : FG)
  | ckpt (o : FG)
  | chk (o : FAB)
  -- scalar (R98 to R107)
  | add (o : FS)
  | sub (o : FS)
  | mul (o : FS)
  | mulh (o : FS)
  | and (o : FS)
  | or (o : FS)
  | xor (o : FS)
  | shl (o : FS)
  | shr (o : FS)
  | sra (o : FS)
  | min (o : FS)
  | max (o : FS)
  | clz (o : FDA)
  | popc (o : FDA)
  | bext (o : FS)
  | bins (o : FS)
  | lea (o : FS)
  | mov (o : FDB)
  | add64 (o : FS)
  | rdcr (o : FDB)
  | wrcr (o : FAB)
  | fadd (o : FS)
  | fmul (o : FS)
  | fmac (o : FS)
  | fmin (o : FS)
  | fmax (o : FS)
  -- compares and predicates (R108 to R112)
  | cmpI32 (o : FC)
  | cmpN32 (o : FC)
  | cmpF32 (o : FC)
  | pand (o : FP)
  | por (o : FP)
  | pxor (o : FP)
  | pnot (o : FN)
  | btst (o : FC)
  -- conversions (R85 to R93)
  | cvtF2i (o : FS)
  | cvtI2f (o : FS)
  | cvtF2b (o : FS)
  | vcvt (o : FVK)
  | vpack (o : FV)
  | vunpk (o : FVI)
  | vqnt (o : FV0)
  | vdqnt (o : FVI)
  | vscl (o : FV)
  -- vector (R152)
  | vadd (o : FV)
  | vsub (o : FV)
  | vmul (o : FV)
  | vmac (o : FV)
  | vmin (o : FV)
  | vmax (o : FV)
  | vabs (o : FVT)
  | vexp2 (o : FVA)
  | vrcp (o : FVA)
  | vrsqrt (o : FVA)
  | vclt (o : FV)
  | vceq (o : FV)
  | vsel (o : FV0)
  | viadd (o : FV)
  | visub (o : FV)
  | vimul (o : FV)
  | vimac (o : FV)
  | vimin (o : FV)
  | vimax (o : FV)
  | vand (o : FV0)
  | vor (o : FV0)
  | vxor (o : FV0)
  | vshl (o : FV)
  | vshr (o : FV)
  | vsra (o : FV)
  | vilt (o : FV)
  | vieq (o : FV)
  | vredsum (o : FVA)
  | vredmax (o : FVA)
  | vperm (o : FV)
  | vbcst (o : FVB)
  | vext (o : FVE)
  | vins (o : FVN)
  | vtopk (o : FVK)
  | vtopkI (o : FVK)
  | vmov (o : FVA)
  | vscan (o : FVK)
  | vcls (o : FVT)
  | vchk (o : FVC)
  | vsclf (o : FVT)
  | vround (o : FVT)
  -- memory slot (R183, R190)
  | ldw (o : FM)
  | ldh (o : FM)
  | ldb (o : FM)
  | stw (o : FM)
  | sth (o : FM)
  | stb (o : FM)
  | vld (o : FMV)
  | vst (o : FMV)
  | vlds (o : FMV)
  | vsts (o : FMV)
  | pref (o : FMP)
  | atomAdd (o : FS)
  | atomIncb (o : FS)
  | atomCas (o : FS)
  | stf (o : FS)
  -- streams (R199)
  | sbind (o : FS)
  | sunbind (o : FD)
  | sdrain (o : FD)
  | sstat (o : FS)
  -- copy engine (R226)
  | cpy (o : FS)
  | cpf (o : FS)
  | cgat (o : FS)
  | cscat (o : FS)
  | cfence (o : FDA)
  -- synchronisation (R252)
  | barv (o : FR)
  | bartx (o : FRT)
  | barw (o : FS)
  | wge (o : FS)
  | cadd (o : FR)
  | phaseRel (o : FRP)
  | phaseAcq (o : FG)
  -- matrix (R275)
  | tcfg (o : FXA)
  | tld (o : FXY)
  | tldw (o : FXY)
  | tst (o : FXY)
  | wlat (o : FXW)
  | mmac (o : FX)
  | mmacz (o : FX)
  | aread (o : FX)
  | azero (o : FXZ)
  | arow (o : FX)
  -- Flint (R296)
  | fsig (o : FXX)
  | fgrp (o : FXY)
  | frep (o : FXB)
  | fscat (o : FXS)
  | fsum (o : FXS)
  -- Hydin (R317)
  | hmk (o : FS)
  | hpost (o : FS)
  | hedit (o : FS)
  | hfrz (o : FS)
  | hthaw (o : FS)
  | hfree (o : FDA)
  | hstat (o : FS)
  -- Lelum (R350)
  | xst (o : FXT)
  | xadd (o : FS)
  | xincb (o : FS)
  | xcas (o : FS)
  -- Shale (R368)
  | lwait (o : FDA)
  | lrel (o : FA)
  | lhint (o : FAB)
  -- system (R387)
  | eret (o : FB)
  | save (o : FAB)
  | rest (o : FAB)
  | sev (o : FAB)
  | domw (o : FS)
  -- events of a tile (the index names an entry of the tile's list of that kind)
  | resultLand (i : Nat)
  | loadReturn (i : Nat)
  | notification
  | checkpoint
  | recoveryRestore
  | rerunEnd
  | taskBind (l : Nat)
  | launchDependentStart (l : Nat)
  | jobStart (slot : Nat)
  | pageWalkComplete (slot : Nat)
  | jobComplete (slot : Nat)
  | migration (m : MigrateArgs)
  | streamFetch (q : Nat)
  | streamVectorLand (q : Nat)
  | streamCompletionArrival (i : Nat)
  | releasePerform (i : Nat)
  | stfRelease (i : Nat)
  | matrixOpComplete
  -- trees
  | treeFlitArrival (f : TreeFlit)
  | treeRefillComplete (tree node : Nat)
  | treeDelivery (tree seg member : Nat)
  | treeFreezeComplete (tree : Nat)
  -- Lelum
  | rotorSlotStart
  | flitReceive (f : Flit)
  | ackReceive (dev num : Nat)
  | ackTimer (dev : Nat)
  | replayTimeout (dev : Nat)
  | pairUnreachable (dev : Nat)
  | laserPowerLow (port input : Nat)
  | laserPowerHigh (port input : Nat)
  | laserInputLost (port input : Nat)
  | laserInputRestored (port input : Nat)
  -- Shale
  | layerLoadStart
  | layerLoadComplete (obj layer : Nat)
  | layerLoadFail (obj layer cause : Nat)
  | lwaitTimeout
  -- Mynyx
  | resyncComplete (m : Nat)
  | budgetWindow (r : Nat)
  | commandFetch (q : Nat)
  | launch (q sq : Nat)
  | copy (q sq : Nat)
  | signal (q sq : Nat)
  | wait (q sq : Nat)
  | waitSatisfied (q sq : Nat)
  | treeMake (q sq : Nat)
  | treeEdit (q sq : Nat)
  | treeFree (q sq : Nat)
  | power (q sq : Nat)
  | fence (q sq : Nat)
  | ctxCreate (q sq : Nat)
  | ctxDestroy (q sq : Nat)
  | ctxPreempt (q sq : Nat)
  | ctxRestore (q sq : Nat)
  | ctxQueue (q sq : Nat)
  | ctxResumeq (q sq : Nat)
  | ctxGrant (q sq : Nat)
  | ctxHandler (q sq : Nat)
  | ctxObject (q sq : Nat)
  | ctxObjreset (q sq : Nat)
  | ctxBudget (q sq : Nat)
  | ctxInval (q sq : Nat)
  | ctxFault (q sq : Nat)
  | ctxEvring (q sq : Nat)
  | drainTimeout (ctx : Nat)
  | saveComplete (ctx : Nat)
  | saveTimeout (ctx : Nat)
  | contextQuiesced (ctx : Nat)
  -- platform
  | powerOn
  | bringupStageDone (ok : Bool)
  | hctlGo
  | hctlHrst
  | mrst (m : Nat)
  | evhead (v : Nat)
  | dbell (q tail : Nat)
  | hostRegisterWrite (off v : Nat) (wide : Bool)
  | cxlMemRead (near : Bool) (addr len : Nat)
  | cxlMemWrite (near : Bool) (addr : Nat) (bytes : List Byte)
  | ucieModuleLoss (m : Nat)
  | frameReceive (f : Frame)
  | thermalTrip (sensor temp : Nat)
  | thermalClear
  | postSourceRead (slot : Nat)
  | treeThawComplete (tree : Nat)
  | operatingPointInForce
deriving DecidableEq, Repr

end Sys2Proof
end

