-- ==== Sys2Proof/WellFormed.lean ====
section
/-! DEFINITION. The checks an operation word must pass to be an instruction at all: the field values that the entries
refuse with illegal-instruction (R35, R38, R39, R43, R253 and the entries themselves). A value that raises another cause
(illegal-operand, privilege) is well formed here and is trapped by its meaning. -/

namespace Sys2Proof

/-- M = 01 with B of 12 or more raises illegal-instruction (R35). -/
def BOp.wf : BOp → Bool
  | .pool i => decide (i.toNat < 12)
  | .reg _ => true
  | .imm _ => true

/-- `vpack` and `vunpk` accept T = 01 and T = 10 (R89). -/
def packWidthOk (t : BitVec 2) : Bool := decide (t.toNat = 1 ∨ t.toNat = 2)

/-- `vdqnt`: T = 00 with part 0 or 1, T = 01 with part 0 (R91). -/
def vdqntOk (t : BitVec 2) (i : BitVec 6) : Bool :=
  decide ((t.toNat = 0 ∧ i.toNat < 2) ∨ (t.toNat = 1 ∧ i.toNat = 0))

/-- `vext` and `vins`: the element index fits the width that T gives (R167). -/
def elemIndexOk (t : BitVec 2) (i : BitVec 6) : Bool :=
  decide ((t.toNat = 0 ∧ i.toNat < 16) ∨ (t.toNat = 1 ∧ i.toNat < 32) ∨ t.toNat = 2)

/-- The conversion codes that the table of R87 does not reserve. -/
def vcvtCodeOk (k : BitVec 6) : Bool :=
  decide (k.toNat < 0x0A ∨ (0x10 ≤ k.toNat ∧ k.toNat < 0x3C))

/-- Whether the fields of an operation are ones the spec does not refuse with illegal-instruction. An event or command
has no word, so nothing is checked of it. -/
def Instr.wellFormed : Instr → Bool
  | .nop => true
  | .lpx _ => true
  | .br _ => true
  | .brl _ => true
  | .jr o => o.b.wf
  | .loop _ => true
  | .halt _ => true
  | .trap o => o.b.wf
  | .spawn o => o.b.wf
  | .trig _ => true
  | .ckpt _ => true
  | .chk o => o.b.wf
  | .add o => o.b.wf
  | .sub o => o.b.wf
  | .mul o => o.b.wf
  | .mulh o => o.b.wf
  | .and o => o.b.wf
  | .or o => o.b.wf
  | .xor o => o.b.wf
  | .shl o => o.b.wf
  | .shr o => o.b.wf
  | .sra o => o.b.wf
  | .min o => o.b.wf
  | .max o => o.b.wf
  | .clz _ => true
  | .popc _ => true
  | .bext o => o.b.wf
  | .bins o => o.b.wf
  | .lea o => o.b.wf
  | .mov o => o.b.wf
  | .add64 o => o.b.wf
  | .rdcr o => o.b.wf
  | .wrcr o => o.b.wf
  | .fadd o => o.b.wf
  | .fmul o => o.b.wf
  | .fmac o => o.b.wf
  | .fmin o => o.b.wf
  | .fmax o => o.b.wf
  | .cmpI32 o => decide (o.cc.toNat < 6) && o.b.wf
  | .cmpN32 o => decide (o.cc.toNat < 6) && o.b.wf
  | .cmpF32 o => o.b.wf
  | .pand _ => true
  | .por _ => true
  | .pxor _ => true
  | .pnot _ => true
  | .btst o => decide (o.cc.toNat < 2) && o.b.wf
  | .cvtF2i o => o.b.wf
  | .cvtI2f o => o.b.wf
  | .cvtF2b o => o.b.wf
  | .vcvt o => vcvtCodeOk o.k
  | .vpack o => packWidthOk o.t
  | .vunpk o => packWidthOk o.t && decide (o.i.toNat < 2)
  | .vqnt _ => true
  | .vdqnt o => vdqntOk o.t o.i
  | .vscl o => decide (o.t.toNat < 3)
  | .vadd o => decide (o.t.toNat < 3)
  | .vsub o => decide (o.t.toNat < 3)
  | .vmul o => decide (o.t.toNat < 3)
  | .vmac o => decide (o.t.toNat < 3)
  | .vmin o => decide (o.t.toNat < 3)
  | .vmax o => decide (o.t.toNat < 3)
  | .vabs o => decide (o.t.toNat < 3)
  | .vexp2 _ => true
  | .vrcp _ => true
  | .vrsqrt _ => true
  | .vclt o => decide (o.t.toNat < 3)
  | .vceq o => decide (o.t.toNat < 3)
  | .vsel _ => true
  | .viadd o => decide (o.t.toNat < 3)
  | .visub o => decide (o.t.toNat < 3)
  | .vimul o => decide (o.t.toNat < 3)
  | .vimac o => decide (o.t.toNat < 3)
  | .vimin o => decide (o.t.toNat < 3)
  | .vimax o => decide (o.t.toNat < 3)
  | .vand _ => true
  | .vor _ => true
  | .vxor _ => true
  | .vshl o => decide (o.t.toNat < 3)
  | .vshr o => decide (o.t.toNat < 3)
  | .vsra o => decide (o.t.toNat < 3)
  | .vilt o => decide (o.t.toNat < 3)
  | .vieq o => decide (o.t.toNat < 3)
  | .vredsum _ => true
  | .vredmax _ => true
  | .vperm o => decide (o.t.toNat < 3)
  | .vbcst o => decide (o.t.toNat < 3)
  | .vext o => elemIndexOk o.t o.i
  | .vins o => elemIndexOk o.t o.i
  | .vtopk o => decide (1 ≤ o.k.toNat ∧ o.k.toNat ≤ 16)
  | .vtopkI o => decide (1 ≤ o.k.toNat ∧ o.k.toNat ≤ 16)
  | .vmov _ => true
  | .vscan o => decide (o.k.toNat < 4)
  | .vcls o => decide (o.t.toNat < 3)
  | .vchk _ => true
  | .vsclf o => decide (o.t.toNat < 3)
  | .vround o => decide (o.t.toNat < 3)
  | .ldw _ => true
  | .ldh _ => true
  | .ldb _ => true
  | .stw _ => true
  | .sth _ => true
  | .stb _ => true
  | .vld _ => true
  | .vst _ => true
  | .vlds _ => true
  | .vsts _ => true
  | .pref _ => true
  | .atomAdd o => o.b.wf
  | .atomIncb o => o.b.wf
  | .atomCas o => o.b.wf
  | .stf o => o.b.wf
  | .sbind o => o.b.wf
  | .sunbind _ => true
  | .sdrain _ => true
  | .sstat o => o.b.wf
  | .cpy o => o.b.wf
  | .cpf o => o.b.wf
  | .cgat o => o.b.wf
  | .cscat o => o.b.wf
  | .cfence _ => true
  | .barv o => decide (o.sc.toNat < 5) && o.b.wf
  | .bartx o => decide (o.sc.toNat < 5) && o.b.wf
  | .barw o => o.b.wf
  | .wge o => o.b.wf
  | .cadd o => decide (o.sc.toNat < 5) && o.b.wf
  | .phaseRel o => decide (o.sc.toNat < 5)
  | .phaseAcq _ => true
  | .tcfg _ => true
  | .tld o => o.b.wf
  | .tldw o => o.b.wf
  | .tst o => o.b.wf
  | .wlat _ => true
  | .mmac o => o.b.wf
  | .mmacz o => o.b.wf
  | .aread o => o.b.wf
  | .azero _ => true
  | .arow o => o.b.wf
  | .fsig _ => true
  | .fgrp o => o.b.wf
  | .frep o => o.b.wf
  | .fscat o => o.b.wf
  | .fsum o => o.b.wf
  | .hmk o => o.b.wf
  | .hpost o => o.b.wf
  | .hedit o => o.b.wf
  | .hfrz o => o.b.wf
  | .hthaw o => o.b.wf
  | .hfree _ => true
  | .hstat o => o.b.wf
  | .xst _ => true
  | .xadd o => o.b.wf
  | .xincb o => o.b.wf
  | .xcas o => o.b.wf
  | .lwait _ => true
  | .lrel _ => true
  | .lhint o => o.b.wf
  | .eret o => o.b.wf
  | .save o => o.b.wf
  | .rest o => o.b.wf
  | .sev o => o.b.wf
  | .domw o => o.b.wf
  | .resultLand _ => true
  | .loadReturn _ => true
  | .notification => true
  | .checkpoint => true
  | .recoveryRestore => true
  | .rerunEnd => true
  | .taskBind _ => true
  | .launchDependentStart _ => true
  | .jobStart _ => true
  | .pageWalkComplete _ => true
  | .jobComplete _ => true
  | .migration _ => true
  | .streamFetch _ => true
  | .streamVectorLand _ => true
  | .streamCompletionArrival _ => true
  | .releasePerform _ => true
  | .stfRelease _ => true
  | .matrixOpComplete => true
  | .treeFlitArrival _ => true
  | .treeRefillComplete _ _ => true
  | .treeDelivery _ _ _ => true
  | .treeFreezeComplete _ => true
  | .rotorSlotStart => true
  | .flitReceive _ => true
  | .ackReceive _ _ => true
  | .ackTimer _ => true
  | .replayTimeout _ => true
  | .pairUnreachable _ => true
  | .laserPowerLow _ _ => true
  | .laserPowerHigh _ _ => true
  | .laserInputLost _ _ => true
  | .laserInputRestored _ _ => true
  | .layerLoadStart => true
  | .layerLoadComplete _ _ => true
  | .layerLoadFail _ _ _ => true
  | .lwaitTimeout => true
  | .resyncComplete _ => true
  | .budgetWindow _ => true
  | .commandFetch _ => true
  | .launch _ _ => true
  | .copy _ _ => true
  | .signal _ _ => true
  | .wait _ _ => true
  | .waitSatisfied _ _ => true
  | .treeMake _ _ => true
  | .treeEdit _ _ => true
  | .treeFree _ _ => true
  | .power _ _ => true
  | .fence _ _ => true
  | .ctxCreate _ _ => true
  | .ctxDestroy _ _ => true
  | .ctxPreempt _ _ => true
  | .ctxRestore _ _ => true
  | .ctxQueue _ _ => true
  | .ctxResumeq _ _ => true
  | .ctxGrant _ _ => true
  | .ctxHandler _ _ => true
  | .ctxObject _ _ => true
  | .ctxObjreset _ _ => true
  | .ctxBudget _ _ => true
  | .ctxInval _ _ => true
  | .ctxFault _ _ => true
  | .ctxEvring _ _ => true
  | .drainTimeout _ => true
  | .saveComplete _ => true
  | .saveTimeout _ => true
  | .contextQuiesced _ => true
  | .powerOn => true
  | .bringupStageDone _ => true
  | .hctlGo => true
  | .hctlHrst => true
  | .mrst _ => true
  | .evhead _ => true
  | .dbell _ _ => true
  | .hostRegisterWrite _ _ _ => true
  | .cxlMemRead _ _ _ => true
  | .cxlMemWrite _ _ _ => true
  | .ucieModuleLoss _ => true
  | .frameReceive _ => true
  | .thermalTrip _ _ => true
  | .thermalClear => true
  | .postSourceRead _ => true
  | .treeThawComplete _ => true
  | .operatingPointInForce => true

/-- Whether the row has an encoding: the operations of a bundle do, the events and host commands do not. -/
def Instr.isOperation : Instr → Bool
  | .nop => true
  | .lpx _ => true
  | .br _ => true
  | .brl _ => true
  | .jr _ => true
  | .loop _ => true
  | .halt _ => true
  | .trap _ => true
  | .spawn _ => true
  | .trig _ => true
  | .ckpt _ => true
  | .chk _ => true
  | .add _ => true
  | .sub _ => true
  | .mul _ => true
  | .mulh _ => true
  | .and _ => true
  | .or _ => true
  | .xor _ => true
  | .shl _ => true
  | .shr _ => true
  | .sra _ => true
  | .min _ => true
  | .max _ => true
  | .clz _ => true
  | .popc _ => true
  | .bext _ => true
  | .bins _ => true
  | .lea _ => true
  | .mov _ => true
  | .add64 _ => true
  | .rdcr _ => true
  | .wrcr _ => true
  | .fadd _ => true
  | .fmul _ => true
  | .fmac _ => true
  | .fmin _ => true
  | .fmax _ => true
  | .cmpI32 _ => true
  | .cmpN32 _ => true
  | .cmpF32 _ => true
  | .pand _ => true
  | .por _ => true
  | .pxor _ => true
  | .pnot _ => true
  | .btst _ => true
  | .cvtF2i _ => true
  | .cvtI2f _ => true
  | .cvtF2b _ => true
  | .vcvt _ => true
  | .vpack _ => true
  | .vunpk _ => true
  | .vqnt _ => true
  | .vdqnt _ => true
  | .vscl _ => true
  | .vadd _ => true
  | .vsub _ => true
  | .vmul _ => true
  | .vmac _ => true
  | .vmin _ => true
  | .vmax _ => true
  | .vabs _ => true
  | .vexp2 _ => true
  | .vrcp _ => true
  | .vrsqrt _ => true
  | .vclt _ => true
  | .vceq _ => true
  | .vsel _ => true
  | .viadd _ => true
  | .visub _ => true
  | .vimul _ => true
  | .vimac _ => true
  | .vimin _ => true
  | .vimax _ => true
  | .vand _ => true
  | .vor _ => true
  | .vxor _ => true
  | .vshl _ => true
  | .vshr _ => true
  | .vsra _ => true
  | .vilt _ => true
  | .vieq _ => true
  | .vredsum _ => true
  | .vredmax _ => true
  | .vperm _ => true
  | .vbcst _ => true
  | .vext _ => true
  | .vins _ => true
  | .vtopk _ => true
  | .vtopkI _ => true
  | .vmov _ => true
  | .vscan _ => true
  | .vcls _ => true
  | .vchk _ => true
  | .vsclf _ => true
  | .vround _ => true
  | .ldw _ => true
  | .ldh _ => true
  | .ldb _ => true
  | .stw _ => true
  | .sth _ => true
  | .stb _ => true
  | .vld _ => true
  | .vst _ => true
  | .vlds _ => true
  | .vsts _ => true
  | .pref _ => true
  | .atomAdd _ => true
  | .atomIncb _ => true
  | .atomCas _ => true
  | .stf _ => true
  | .sbind _ => true
  | .sunbind _ => true
  | .sdrain _ => true
  | .sstat _ => true
  | .cpy _ => true
  | .cpf _ => true
  | .cgat _ => true
  | .cscat _ => true
  | .cfence _ => true
  | .barv _ => true
  | .bartx _ => true
  | .barw _ => true
  | .wge _ => true
  | .cadd _ => true
  | .phaseRel _ => true
  | .phaseAcq _ => true
  | .tcfg _ => true
  | .tld _ => true
  | .tldw _ => true
  | .tst _ => true
  | .wlat _ => true
  | .mmac _ => true
  | .mmacz _ => true
  | .aread _ => true
  | .azero _ => true
  | .arow _ => true
  | .fsig _ => true
  | .fgrp _ => true
  | .frep _ => true
  | .fscat _ => true
  | .fsum _ => true
  | .hmk _ => true
  | .hpost _ => true
  | .hedit _ => true
  | .hfrz _ => true
  | .hthaw _ => true
  | .hfree _ => true
  | .hstat _ => true
  | .xst _ => true
  | .xadd _ => true
  | .xincb _ => true
  | .xcas _ => true
  | .lwait _ => true
  | .lrel _ => true
  | .lhint _ => true
  | .eret _ => true
  | .save _ => true
  | .rest _ => true
  | .sev _ => true
  | .domw _ => true
  | .resultLand _ => false
  | .loadReturn _ => false
  | .notification => false
  | .checkpoint => false
  | .recoveryRestore => false
  | .rerunEnd => false
  | .taskBind _ => false
  | .launchDependentStart _ => false
  | .jobStart _ => false
  | .pageWalkComplete _ => false
  | .jobComplete _ => false
  | .migration _ => false
  | .streamFetch _ => false
  | .streamVectorLand _ => false
  | .streamCompletionArrival _ => false
  | .releasePerform _ => false
  | .stfRelease _ => false
  | .matrixOpComplete => false
  | .treeFlitArrival _ => false
  | .treeRefillComplete _ _ => false
  | .treeDelivery _ _ _ => false
  | .treeFreezeComplete _ => false
  | .rotorSlotStart => false
  | .flitReceive _ => false
  | .ackReceive _ _ => false
  | .ackTimer _ => false
  | .replayTimeout _ => false
  | .pairUnreachable _ => false
  | .laserPowerLow _ _ => false
  | .laserPowerHigh _ _ => false
  | .laserInputLost _ _ => false
  | .laserInputRestored _ _ => false
  | .layerLoadStart => false
  | .layerLoadComplete _ _ => false
  | .layerLoadFail _ _ _ => false
  | .lwaitTimeout => false
  | .resyncComplete _ => false
  | .budgetWindow _ => false
  | .commandFetch _ => false
  | .launch _ _ => false
  | .copy _ _ => false
  | .signal _ _ => false
  | .wait _ _ => false
  | .waitSatisfied _ _ => false
  | .treeMake _ _ => false
  | .treeEdit _ _ => false
  | .treeFree _ _ => false
  | .power _ _ => false
  | .fence _ _ => false
  | .ctxCreate _ _ => false
  | .ctxDestroy _ _ => false
  | .ctxPreempt _ _ => false
  | .ctxRestore _ _ => false
  | .ctxQueue _ _ => false
  | .ctxResumeq _ _ => false
  | .ctxGrant _ _ => false
  | .ctxHandler _ _ => false
  | .ctxObject _ _ => false
  | .ctxObjreset _ _ => false
  | .ctxBudget _ _ => false
  | .ctxInval _ _ => false
  | .ctxFault _ _ => false
  | .ctxEvring _ _ => false
  | .drainTimeout _ => false
  | .saveComplete _ => false
  | .saveTimeout _ => false
  | .contextQuiesced _ => false
  | .powerOn => false
  | .bringupStageDone _ => false
  | .hctlGo => false
  | .hctlHrst => false
  | .mrst _ => false
  | .evhead _ => false
  | .dbell _ _ => false
  | .hostRegisterWrite _ _ _ => false
  | .cxlMemRead _ _ _ => false
  | .cxlMemWrite _ _ _ => false
  | .ucieModuleLoss _ => false
  | .frameReceive _ => false
  | .thermalTrip _ _ => false
  | .thermalClear => false
  | .postSourceRead _ => false
  | .treeThawComplete _ => false
  | .operatingPointInForce => false

end Sys2Proof
end

