-- ==== Sys2Proof/Decode.lean ====
section
/-! DEFINITION. Decoding an operation word (R28, R34 to R43, R57) and encoding one. `Raw` is the split of a word that
every format shares: OP, G and the twenty bits below it as D, A, B and M. -/

namespace Sys2Proof

/-- The fields of an operation word but the chain bit: [30:23] OP, [22:20] G, [19:14] D, [13:8] A, [7:2] B, [1:0] M. -/
structure Raw where
  op : BitVec 8
  g : BitVec 3
  d : BitVec 6
  a : BitVec 6
  b : BitVec 6
  m : BitVec 2
deriving DecidableEq, Repr

/-- Bit [31], C: another operation word of the bundle follows (R28). -/
def chainOf (w : Word) : Bool := w.getLsbD 31

/-- The fields of a word (R28, R34). -/
def Raw.ofWord (w : Word) : Raw :=
  ⟨w.extractLsb' 23 8, w.extractLsb' 20 3, w.extractLsb' 14 6, w.extractLsb' 8 6, w.extractLsb' 2 6, w.extractLsb' 0 2⟩

/-- The word with the given chain bit and fields (R28, R34). -/
def Raw.toWord (c : Bool) (r : Raw) : Word :=
  BitVec.ofBool c ++ r.op ++ r.g ++ r.d ++ r.a ++ r.b ++ r.m

/-- The B operand of a field B and M, none where M = 11 or a pool index of 12 or more makes the word no instruction
(R35). -/
def BOp.ofFields (b : BitVec 6) (m : BitVec 2) : Option BOp :=
  match m.toNat with
  | 0 => some (.reg b)
  | 1 => if b.toNat < 12 then some (.pool b) else none
  | 2 => some (.imm b)
  | _ => none

def BOp.fieldB : BOp → BitVec 6
  | .reg r => r
  | .pool i => i
  | .imm v => v

def BOp.fieldM : BOp → BitVec 2
  | .reg _ => 0
  | .pool _ => 1
  | .imm _ => 2

/-- The vector operand of a six-bit field (R37). -/
def VOp.ofField (x : BitVec 6) : VOp :=
  match (x.extractLsb' 4 2).toNat with
  | 0 => .row (x.extractLsb' 0 4)
  | 1 => .col (x.extractLsb' 0 4)
  | 2 => .diag (x.extractLsb' 0 4)
  | _ => .port (x.extractLsb' 0 4)

def VOp.field : VOp → BitVec 6
  | .row k => 0#2 ++ k
  | .col k => 1#2 ++ k
  | .diag k => 2#2 ++ k
  | .port k => 3#2 ++ k

/-! ### Fields of each shape, with the checks that make the word no instruction -/

def ofFS (k : FS → Instr) (r : Raw) : Option Instr :=
  (BOp.ofFields r.b r.m).map fun b => k ⟨r.g, r.d, r.a, b⟩
def ofFDA (k : FDA → Instr) (r : Raw) : Option Instr :=
  if r.b = 0 ∧ r.m = 0 then some (k ⟨r.g, r.d, r.a⟩) else none
def ofFDB (k : FDB → Instr) (r : Raw) : Option Instr :=
  if r.a = 0 then (BOp.ofFields r.b r.m).map fun b => k ⟨r.g, r.d, b⟩ else none
def ofFAB (k : FAB → Instr) (r : Raw) : Option Instr :=
  if r.d = 0 then (BOp.ofFields r.b r.m).map fun b => k ⟨r.g, r.a, b⟩ else none
def ofFB (k : FB → Instr) (r : Raw) : Option Instr :=
  if r.d = 0 ∧ r.a = 0 then (BOp.ofFields r.b r.m).map fun b => k ⟨r.g, b⟩ else none
def ofFA (k : FA → Instr) (r : Raw) : Option Instr :=
  if r.d = 0 ∧ r.b = 0 ∧ r.m = 0 then some (k ⟨r.g, r.a⟩) else none
def ofFD (k : FD → Instr) (r : Raw) : Option Instr :=
  if r.a = 0 ∧ r.b = 0 ∧ r.m = 0 then some (k ⟨r.g, r.d⟩) else none
def ofFG (k : FG → Instr) (r : Raw) : Option Instr :=
  if r.d = 0 ∧ r.a = 0 ∧ r.b = 0 ∧ r.m = 0 then some (k ⟨r.g⟩) else none
def ofFJ (k : FJ → Instr) (r : Raw) : Option Instr :=
  some (k ⟨r.g, r.d ++ r.a ++ r.b ++ r.m⟩)
def ofFL (k : FL → Instr) (r : Raw) : Option Instr :=
  some (k ⟨r.g, r.d, r.a ++ r.b ++ r.m⟩)
/-- F-C: D holds CC and PD; conditions at or above `n` are refused (R39, R109, R110, R112). -/
def ofFC (n : Nat) (k : FC → Instr) (r : Raw) : Option Instr :=
  if (r.d.extractLsb' 3 3).toNat < n then
    (BOp.ofFields r.b r.m).map fun b => k ⟨r.g, r.d.extractLsb' 3 3, r.d.extractLsb' 0 3, r.a, b⟩
  else none
def ofFC6 := ofFC 6
def ofFC8 := ofFC 8
def ofFC2 := ofFC 2
/-- `pand`, `por`, `pxor`: A[5:3], B[5:3] and M must be zero (R111). -/
def ofFP (k : FP → Instr) (r : Raw) : Option Instr :=
  if r.a.extractLsb' 3 3 = 0 ∧ r.b.extractLsb' 3 3 = 0 ∧ r.m = 0 then
    some (k ⟨r.g, r.d.extractLsb' 3 3, r.d.extractLsb' 0 3, r.a.extractLsb' 0 3, r.b.extractLsb' 0 3⟩)
  else none
def ofFN (k : FN → Instr) (r : Raw) : Option Instr :=
  if r.d.extractLsb' 3 3 = 0 ∧ r.a.extractLsb' 3 3 = 0 ∧ r.b = 0 ∧ r.m = 0 then
    some (k ⟨r.g, r.d.extractLsb' 0 3, r.a.extractLsb' 0 3⟩)
  else none
def ofFV (k : FV → Instr) (r : Raw) : Option Instr :=
  if r.m.toNat < 3 then some (k ⟨r.g, .ofField r.d, .ofField r.a, .ofField r.b, r.m⟩) else none
def ofFVp (k : FV → Instr) (r : Raw) : Option Instr :=
  if packWidthOk r.m then some (k ⟨r.g, .ofField r.d, .ofField r.a, .ofField r.b, r.m⟩) else none
def ofFV0 (k : FV0 → Instr) (r : Raw) : Option Instr :=
  if r.m = 0 then some (k ⟨r.g, .ofField r.d, .ofField r.a, .ofField r.b⟩) else none
def ofFVT (k : FVT → Instr) (r : Raw) : Option Instr :=
  if r.b = 0 ∧ r.m.toNat < 3 then some (k ⟨r.g, .ofField r.d, .ofField r.a, r.m⟩) else none
def ofFVA (k : FVA → Instr) (r : Raw) : Option Instr :=
  if r.b = 0 ∧ r.m = 0 then some (k ⟨r.g, .ofField r.d, .ofField r.a⟩) else none
def ofFVC (k : FVC → Instr) (r : Raw) : Option Instr :=
  if r.d = 0 ∧ r.m = 0 then some (k ⟨r.g, .ofField r.a, .ofField r.b⟩) else none
def ofFVIu (k : FVI → Instr) (r : Raw) : Option Instr :=
  if packWidthOk r.m ∧ r.b.toNat < 2 then some (k ⟨r.g, .ofField r.d, .ofField r.a, r.b, r.m⟩) else none
def ofFVIq (k : FVI → Instr) (r : Raw) : Option Instr :=
  if vdqntOk r.m r.b then some (k ⟨r.g, .ofField r.d, .ofField r.a, r.b, r.m⟩) else none
def ofFVKc (k : FVK → Instr) (r : Raw) : Option Instr :=
  if vcvtCodeOk r.b ∧ r.m = 0 then some (k ⟨r.g, .ofField r.d, .ofField r.a, r.b⟩) else none
def ofFVKk (k : FVK → Instr) (r : Raw) : Option Instr :=
  if (1 ≤ r.b.toNat ∧ r.b.toNat ≤ 16) ∧ r.m = 0 then some (k ⟨r.g, .ofField r.d, .ofField r.a, r.b⟩) else none
def ofFVKs (k : FVK → Instr) (r : Raw) : Option Instr :=
  if r.b.toNat < 4 ∧ r.m = 0 then some (k ⟨r.g, .ofField r.d, .ofField r.a, r.b⟩) else none
def ofFVB (k : FVB → Instr) (r : Raw) : Option Instr :=
  if r.b = 0 ∧ r.m.toNat < 3 then some (k ⟨r.g, .ofField r.d, r.a, r.m⟩) else none
def ofFVE (k : FVE → Instr) (r : Raw) : Option Instr :=
  if elemIndexOk r.m r.b then some (k ⟨r.g, r.d, .ofField r.a, r.b, r.m⟩) else none
def ofFVN (k : FVN → Instr) (r : Raw) : Option Instr :=
  if elemIndexOk r.m r.b then some (k ⟨r.g, .ofField r.d, r.a, r.b, r.m⟩) else none
def ofFM (k : FM → Instr) (r : Raw) : Option Instr := some (k ⟨r.g, r.d, r.a, r.b ++ r.m⟩)
def ofFMV (k : FMV → Instr) (r : Raw) : Option Instr := some (k ⟨r.g, .ofField r.d, r.a, r.b ++ r.m⟩)
def ofFMP (k : FMP → Instr) (r : Raw) : Option Instr :=
  if r.d = 0 then some (k ⟨r.g, r.a, r.b ++ r.m⟩) else none
/-- `barv` and `cadd`: D is SCOPE, 0 to 4 (R252, R253). -/
def ofFR (k : FR → Instr) (r : Raw) : Option Instr :=
  if r.d.extractLsb' 3 3 = 0 ∧ (r.d.extractLsb' 0 3).toNat < 5 then
    (BOp.ofFields r.b r.m).map fun b => k ⟨r.g, r.d.extractLsb' 0 3, r.a, b⟩
  else none
def ofFRT (k : FRT → Instr) (r : Raw) : Option Instr :=
  if r.d.extractLsb' 4 2 = 0 ∧ (r.d.extractLsb' 0 3).toNat < 5 then
    (BOp.ofFields r.b r.m).map fun b => k ⟨r.g, r.d.getLsbD 3, r.d.extractLsb' 0 3, r.a, b⟩
  else none
/-- `phase`: ACQ = 0 with SCOPE 0 to 4, or ACQ = 1 with SCOPE = 0 (R253). -/
def ofPhase (r : Raw) : Option Instr :=
  if r.a = 0 ∧ r.b = 0 ∧ r.m = 0 then
    if r.d = 0x08 then some (.phaseAcq ⟨r.g⟩)
    else if r.d.extractLsb' 3 3 = 0 ∧ (r.d.extractLsb' 0 3).toNat < 5 then
      some (.phaseRel ⟨r.g, r.d.extractLsb' 0 3⟩)
    else none
  else none
def ofFX (k : FX → Instr) (r : Raw) : Option Instr :=
  (BOp.ofFields r.b r.m).map fun b => k ⟨r.g, r.d.extractLsb' 3 3, r.d.extractLsb' 0 3, r.a, b⟩
def ofFXY (k : FXY → Instr) (r : Raw) : Option Instr :=
  if r.d.extractLsb' 3 3 = 0 then
    (BOp.ofFields r.b r.m).map fun b => k ⟨r.g, r.d.extractLsb' 0 3, r.a, b⟩
  else none
def ofFXA (k : FXA → Instr) (r : Raw) : Option Instr :=
  if r.d.extractLsb' 3 3 = 0 ∧ r.b = 0 ∧ r.m = 0 then some (k ⟨r.g, r.d.extractLsb' 0 3, r.a⟩) else none
def ofFXW (k : FXW → Instr) (r : Raw) : Option Instr :=
  if r.d.extractLsb' 3 3 = 0 ∧ r.a = 0 ∧ r.b = 0 ∧ r.m = 0 then some (k ⟨r.g, r.d.extractLsb' 0 3⟩) else none
def ofFXZ (k : FXZ → Instr) (r : Raw) : Option Instr :=
  if r.d.extractLsb' 0 3 = 0 ∧ r.b = 0 ∧ r.m = 0 then some (k ⟨r.g, r.d.extractLsb' 3 3, r.a⟩) else none
def ofFXX (k : FXX → Instr) (r : Raw) : Option Instr :=
  if r.a = 0 ∧ r.b = 0 ∧ r.m = 0 then some (k ⟨r.g, r.d.extractLsb' 3 3, r.d.extractLsb' 0 3⟩) else none
def ofFXB (k : FXB → Instr) (r : Raw) : Option Instr :=
  if r.a = 0 then
    (BOp.ofFields r.b r.m).map fun b => k ⟨r.g, r.d.extractLsb' 3 3, r.d.extractLsb' 0 3, b⟩
  else none
def ofFXS (k : FXS → Instr) (r : Raw) : Option Instr :=
  if r.d.extractLsb' 0 3 = 0 then
    (BOp.ofFields r.b r.m).map fun b => k ⟨r.g, r.d.extractLsb' 3 3, r.a, b⟩
  else none
/-- `xst`: M ≠ 00 raises illegal-instruction (R350). -/
def ofFXT (k : FXT → Instr) (r : Raw) : Option Instr :=
  if r.m = 0 then some (k ⟨r.g, r.d, r.a, r.b⟩) else none

/-- The instruction that the fields of a word encode; none where the word raises illegal-instruction (R43, R57). -/
def Raw.toInstr (r : Raw) : Option Instr :=
  match r.op.toNat with
  | 0x00 => if r.g = 0 ∧ r.d = 0 ∧ r.a = 0 ∧ r.b = 0 ∧ r.m = 0 then some .nop else none
  | 0x01 => if r.g = 0 ∧ r.d = 0 ∧ r.a = 0 ∧ r.b = 0 then some (.lpx r.m) else none
  | 0x02 => ofFJ Instr.br r
  | 0x03 => ofFJ Instr.brl r
  | 0x04 => ofFB Instr.jr r
  | 0x05 => ofFL Instr.loop r
  | 0x06 => ofFG Instr.halt r
  | 0x07 => ofFB Instr.trap r
  | 0x08 => ofFAB Instr.spawn r
  | 0x09 => ofFG Instr.trig r
  | 0x0A => ofFG Instr.ckpt r
  | 0x0B => ofFAB Instr.chk r
  | 0x10 => ofFS Instr.add r
  | 0x11 => ofFS Instr.sub r
  | 0x12 => ofFS Instr.mul r
  | 0x13 => ofFS Instr.mulh r
  | 0x14 => ofFS Instr.and r
  | 0x15 => ofFS Instr.or r
  | 0x16 => ofFS Instr.xor r
  | 0x17 => ofFS Instr.shl r
  | 0x18 => ofFS Instr.shr r
  | 0x19 => ofFS Instr.sra r
  | 0x1A => ofFS Instr.min r
  | 0x1B => ofFS Instr.max r
  | 0x1C => ofFDA Instr.clz r
  | 0x1D => ofFDA Instr.popc r
  | 0x1E => ofFS Instr.bext r
  | 0x1F => ofFS Instr.bins r
  | 0x20 => ofFS Instr.lea r
  | 0x21 => ofFDB Instr.mov r
  | 0x22 => ofFS Instr.add64 r
  | 0x23 => ofFDB Instr.rdcr r
  | 0x24 => ofFAB Instr.wrcr r
  | 0x25 => ofFS Instr.fadd r
  | 0x26 => ofFS Instr.fmul r
  | 0x27 => ofFS Instr.fmac r
  | 0x28 => ofFS Instr.fmin r
  | 0x29 => ofFS Instr.fmax r
  | 0x30 => ofFC6 Instr.cmpI32 r
  | 0x31 => ofFC6 Instr.cmpN32 r
  | 0x32 => ofFC8 Instr.cmpF32 r
  | 0x33 => ofFP Instr.pand r
  | 0x34 => ofFP Instr.por r
  | 0x35 => ofFP Instr.pxor r
  | 0x36 => ofFN Instr.pnot r
  | 0x37 => ofFC2 Instr.btst r
  | 0x38 => ofFS Instr.cvtF2i r
  | 0x39 => ofFS Instr.cvtI2f r
  | 0x3A => ofFS Instr.cvtF2b r
  | 0x3B => ofFVKc Instr.vcvt r
  | 0x3C => ofFVp Instr.vpack r
  | 0x3D => ofFVIu Instr.vunpk r
  | 0x3E => ofFV0 Instr.vqnt r
  | 0x3F => ofFVIq Instr.vdqnt r
  | 0x40 => ofFV Instr.vscl r
  | 0x41 => ofFV Instr.vadd r
  | 0x42 => ofFV Instr.vsub r
  | 0x43 => ofFV Instr.vmul r
  | 0x44 => ofFV Instr.vmac r
  | 0x45 => ofFV Instr.vmin r
  | 0x46 => ofFV Instr.vmax r
  | 0x47 => ofFVT Instr.vabs r
  | 0x48 => ofFVA Instr.vexp2 r
  | 0x49 => ofFVA Instr.vrcp r
  | 0x4A => ofFVA Instr.vrsqrt r
  | 0x4B => ofFV Instr.vclt r
  | 0x4C => ofFV Instr.vceq r
  | 0x4D => ofFV0 Instr.vsel r
  | 0x4E => ofFV Instr.viadd r
  | 0x4F => ofFV Instr.visub r
  | 0x50 => ofFV Instr.vimul r
  | 0x51 => ofFV Instr.vimac r
  | 0x52 => ofFV Instr.vimin r
  | 0x53 => ofFV Instr.vimax r
  | 0x54 => ofFV0 Instr.vand r
  | 0x55 => ofFV0 Instr.vor r
  | 0x56 => ofFV0 Instr.vxor r
  | 0x57 => ofFV Instr.vshl r
  | 0x58 => ofFV Instr.vshr r
  | 0x59 => ofFV Instr.vsra r
  | 0x5A => ofFV Instr.vilt r
  | 0x5B => ofFV Instr.vieq r
  | 0x5C => ofFVA Instr.vredsum r
  | 0x5D => ofFVA Instr.vredmax r
  | 0x5E => ofFV Instr.vperm r
  | 0x5F => ofFVB Instr.vbcst r
  | 0x60 => ofFVE Instr.vext r
  | 0x61 => ofFVN Instr.vins r
  | 0x62 => ofFVKk Instr.vtopk r
  | 0x63 => ofFVKk Instr.vtopkI r
  | 0x64 => ofFVA Instr.vmov r
  | 0x65 => ofFVKs Instr.vscan r
  | 0x66 => ofFVT Instr.vcls r
  | 0x67 => ofFVC Instr.vchk r
  | 0x68 => ofFVT Instr.vsclf r
  | 0x69 => ofFVT Instr.vround r
  | 0x70 => ofFM Instr.ldw r
  | 0x71 => ofFM Instr.ldh r
  | 0x72 => ofFM Instr.ldb r
  | 0x73 => ofFM Instr.stw r
  | 0x74 => ofFM Instr.sth r
  | 0x75 => ofFM Instr.stb r
  | 0x76 => ofFMV Instr.vld r
  | 0x77 => ofFMV Instr.vst r
  | 0x78 => ofFMV Instr.vlds r
  | 0x79 => ofFMV Instr.vsts r
  | 0x7A => ofFMP Instr.pref r
  | 0x7B => ofFS Instr.atomAdd r
  | 0x7C => ofFS Instr.atomIncb r
  | 0x7D => ofFS Instr.atomCas r
  | 0x7E => ofFS Instr.stf r
  | 0x80 => ofFS Instr.sbind r
  | 0x81 => ofFD Instr.sunbind r
  | 0x82 => ofFD Instr.sdrain r
  | 0x83 => ofFS Instr.sstat r
  | 0x88 => ofFS Instr.cpy r
  | 0x89 => ofFS Instr.cpf r
  | 0x8A => ofFS Instr.cgat r
  | 0x8B => ofFS Instr.cscat r
  | 0x8C => ofFDA Instr.cfence r
  | 0x90 => ofFR Instr.barv r
  | 0x91 => ofFRT Instr.bartx r
  | 0x92 => ofFS Instr.barw r
  | 0x93 => ofFS Instr.wge r
  | 0x94 => ofFR Instr.cadd r
  | 0x95 => ofPhase r
  | 0x98 => ofFXA Instr.tcfg r
  | 0x99 => ofFXY Instr.tld r
  | 0x9A => ofFXY Instr.tldw r
  | 0x9B => ofFXY Instr.tst r
  | 0x9C => ofFXW Instr.wlat r
  | 0x9D => ofFX Instr.mmac r
  | 0x9E => ofFX Instr.mmacz r
  | 0x9F => ofFX Instr.aread r
  | 0xA0 => ofFXZ Instr.azero r
  | 0xA1 => ofFX Instr.arow r
  | 0xA2 => ofFXX Instr.fsig r
  | 0xA3 => ofFXY Instr.fgrp r
  | 0xA4 => ofFXB Instr.frep r
  | 0xA5 => ofFXS Instr.fscat r
  | 0xA6 => ofFXS Instr.fsum r
  | 0xA8 => ofFS Instr.hmk r
  | 0xA9 => ofFS Instr.hpost r
  | 0xAA => ofFS Instr.hedit r
  | 0xAB => ofFS Instr.hfrz r
  | 0xAC => ofFS Instr.hthaw r
  | 0xAD => ofFDA Instr.hfree r
  | 0xAE => ofFS Instr.hstat r
  | 0xB0 => ofFXT Instr.xst r
  | 0xB1 => ofFS Instr.xadd r
  | 0xB2 => ofFS Instr.xincb r
  | 0xB3 => ofFS Instr.xcas r
  | 0xB8 => ofFDA Instr.lwait r
  | 0xB9 => ofFA Instr.lrel r
  | 0xBA => ofFAB Instr.lhint r
  | 0xC0 => ofFB Instr.eret r
  | 0xC1 => ofFAB Instr.save r
  | 0xC2 => ofFAB Instr.rest r
  | 0xC3 => ofFAB Instr.sev r
  | 0xC4 => ofFS Instr.domw r
  | _ => none

/-- Why a word is no instruction: its OP is reserved in the opcode map (R57), or its fields break R35, R38, R39, R43 or
the instruction's entry. Both raise illegal-instruction. -/
inductive DecodeError where
  | reservedOpcode (op : BitVec 8)
  | illegalField (op : BitVec 8)
deriving DecidableEq, Repr

/-- The opcode map of R57: the 160 assigned values. -/
def opcodeAssigned (op : BitVec 8) : Bool :=
  let n := op.toNat
  decide (n ≤ 0x0B ∨ (0x10 ≤ n ∧ n ≤ 0x29) ∨ (0x30 ≤ n ∧ n ≤ 0x69) ∨ (0x70 ≤ n ∧ n ≤ 0x7E) ∨ (0x80 ≤ n ∧ n ≤ 0x83) ∨
    (0x88 ≤ n ∧ n ≤ 0x8C) ∨ (0x90 ≤ n ∧ n ≤ 0x95) ∨ (0x98 ≤ n ∧ n ≤ 0xA6) ∨ (0xA8 ≤ n ∧ n ≤ 0xAE) ∨
    (0xB0 ≤ n ∧ n ≤ 0xB3) ∨ (0xB8 ≤ n ∧ n ≤ 0xBA) ∨ (0xC0 ≤ n ∧ n ≤ 0xC4))

/-- The instruction of an operation word, whatever its chain bit. -/
def decodeWord (w : Word) : Except DecodeError Instr :=
  let r := Raw.ofWord w
  match r.toInstr with
  | some i => .ok i
  | none => if opcodeAssigned r.op then .error (.illegalField r.op) else .error (.reservedOpcode r.op)

/-- The 32-bit word of four bytes, the first at the lowest address (R4). -/
def wordOfBytes : List Byte → Option Word
  | [b0, b1, b2, b3] => some (b3 ++ b2 ++ b1 ++ b0)
  | _ => none

/-- Decoding is total on any bytes: the instruction of the first word and the bytes that follow it. -/
def decodeBytes (bs : List Byte) : Option (Instr × List Byte) :=
  match wordOfBytes (bs.take 4) with
  | none => none
  | some w =>
    match decodeWord w with
    | .ok i => some (i, bs.drop 4)
    | .error _ => none

/-! ### Encoding -/

def rawFS (op : BitVec 8) (o : FS) : Raw := ⟨op, o.g, o.d, o.a, o.b.fieldB, o.b.fieldM⟩
def rawFDA (op : BitVec 8) (o : FDA) : Raw := ⟨op, o.g, o.d, o.a, 0, 0⟩
def rawFDB (op : BitVec 8) (o : FDB) : Raw := ⟨op, o.g, o.d, 0, o.b.fieldB, o.b.fieldM⟩
def rawFAB (op : BitVec 8) (o : FAB) : Raw := ⟨op, o.g, 0, o.a, o.b.fieldB, o.b.fieldM⟩
def rawFB (op : BitVec 8) (o : FB) : Raw := ⟨op, o.g, 0, 0, o.b.fieldB, o.b.fieldM⟩
def rawFA (op : BitVec 8) (o : FA) : Raw := ⟨op, o.g, 0, o.a, 0, 0⟩
def rawFD (op : BitVec 8) (o : FD) : Raw := ⟨op, o.g, o.d, 0, 0, 0⟩
def rawFG (op : BitVec 8) (o : FG) : Raw := ⟨op, o.g, 0, 0, 0, 0⟩
def rawFJ (op : BitVec 8) (o : FJ) : Raw :=
  ⟨op, o.g, o.j.extractLsb' 14 6, o.j.extractLsb' 8 6, o.j.extractLsb' 2 6, o.j.extractLsb' 0 2⟩
def rawFL (op : BitVec 8) (o : FL) : Raw :=
  ⟨op, o.g, o.a, o.j.extractLsb' 8 6, o.j.extractLsb' 2 6, o.j.extractLsb' 0 2⟩
def rawFC (op : BitVec 8) (o : FC) : Raw := ⟨op, o.g, o.cc ++ o.pd, o.a, o.b.fieldB, o.b.fieldM⟩
def rawFP (op : BitVec 8) (o : FP) : Raw := ⟨op, o.g, o.k ++ o.pd, 0#3 ++ o.a, 0#3 ++ o.b, 0⟩
def rawFN (op : BitVec 8) (o : FN) : Raw := ⟨op, o.g, 0#3 ++ o.pd, 0#3 ++ o.a, 0, 0⟩
def rawFV (op : BitVec 8) (o : FV) : Raw := ⟨op, o.g, o.d.field, o.a.field, o.b.field, o.t⟩
def rawFV0 (op : BitVec 8) (o : FV0) : Raw := ⟨op, o.g, o.d.field, o.a.field, o.b.field, 0⟩
def rawFVT (op : BitVec 8) (o : FVT) : Raw := ⟨op, o.g, o.d.field, o.a.field, 0, o.t⟩
def rawFVA (op : BitVec 8) (o : FVA) : Raw := ⟨op, o.g, o.d.field, o.a.field, 0, 0⟩
def rawFVC (op : BitVec 8) (o : FVC) : Raw := ⟨op, o.g, 0, o.a.field, o.b.field, 0⟩
def rawFVI (op : BitVec 8) (o : FVI) : Raw := ⟨op, o.g, o.d.field, o.a.field, o.i, o.t⟩
def rawFVK (op : BitVec 8) (o : FVK) : Raw := ⟨op, o.g, o.d.field, o.a.field, o.k, 0⟩
def rawFVB (op : BitVec 8) (o : FVB) : Raw := ⟨op, o.g, o.d.field, o.a, 0, o.t⟩
def rawFVE (op : BitVec 8) (o : FVE) : Raw := ⟨op, o.g, o.d, o.a.field, o.i, o.t⟩
def rawFVN (op : BitVec 8) (o : FVN) : Raw := ⟨op, o.g, o.d.field, o.a, o.i, o.t⟩
def rawFM (op : BitVec 8) (o : FM) : Raw := ⟨op, o.g, o.d, o.a, o.off.extractLsb' 2 6, o.off.extractLsb' 0 2⟩
def rawFMV (op : BitVec 8) (o : FMV) : Raw :=
  ⟨op, o.g, o.d.field, o.a, o.off.extractLsb' 2 6, o.off.extractLsb' 0 2⟩
def rawFMP (op : BitVec 8) (o : FMP) : Raw := ⟨op, o.g, 0, o.a, o.off.extractLsb' 2 6, o.off.extractLsb' 0 2⟩
def rawFR (op : BitVec 8) (o : FR) : Raw := ⟨op, o.g, 0#3 ++ o.sc, o.a, o.b.fieldB, o.b.fieldM⟩
def rawFRT (op : BitVec 8) (o : FRT) : Raw :=
  ⟨op, o.g, 0#2 ++ BitVec.ofBool o.na ++ o.sc, o.a, o.b.fieldB, o.b.fieldM⟩
def rawFX (op : BitVec 8) (o : FX) : Raw := ⟨op, o.g, o.x ++ o.y, o.a, o.b.fieldB, o.b.fieldM⟩
def rawFXY (op : BitVec 8) (o : FXY) : Raw := ⟨op, o.g, 0#3 ++ o.y, o.a, o.b.fieldB, o.b.fieldM⟩
def rawFXA (op : BitVec 8) (o : FXA) : Raw := ⟨op, o.g, 0#3 ++ o.y, o.a, 0, 0⟩
def rawFXW (op : BitVec 8) (o : FXW) : Raw := ⟨op, o.g, 0#3 ++ o.y, 0, 0, 0⟩
def rawFXZ (op : BitVec 8) (o : FXZ) : Raw := ⟨op, o.g, o.x ++ 0#3, o.a, 0, 0⟩
def rawFXX (op : BitVec 8) (o : FXX) : Raw := ⟨op, o.g, o.x ++ o.y, 0, 0, 0⟩
def rawFXB (op : BitVec 8) (o : FXB) : Raw := ⟨op, o.g, o.x ++ o.y, 0, o.b.fieldB, o.b.fieldM⟩
def rawFXS (op : BitVec 8) (o : FXS) : Raw := ⟨op, o.g, o.x ++ 0#3, o.a, o.b.fieldB, o.b.fieldM⟩
def rawFXT (op : BitVec 8) (o : FXT) : Raw := ⟨op, o.g, o.d, o.a, o.b, 0⟩

/-- The fields of an operation's word. An event or command has no word: its fields are those of `nop`, and nothing
decodes to it. -/
def Instr.toRaw : Instr → Raw
  | .nop => ⟨0x00, 0, 0, 0, 0, 0⟩
  | .lpx n => ⟨0x01, 0, 0, 0, 0, n⟩
  | .br o => rawFJ 0x02 o
  | .brl o => rawFJ 0x03 o
  | .jr o => rawFB 0x04 o
  | .loop o => rawFL 0x05 o
  | .halt o => rawFG 0x06 o
  | .trap o => rawFB 0x07 o
  | .spawn o => rawFAB 0x08 o
  | .trig o => rawFG 0x09 o
  | .ckpt o => rawFG 0x0A o
  | .chk o => rawFAB 0x0B o
  | .add o => rawFS 0x10 o
  | .sub o => rawFS 0x11 o
  | .mul o => rawFS 0x12 o
  | .mulh o => rawFS 0x13 o
  | .and o => rawFS 0x14 o
  | .or o => rawFS 0x15 o
  | .xor o => rawFS 0x16 o
  | .shl o => rawFS 0x17 o
  | .shr o => rawFS 0x18 o
  | .sra o => rawFS 0x19 o
  | .min o => rawFS 0x1A o
  | .max o => rawFS 0x1B o
  | .clz o => rawFDA 0x1C o
  | .popc o => rawFDA 0x1D o
  | .bext o => rawFS 0x1E o
  | .bins o => rawFS 0x1F o
  | .lea o => rawFS 0x20 o
  | .mov o => rawFDB 0x21 o
  | .add64 o => rawFS 0x22 o
  | .rdcr o => rawFDB 0x23 o
  | .wrcr o => rawFAB 0x24 o
  | .fadd o => rawFS 0x25 o
  | .fmul o => rawFS 0x26 o
  | .fmac o => rawFS 0x27 o
  | .fmin o => rawFS 0x28 o
  | .fmax o => rawFS 0x29 o
  | .cmpI32 o => rawFC 0x30 o
  | .cmpN32 o => rawFC 0x31 o
  | .cmpF32 o => rawFC 0x32 o
  | .pand o => rawFP 0x33 o
  | .por o => rawFP 0x34 o
  | .pxor o => rawFP 0x35 o
  | .pnot o => rawFN 0x36 o
  | .btst o => rawFC 0x37 o
  | .cvtF2i o => rawFS 0x38 o
  | .cvtI2f o => rawFS 0x39 o
  | .cvtF2b o => rawFS 0x3A o
  | .vcvt o => rawFVK 0x3B o
  | .vpack o => rawFV 0x3C o
  | .vunpk o => rawFVI 0x3D o
  | .vqnt o => rawFV0 0x3E o
  | .vdqnt o => rawFVI 0x3F o
  | .vscl o => rawFV 0x40 o
  | .vadd o => rawFV 0x41 o
  | .vsub o => rawFV 0x42 o
  | .vmul o => rawFV 0x43 o
  | .vmac o => rawFV 0x44 o
  | .vmin o => rawFV 0x45 o
  | .vmax o => rawFV 0x46 o
  | .vabs o => rawFVT 0x47 o
  | .vexp2 o => rawFVA 0x48 o
  | .vrcp o => rawFVA 0x49 o
  | .vrsqrt o => rawFVA 0x4A o
  | .vclt o => rawFV 0x4B o
  | .vceq o => rawFV 0x4C o
  | .vsel o => rawFV0 0x4D o
  | .viadd o => rawFV 0x4E o
  | .visub o => rawFV 0x4F o
  | .vimul o => rawFV 0x50 o
  | .vimac o => rawFV 0x51 o
  | .vimin o => rawFV 0x52 o
  | .vimax o => rawFV 0x53 o
  | .vand o => rawFV0 0x54 o
  | .vor o => rawFV0 0x55 o
  | .vxor o => rawFV0 0x56 o
  | .vshl o => rawFV 0x57 o
  | .vshr o => rawFV 0x58 o
  | .vsra o => rawFV 0x59 o
  | .vilt o => rawFV 0x5A o
  | .vieq o => rawFV 0x5B o
  | .vredsum o => rawFVA 0x5C o
  | .vredmax o => rawFVA 0x5D o
  | .vperm o => rawFV 0x5E o
  | .vbcst o => rawFVB 0x5F o
  | .vext o => rawFVE 0x60 o
  | .vins o => rawFVN 0x61 o
  | .vtopk o => rawFVK 0x62 o
  | .vtopkI o => rawFVK 0x63 o
  | .vmov o => rawFVA 0x64 o
  | .vscan o => rawFVK 0x65 o
  | .vcls o => rawFVT 0x66 o
  | .vchk o => rawFVC 0x67 o
  | .vsclf o => rawFVT 0x68 o
  | .vround o => rawFVT 0x69 o
  | .ldw o => rawFM 0x70 o
  | .ldh o => rawFM 0x71 o
  | .ldb o => rawFM 0x72 o
  | .stw o => rawFM 0x73 o
  | .sth o => rawFM 0x74 o
  | .stb o => rawFM 0x75 o
  | .vld o => rawFMV 0x76 o
  | .vst o => rawFMV 0x77 o
  | .vlds o => rawFMV 0x78 o
  | .vsts o => rawFMV 0x79 o
  | .pref o => rawFMP 0x7A o
  | .atomAdd o => rawFS 0x7B o
  | .atomIncb o => rawFS 0x7C o
  | .atomCas o => rawFS 0x7D o
  | .stf o => rawFS 0x7E o
  | .sbind o => rawFS 0x80 o
  | .sunbind o => rawFD 0x81 o
  | .sdrain o => rawFD 0x82 o
  | .sstat o => rawFS 0x83 o
  | .cpy o => rawFS 0x88 o
  | .cpf o => rawFS 0x89 o
  | .cgat o => rawFS 0x8A o
  | .cscat o => rawFS 0x8B o
  | .cfence o => rawFDA 0x8C o
  | .barv o => rawFR 0x90 o
  | .bartx o => rawFRT 0x91 o
  | .barw o => rawFS 0x92 o
  | .wge o => rawFS 0x93 o
  | .cadd o => rawFR 0x94 o
  | .phaseRel o => ⟨0x95, o.g, 0#3 ++ o.sc, 0, 0, 0⟩
  | .phaseAcq o => ⟨0x95, o.g, 0x08, 0, 0, 0⟩
  | .tcfg o => rawFXA 0x98 o
  | .tld o => rawFXY 0x99 o
  | .tldw o => rawFXY 0x9A o
  | .tst o => rawFXY 0x9B o
  | .wlat o => rawFXW 0x9C o
  | .mmac o => rawFX 0x9D o
  | .mmacz o => rawFX 0x9E o
  | .aread o => rawFX 0x9F o
  | .azero o => rawFXZ 0xA0 o
  | .arow o => rawFX 0xA1 o
  | .fsig o => rawFXX 0xA2 o
  | .fgrp o => rawFXY 0xA3 o
  | .frep o => rawFXB 0xA4 o
  | .fscat o => rawFXS 0xA5 o
  | .fsum o => rawFXS 0xA6 o
  | .hmk o => rawFS 0xA8 o
  | .hpost o => rawFS 0xA9 o
  | .hedit o => rawFS 0xAA o
  | .hfrz o => rawFS 0xAB o
  | .hthaw o => rawFS 0xAC o
  | .hfree o => rawFDA 0xAD o
  | .hstat o => rawFS 0xAE o
  | .xst o => rawFXT 0xB0 o
  | .xadd o => rawFS 0xB1 o
  | .xincb o => rawFS 0xB2 o
  | .xcas o => rawFS 0xB3 o
  | .lwait o => rawFDA 0xB8 o
  | .lrel o => rawFA 0xB9 o
  | .lhint o => rawFAB 0xBA o
  | .eret o => rawFB 0xC0 o
  | .save o => rawFAB 0xC1 o
  | .rest o => rawFAB 0xC2 o
  | .sev o => rawFAB 0xC3 o
  | .domw o => rawFS 0xC4 o
  | .resultLand _ => ⟨0, 0, 0, 0, 0, 0⟩
  | .loadReturn _ => ⟨0, 0, 0, 0, 0, 0⟩
  | .notification => ⟨0, 0, 0, 0, 0, 0⟩
  | .checkpoint => ⟨0, 0, 0, 0, 0, 0⟩
  | .recoveryRestore => ⟨0, 0, 0, 0, 0, 0⟩
  | .rerunEnd => ⟨0, 0, 0, 0, 0, 0⟩
  | .taskBind _ => ⟨0, 0, 0, 0, 0, 0⟩
  | .launchDependentStart _ => ⟨0, 0, 0, 0, 0, 0⟩
  | .jobStart _ => ⟨0, 0, 0, 0, 0, 0⟩
  | .pageWalkComplete _ => ⟨0, 0, 0, 0, 0, 0⟩
  | .jobComplete _ => ⟨0, 0, 0, 0, 0, 0⟩
  | .migration _ => ⟨0, 0, 0, 0, 0, 0⟩
  | .streamFetch _ => ⟨0, 0, 0, 0, 0, 0⟩
  | .streamVectorLand _ => ⟨0, 0, 0, 0, 0, 0⟩
  | .streamCompletionArrival _ => ⟨0, 0, 0, 0, 0, 0⟩
  | .releasePerform _ => ⟨0, 0, 0, 0, 0, 0⟩
  | .stfRelease _ => ⟨0, 0, 0, 0, 0, 0⟩
  | .matrixOpComplete => ⟨0, 0, 0, 0, 0, 0⟩
  | .treeFlitArrival _ => ⟨0, 0, 0, 0, 0, 0⟩
  | .treeRefillComplete _ _ => ⟨0, 0, 0, 0, 0, 0⟩
  | .treeDelivery _ _ _ => ⟨0, 0, 0, 0, 0, 0⟩
  | .treeFreezeComplete _ => ⟨0, 0, 0, 0, 0, 0⟩
  | .rotorSlotStart => ⟨0, 0, 0, 0, 0, 0⟩
  | .flitReceive _ => ⟨0, 0, 0, 0, 0, 0⟩
  | .ackReceive _ _ => ⟨0, 0, 0, 0, 0, 0⟩
  | .ackTimer _ => ⟨0, 0, 0, 0, 0, 0⟩
  | .replayTimeout _ => ⟨0, 0, 0, 0, 0, 0⟩
  | .pairUnreachable _ => ⟨0, 0, 0, 0, 0, 0⟩
  | .laserPowerLow _ _ => ⟨0, 0, 0, 0, 0, 0⟩
  | .laserPowerHigh _ _ => ⟨0, 0, 0, 0, 0, 0⟩
  | .laserInputLost _ _ => ⟨0, 0, 0, 0, 0, 0⟩
  | .laserInputRestored _ _ => ⟨0, 0, 0, 0, 0, 0⟩
  | .layerLoadStart => ⟨0, 0, 0, 0, 0, 0⟩
  | .layerLoadComplete _ _ => ⟨0, 0, 0, 0, 0, 0⟩
  | .layerLoadFail _ _ _ => ⟨0, 0, 0, 0, 0, 0⟩
  | .lwaitTimeout => ⟨0, 0, 0, 0, 0, 0⟩
  | .resyncComplete _ => ⟨0, 0, 0, 0, 0, 0⟩
  | .budgetWindow _ => ⟨0, 0, 0, 0, 0, 0⟩
  | .commandFetch _ => ⟨0, 0, 0, 0, 0, 0⟩
  | .launch _ _ => ⟨0, 0, 0, 0, 0, 0⟩
  | .copy _ _ => ⟨0, 0, 0, 0, 0, 0⟩
  | .signal _ _ => ⟨0, 0, 0, 0, 0, 0⟩
  | .wait _ _ => ⟨0, 0, 0, 0, 0, 0⟩
  | .waitSatisfied _ _ => ⟨0, 0, 0, 0, 0, 0⟩
  | .treeMake _ _ => ⟨0, 0, 0, 0, 0, 0⟩
  | .treeEdit _ _ => ⟨0, 0, 0, 0, 0, 0⟩
  | .treeFree _ _ => ⟨0, 0, 0, 0, 0, 0⟩
  | .power _ _ => ⟨0, 0, 0, 0, 0, 0⟩
  | .fence _ _ => ⟨0, 0, 0, 0, 0, 0⟩
  | .ctxCreate _ _ => ⟨0, 0, 0, 0, 0, 0⟩
  | .ctxDestroy _ _ => ⟨0, 0, 0, 0, 0, 0⟩
  | .ctxPreempt _ _ => ⟨0, 0, 0, 0, 0, 0⟩
  | .ctxRestore _ _ => ⟨0, 0, 0, 0, 0, 0⟩
  | .ctxQueue _ _ => ⟨0, 0, 0, 0, 0, 0⟩
  | .ctxResumeq _ _ => ⟨0, 0, 0, 0, 0, 0⟩
  | .ctxGrant _ _ => ⟨0, 0, 0, 0, 0, 0⟩
  | .ctxHandler _ _ => ⟨0, 0, 0, 0, 0, 0⟩
  | .ctxObject _ _ => ⟨0, 0, 0, 0, 0, 0⟩
  | .ctxObjreset _ _ => ⟨0, 0, 0, 0, 0, 0⟩
  | .ctxBudget _ _ => ⟨0, 0, 0, 0, 0, 0⟩
  | .ctxInval _ _ => ⟨0, 0, 0, 0, 0, 0⟩
  | .ctxFault _ _ => ⟨0, 0, 0, 0, 0, 0⟩
  | .ctxEvring _ _ => ⟨0, 0, 0, 0, 0, 0⟩
  | .drainTimeout _ => ⟨0, 0, 0, 0, 0, 0⟩
  | .saveComplete _ => ⟨0, 0, 0, 0, 0, 0⟩
  | .saveTimeout _ => ⟨0, 0, 0, 0, 0, 0⟩
  | .contextQuiesced _ => ⟨0, 0, 0, 0, 0, 0⟩
  | .powerOn => ⟨0, 0, 0, 0, 0, 0⟩
  | .bringupStageDone _ => ⟨0, 0, 0, 0, 0, 0⟩
  | .hctlGo => ⟨0, 0, 0, 0, 0, 0⟩
  | .hctlHrst => ⟨0, 0, 0, 0, 0, 0⟩
  | .mrst _ => ⟨0, 0, 0, 0, 0, 0⟩
  | .evhead _ => ⟨0, 0, 0, 0, 0, 0⟩
  | .dbell _ _ => ⟨0, 0, 0, 0, 0, 0⟩
  | .hostRegisterWrite _ _ _ => ⟨0, 0, 0, 0, 0, 0⟩
  | .cxlMemRead _ _ _ => ⟨0, 0, 0, 0, 0, 0⟩
  | .cxlMemWrite _ _ _ => ⟨0, 0, 0, 0, 0, 0⟩
  | .ucieModuleLoss _ => ⟨0, 0, 0, 0, 0, 0⟩
  | .frameReceive _ => ⟨0, 0, 0, 0, 0, 0⟩
  | .thermalTrip _ _ => ⟨0, 0, 0, 0, 0, 0⟩
  | .thermalClear => ⟨0, 0, 0, 0, 0, 0⟩
  | .postSourceRead _ => ⟨0, 0, 0, 0, 0, 0⟩
  | .treeThawComplete _ => ⟨0, 0, 0, 0, 0, 0⟩
  | .operatingPointInForce => ⟨0, 0, 0, 0, 0, 0⟩

/-- The word of an operation with the given chain bit. -/
def encode (c : Bool) (i : Instr) : Word := i.toRaw.toWord c

/-- The host's question: the instruction that the decoder reads from the table's bits `w` of a row of `nbits` bits. Every
row with bits has one word of 32, whose chain bit is framing. -/
def decodeTableWord (nbits w : Nat) : Option Instr :=
  if nbits = 32 then
    match decodeWord (BitVec.ofNat 32 w) with
    | .ok i => some i
    | .error _ => none
  else none

end Sys2Proof
end

