-- ==== Sys2Proof/Machine/Num.lean ====
section
/-! DEFINITION. Number formats and exact arithmetic: the formats of R67 to R72, the rounding of R77 with the flags of R81,
and the float operations every chapter shares. Values are exact dyadic numbers until the one rounding. -/

namespace Sys2Proof.Machine

/-! ### Flags (R80) -/

def fNX : Word := 1
def fUF : Word := 2
def fOF : Word := 4
def fDZ : Word := 8
def fNV : Word := 16
def fNF : Word := 32
def fSAT : Word := 64

/-- The flag word when the condition holds. -/
def flagIf (c : Bool) (f : Word) : Word := if c then f else 0

/-! ### Formats -/

/-- The five floating-point formats (R68). -/
inductive FFmt where
  | f32
  | bf16
  | f16
  | e4m3
  | e5m2
deriving DecidableEq, Repr

def FFmt.ebits : FFmt → Nat
  | .f32 => 8
  | .bf16 => 8
  | .f16 => 5
  | .e4m3 => 4
  | .e5m2 => 5

def FFmt.fbits : FFmt → Nat
  | .f32 => 23
  | .bf16 => 7
  | .f16 => 10
  | .e4m3 => 3
  | .e5m2 => 2

def FFmt.bias : FFmt → Nat
  | .f32 => 127
  | .bf16 => 127
  | .f16 => 15
  | .e4m3 => 7
  | .e5m2 => 15

def FFmt.width (f : FFmt) : Nat := 1 + f.ebits + f.fbits

/-- The largest finite encoding, sign 0 (R68). -/
def FFmt.maxFinite : FFmt → Nat
  | .f32 => 0x7F7FFFFF
  | .bf16 => 0x7F7F
  | .f16 => 0x7BFF
  | .e4m3 => 0x7E
  | .e5m2 => 0x7B

/-- The canonical NaN (R69). -/
def FFmt.nan : FFmt → Nat
  | .f32 => 0x7FC00000
  | .bf16 => 0x7FC0
  | .f16 => 0x7E00
  | .e4m3 => 0x7F
  | .e5m2 => 0x7E

/-- The positive infinity; e4m3 has none and delivers its NaN (R69, R77 step 3). -/
def FFmt.inf : FFmt → Nat
  | .f32 => 0x7F800000
  | .bf16 => 0x7F80
  | .f16 => 0x7C00
  | .e4m3 => 0x7F
  | .e5m2 => 0x7C

def FFmt.signBit (f : FFmt) : Nat := 2 ^ (f.ebits + f.fbits)

/-- A decoded value: a NaN (signalling or quiet), an infinity, or (-1)^neg × m × 2^e. -/
inductive FVal where
  | nan (signalling : Bool)
  | inf (neg : Bool)
  | fin (neg : Bool) (m : Nat) (e : Int)
deriving DecidableEq, Repr

/-- The value of an encoding (R68 to R70). -/
def FFmt.decode (f : FFmt) (x : Nat) : FVal :=
  let neg := (x / f.signBit) % 2 = 1
  let ex := (x / 2 ^ f.fbits) % 2 ^ f.ebits
  let fr := x % 2 ^ f.fbits
  let top := 2 ^ f.ebits - 1
  match f with
  | .e4m3 =>
    if ex = 15 ∧ fr = 7 then .nan false
    else if ex = 0 then .fin neg fr (1 - (f.bias : Int) - f.fbits)
    else .fin neg (2 ^ f.fbits + fr) ((ex : Int) - f.bias - f.fbits)
  | _ =>
    if ex = top then
      if fr = 0 then .inf neg
      else .nan (f ≠ .e5m2 ∧ fr < 2 ^ (f.fbits - 1))
    else if ex = 0 then .fin neg fr (1 - (f.bias : Int) - f.fbits)
    else .fin neg (2 ^ f.fbits + fr) ((ex : Int) - f.bias - f.fbits)

def FVal.isNan : FVal → Bool
  | .nan _ => true
  | _ => false

def FVal.isSnan : FVal → Bool
  | .nan s => s
  | _ => false

def FVal.isInf : FVal → Bool
  | .inf _ => true
  | _ => false

/-- A NaN or an infinity: what sets NF when read (R81). -/
def FVal.nonFinite : FVal → Bool
  | .fin _ _ _ => false
  | _ => true

def FVal.isZero : FVal → Bool
  | .fin _ m _ => m = 0
  | _ => false

def FVal.neg : FVal → Bool
  | .nan _ => false
  | .inf n => n
  | .fin n _ _ => n

/-- The four rounding modes (R79). -/
inductive RMode where
  | rne
  | rz
  | rd
  | ru
deriving DecidableEq, Repr

def RMode.ofBits (n : Nat) : RMode :=
  match n % 4 with
  | 0 => .rne
  | 1 => .rz
  | 2 => .rd
  | _ => .ru

/-- A delivered encoding and the flags raised with it. -/
structure FRes where
  bits : Nat
  fl : Word
deriving DecidableEq, Repr

/-- Number of bits of m, 0 for 0. -/
def bitLen (m : Nat) : Nat := if m = 0 then 0 else Nat.log2 m + 1

/-- Whether mode rounds the magnitude up, from the kept integer's parity and the discarded part: `c` compares twice the
remainder with the unit (R77 step 1). -/
def roundsUp (mode : RMode) (neg odd : Bool) (inexact : Bool) (c : Ordering) : Bool :=
  match mode with
  | .rne => c = .gt || (c = .eq && odd)
  | .rz => false
  | .rd => neg && inexact
  | .ru => !neg && inexact

/-- m × 2^e (with more below the last bit of m when `sticky`) as an integer multiple of 2^q, rounded; and whether anything
was lost. -/
def roundAt (mode : RMode) (neg : Bool) (m : Nat) (e q : Int) (sticky : Bool) : Nat × Bool :=
  if q ≤ e then
    let n := m * 2 ^ (e - q).toNat
    (if roundsUp mode neg (n % 2 = 1) sticky .lt then n + 1 else n, sticky)
  else
    let sh := (q - e).toNat
    let n := m / 2 ^ sh
    let r := m % 2 ^ sh
    let inexact := r ≠ 0 || sticky
    let c := match compare (2 * r) (2 ^ sh) with
      | .eq => if sticky then Ordering.gt else .eq
      | o => o
    (if roundsUp mode neg (n % 2 = 1) inexact c then n + 1 else n, inexact)

/-- The encoding of n × 2^q, q the quantum of its exponent, for a magnitude not above the largest finite one; none when
it is above (R77 step 2). -/
def FFmt.encodeAt (f : FFmt) (n : Nat) (q : Int) : Option Nat :=
  let (n, q) := if n = 2 ^ (f.fbits + 1) then (2 ^ f.fbits, q + 1) else (n, q)
  if n < 2 ^ f.fbits then some n
  else
    let ex := (q + f.fbits + f.bias).toNat
    let x := ex * 2 ^ f.fbits + (n - 2 ^ f.fbits)
    if ex < 2 ^ f.ebits ∧ x ≤ f.maxFinite then some x else none

/-- What an overflow delivers: the value IEEE 754-2019 prescribes for mode and sign, the NaN of e4m3, or the largest
finite value under `.sat` (R77). -/
def FFmt.overflow (f : FFmt) (mode : RMode) (neg satur : Bool) : FRes :=
  let s := if neg then f.signBit else 0
  let toInf := match mode with
    | .rne => true
    | .rz => false
    | .rd => neg
    | .ru => !neg
  if satur || !toInf then ⟨s + f.maxFinite, fOF ||| fNX⟩
  else if f = .e4m3 then ⟨f.nan, fOF ||| fNX ||| fNF⟩
  else ⟨s + f.inf, fOF ||| fNX ||| fNF⟩

/-- `round(v, fmt, mode)` of R77 with the flags of R81, for v = (-1)^neg × m × 2^e, or just above it in magnitude when
`sticky`. A zero keeps the sign it is given. -/
def FFmt.round (f : FFmt) (mode : RMode) (satur neg : Bool) (m : Nat) (e : Int) (sticky : Bool := false) : FRes :=
  if m = 0 then ⟨if neg then f.signBit else 0, 0⟩
  else
    let top := e + bitLen m - 1
    let emin : Int := 1 - f.bias
    let q := max (top - f.fbits) (emin - f.fbits)
    let (n, inexact) := roundAt mode neg m e q sticky
    match f.encodeAt n q with
    | none => f.overflow mode neg satur
    | some x =>
      let (n', _) := roundAt mode neg m e (top - f.fbits) sticky
      let tiny := top < emin && !(top = emin - 1 && n' = 2 ^ (f.fbits + 1))
      ⟨(if neg then f.signBit else 0) + x, flagIf inexact fNX ||| flagIf (tiny && inexact) fUF⟩

/-- The canonical NaN with NF, and NV when asked for (R70, R81). -/
def FFmt.nanRes (f : FFmt) (nv : Bool) : FRes := ⟨f.nan, fNF ||| flagIf nv fNV⟩

/-- An infinity of the given sign; in e4m3 its canonical NaN (R88). -/
def FFmt.infRes (f : FFmt) (neg : Bool) : FRes :=
  if f = .e4m3 then ⟨f.nan, fNF⟩ else ⟨(if neg then f.signBit else 0) + f.inf, fNF⟩

/-! ### Exact sums of dyadic numbers -/

/-- An exact dyadic number m × 2^e. -/
structure Dy where
  m : Int
  e : Int
deriving DecidableEq, Repr

def Dy.zero : Dy := ⟨0, 0⟩
def Dy.mul (a b : Dy) : Dy := ⟨a.m * b.m, a.e + b.e⟩
def Dy.add (a b : Dy) : Dy :=
  if a.m = 0 then b
  else if b.m = 0 then a
  else if a.e ≤ b.e then ⟨a.m + b.m * 2 ^ (b.e - a.e).toNat, a.e⟩
  else ⟨a.m * 2 ^ (a.e - b.e).toNat + b.m, b.e⟩
def Dy.sum (l : List Dy) : Dy := l.foldl Dy.add .zero

/-- The exact value of a finite number; 0 for the others. -/
def FVal.dy : FVal → Dy
  | .fin neg m e => ⟨if neg then -(m : Int) else m, e⟩
  | _ => .zero

def Dy.ofInt (n : Int) : Dy := ⟨n, 0⟩

/-- Round an exact number; a zero takes the sign `zneg`. -/
def FFmt.roundDy (f : FFmt) (mode : RMode) (satur : Bool) (v : Dy) (zneg : Bool := false) : FRes :=
  if v.m = 0 then f.round mode satur zneg 0 0 else f.round mode satur (v.m < 0) v.m.natAbs v.e

/-! ### Arithmetic (R71, R77, R81) -/

/-- The sign of an exact zero sum of two terms: theirs when they agree, else + except under RD (IEEE 754-2019). -/
def zeroSumNeg (mode : RMode) (n1 n2 : Bool) : Bool := if n1 = n2 then n1 else mode = .rd

/-- x + y, rounded once. -/
def FFmt.addV (f : FFmt) (mode : RMode) (x y : FVal) : FRes :=
  match x, y with
  | .nan s, v => f.nanRes (s || v.isSnan)
  | v, .nan s => f.nanRes (s || v.isSnan)
  | .inf a, .inf b => if a = b then f.infRes a else f.nanRes true
  | .inf a, .fin _ _ _ => f.infRes a
  | .fin _ _ _, .inf b => f.infRes b
  | .fin a _ _, .fin b _ _ => f.roundDy mode false (x.dy.add y.dy) (zeroSumNeg mode a b)

/-- x × y, rounded once. -/
def FFmt.mulV (f : FFmt) (mode : RMode) (x y : FVal) : FRes :=
  match x, y with
  | .nan s, v => f.nanRes (s || v.isSnan)
  | v, .nan s => f.nanRes (s || v.isSnan)
  | .inf a, v => if v.isZero then f.nanRes true else f.infRes (a != v.neg)
  | v, .inf b => if v.isZero then f.nanRes true else f.infRes (b != v.neg)
  | .fin a m e, .fin b n k => f.round mode false (a != b) (m * n) (e + k)

/-- d + x × y, fused, rounded once. 0 × ∞ sets NV even when d is a quiet NaN (R106, R155). -/
def FFmt.fmaV (f : FFmt) (mode : RMode) (d x y : FVal) : FRes :=
  let bad := (x.isZero && y.isInf) || (x.isInf && y.isZero)
  if d.isNan || x.isNan || y.isNan then f.nanRes (d.isSnan || x.isSnan || y.isSnan || bad)
  else if bad then f.nanRes true
  else
    let pn := x.neg != y.neg
    if x.isInf || y.isInf then
      if d.isInf && d.neg != pn then f.nanRes true else f.infRes pn
    else if d.isInf then f.infRes d.neg
    else f.roundDy mode false (d.dy.add (x.dy.mul y.dy)) (zeroSumNeg mode d.neg pn)

/-- -x. -/
def FVal.negate : FVal → FVal
  | .nan s => .nan s
  | .inf n => .inf (!n)
  | .fin n m e => .fin (!n) m e

/-- The order of encodings of one format with −0 below +0; for numbers only (R107). -/
def FFmt.key (f : FFmt) (x : Nat) : Int :=
  let mag := x % f.signBit
  if (x / f.signBit) % 2 = 1 then -(mag : Int) - 1 else mag

/-- The order of encodings by numeric value, −0 equal to +0; for numbers only (R110). -/
def FFmt.ord (f : FFmt) (x : Nat) : Int :=
  let mag := x % f.signBit
  if (x / f.signBit) % 2 = 1 then -(mag : Int) else mag

/-- The smaller or larger of two encodings (R107, R155). -/
def FFmt.minmax (f : FFmt) (larger : Bool) (x y : Nat) : FRes :=
  let a := f.decode x
  let b := f.decode y
  if a.isNan || b.isNan then f.nanRes (a.isSnan || b.isSnan)
  else
    let r := if larger then (if f.key x < f.key y then y else x) else (if f.key y < f.key x then y else x)
    ⟨r % 2 ^ f.width, flagIf (a.nonFinite || b.nonFinite) fNF⟩

def FFmt.add (f : FFmt) (mode : RMode) (x y : Nat) : FRes :=
  let a := f.decode x
  let b := f.decode y
  let r := f.addV mode a b
  ⟨r.bits, r.fl ||| flagIf (a.nonFinite || b.nonFinite) fNF⟩

def FFmt.mul (f : FFmt) (mode : RMode) (x y : Nat) : FRes :=
  let a := f.decode x
  let b := f.decode y
  let r := f.mulV mode a b
  ⟨r.bits, r.fl ||| flagIf (a.nonFinite || b.nonFinite) fNF⟩

def FFmt.fma (f : FFmt) (mode : RMode) (d x y : Nat) : FRes :=
  let c := f.decode d
  let a := f.decode x
  let b := f.decode y
  let r := f.fmaV mode c a b
  ⟨r.bits, r.fl ||| flagIf (a.nonFinite || b.nonFinite || c.nonFinite) fNF⟩

def FFmt.sub (f : FFmt) (mode : RMode) (x y : Nat) : FRes :=
  let a := f.decode x
  let b := f.decode y
  let r := f.addV mode a b.negate
  ⟨r.bits, r.fl ||| flagIf (a.nonFinite || b.nonFinite) fNF⟩

/-- a × 2^n (R93). -/
def FFmt.scale (f : FFmt) (mode : RMode) (x : Nat) (n : Int) : FRes :=
  match f.decode x with
  | .nan s => f.nanRes s
  | .inf neg => f.infRes neg
  | .fin neg m e => f.round mode false neg m (e + n)

/-- |a| (R156). -/
def FFmt.abs (f : FFmt) (x : Nat) : FRes :=
  match f.decode x with
  | .nan s => f.nanRes s
  | .inf _ => f.infRes false
  | .fin _ _ _ => ⟨x % f.signBit, 0⟩

/-- The exact value m × 2^e rounded to an integer, and whether that lost anything. -/
def roundInt (mode : RMode) (neg : Bool) (m : Nat) (e : Int) : Nat × Bool := roundAt mode neg m e 0 false

/-- a rounded to an integral value of its format (R156). -/
def FFmt.roundIntegral (f : FFmt) (mode : RMode) (x : Nat) : FRes :=
  match f.decode x with
  | .nan s => f.nanRes s
  | .inf neg => f.infRes neg
  | .fin neg m e =>
    if 0 ≤ e then ⟨x % 2 ^ f.width, 0⟩
    else
      let (n, inexact) := roundInt mode neg m e
      ⟨(f.round .rne false neg n 0).bits, flagIf inexact fNX⟩

/-! ### Saturation and integers (R7, R72) -/

/-- The value of the low w bits of x as a signed integer. -/
def sextN (w x : Nat) : Int :=
  let y := x % 2 ^ w
  if 2 ^ w ≤ 2 * y then (y : Int) - 2 ^ w else y

/-- The low w bits of an integer. -/
def lowBits (w : Nat) (n : Int) : Nat := (n % (2 ^ w : Int)).toNat

/-- Clamp to lo ≤ n ≤ hi; SAT when that changes it (R81). -/
def clampI (lo hi n : Int) : Int × Word :=
  if n < lo then (lo, fSAT) else if hi < n then (hi, fSAT) else (n, 0)

/-- `sat(v, w)` of R7. -/
def satI (w : Nat) (n : Int) : Int × Word := clampI (-(2 ^ (w - 1) : Int)) ((2 ^ (w - 1) : Int) - 1) n

/-- An integer kind: width and signedness. -/
structure IFmt where
  w : Nat
  signed : Bool
deriving DecidableEq, Repr

def IFmt.lo (i : IFmt) : Int := if i.signed then -(2 ^ (i.w - 1) : Int) else 0
def IFmt.hi (i : IFmt) : Int := if i.signed then (2 ^ (i.w - 1) : Int) - 1 else (2 ^ i.w : Int) - 1
def IFmt.val (i : IFmt) (x : Nat) : Int := if i.signed then sextN i.w x else (x % 2 ^ i.w : Nat)

/-- float to integer (R85, R88): NaN gives 0, infinities the ends of the range, with NV and NF; a clamp sets SAT alone
beside the NX of the rounding. -/
def FFmt.toInt (f : FFmt) (mode : RMode) (i : IFmt) (x : Nat) : FRes :=
  match f.decode x with
  | .nan _ => ⟨0, fNV ||| fNF⟩
  | .inf neg => ⟨lowBits i.w (if neg then i.lo else i.hi), fNV ||| fNF⟩
  | .fin neg m e =>
    let (n, inexact) := roundInt mode neg m e
    let v : Int := if neg then -(n : Int) else n
    let (c, s) := clampI i.lo i.hi v
    ⟨lowBits i.w c, s ||| flagIf inexact fNX⟩

/-- integer to float (R85, R88). -/
def FFmt.ofInt (f : FFmt) (mode : RMode) (satur : Bool) (n : Int) : FRes := f.roundDy mode satur (.ofInt n)

/-- float to float (R88): an infinite operand sets NF alone, under `.sat` too, where e4m3 takes ±448 for it. -/
def FFmt.convert (src dst : FFmt) (mode : RMode) (satur : Bool) (x : Nat) : FRes :=
  match src.decode x with
  | .nan s => dst.nanRes s
  | .inf neg =>
    if satur ∧ dst = .e4m3 then ⟨(if neg then dst.signBit else 0) + dst.maxFinite, fNF⟩ else dst.infRes neg
  | .fin neg m e => dst.round mode satur neg m e

/-! ### 2^a, 1/a and 1/√a (R157) -/

/-- ⌊√n⌋ by trial of the bits k, k - 1, …, 0. -/
def isqrtGo : Nat → Nat → Nat → Nat
  | 0, n, r => if (r + 1) * (r + 1) ≤ n then r + 1 else r
  | k + 1, n, r =>
    let c := r + 2 ^ (k + 1)
    if c * c ≤ n then isqrtGo k n c else isqrtGo k n r

def isqrt (n : Nat) : Nat := isqrtGo (bitLen n / 2 + 1) n 0

/-- ⌊ln 2 × 2^256⌋. -/
def ln2Fixed : Nat := 80260960185991308862233904206310070533990667611589946606122867505419956976171

/-- Σ xᵏ / k! in 256-bit fixed point: term and sum so far, with k from `k` on. -/
def expGo : Nat → Nat → Nat → Nat → Nat → Nat
  | 0, _, _, _, acc => acc
  | fuel + 1, x, k, term, acc =>
    let t := term * x / 2 ^ 256 / k
    expGo fuel x (k + 1) t (acc + t)

/-- 2^(fr / 2^k) × 2^240 for 0 < fr < 2^k, k ≤ 256, rounded down within one unit. -/
def exp2Frac (fr k : Nat) : Nat :=
  let x := (fr * 2 ^ (256 - k)) * ln2Fixed / 2 ^ 256
  expGo 64 x 1 (2 ^ 256) (2 ^ 256) / 2 ^ 16

/-- 2^a for a finite a, rounded once to f32. -/
def exp2F32 (mode : RMode) (neg : Bool) (m : Nat) (e : Int) : FRes :=
  if m = 0 then FFmt.f32.round mode false false 1 0
  else if 10 < e + bitLen m then FFmt.f32.round mode false false 1 (if neg then -4000 else 4000)
  else if 0 ≤ e then
    FFmt.f32.round mode false false 1 (if neg then -((m * 2 ^ e.toNat : Nat) : Int) else ((m * 2 ^ e.toNat : Nat) : Int))
  else
    let k := (-e).toNat
    let d := 2 ^ k
    let q : Int := if neg then -((m + d - 1) / d : Nat) else (m / d : Nat)
    let fr : Nat := if neg then ((m + d - 1) / d) * d - m else m % d
    if fr = 0 then FFmt.f32.round mode false false 1 q
    else FFmt.f32.round mode false false (exp2Frac fr k) (q - 240) true

/-- `vexp2` of one lane (R157). -/
def fexp2 (mode : RMode) (x : Nat) : FRes :=
  match FFmt.f32.decode x with
  | .nan s => FFmt.f32.nanRes s
  | .inf true => ⟨0, fNF⟩
  | .inf false => FFmt.f32.infRes false
  | .fin neg m e => exp2F32 mode neg m e

/-- `vrcp` of one lane (R157). -/
def frcp (mode : RMode) (x : Nat) : FRes :=
  match FFmt.f32.decode x with
  | .nan s => FFmt.f32.nanRes s
  | .inf neg => ⟨if neg then 0x80000000 else 0, fNF⟩
  | .fin neg m e =>
    if m = 0 then ⟨(FFmt.f32.infRes neg).bits, fDZ ||| fNF⟩
    else
      let k := bitLen m + 64
      FFmt.f32.round mode false neg (2 ^ k / m) (-(k : Int) - e) (2 ^ k % m ≠ 0)

/-- `vrsqrt` of one lane (R157). -/
def frsqrt (mode : RMode) (x : Nat) : FRes :=
  match FFmt.f32.decode x with
  | .nan s => FFmt.f32.nanRes s
  | .inf true => FFmt.f32.nanRes true
  | .inf false => ⟨0, fNF⟩
  | .fin neg m e =>
    if m = 0 then ⟨(FFmt.f32.infRes neg).bits, fDZ ||| fNF⟩
    else if neg then FFmt.f32.nanRes true
    else
      let (m, e) := if e % 2 = 0 then (m, e) else (2 * m, e - 1)
      let k := bitLen m + 64
      let r := isqrt (2 ^ (2 * k) / m)
      FFmt.f32.round mode false false r (-(k : Int) - e / 2) (r * r * m ≠ 2 ^ (2 * k))

/-! ### Format codes (R67) -/

/-- How the elements of a format code are read: a float format or an integer kind. -/
inductive EFmt where
  | fl (f : FFmt)
  | int (i : IFmt)
deriving DecidableEq, Repr

/-- The element kind of a format code; none for the block formats, b1 and the unassigned codes (R67). asi8 and asi16 are
taken as i8 and i16 (R73). -/
def elemFmt (code : Nat) : Option EFmt :=
  match code with
  | 0x00 => some (.fl .f32)
  | 0x01 => some (.fl .bf16)
  | 0x02 => some (.fl .f16)
  | 0x03 => some (.fl .e4m3)
  | 0x04 => some (.fl .e5m2)
  | 0x05 => some (.int ⟨8, true⟩)
  | 0x06 => some (.int ⟨16, true⟩)
  | 0x07 => some (.int ⟨32, true⟩)
  | 0x08 => some (.int ⟨8, false⟩)
  | 0x0C => some (.int ⟨8, true⟩)
  | 0x0D => some (.int ⟨16, true⟩)
  | _ => none

def EFmt.width : EFmt → Nat
  | .fl f => f.width
  | .int i => i.w

/-- One conversion between element kinds (R88): round, clamp or extend, with its flags. -/
def convertElem (src dst : EFmt) (mode : RMode) (satur : Bool) (x : Nat) : FRes :=
  match src, dst with
  | .fl a, .fl b => a.convert b mode satur x
  | .fl a, .int i => a.toInt mode i x
  | .int i, .fl b => b.ofInt mode satur (i.val x)
  | .int i, .int j =>
    let (c, s) := clampI j.lo j.hi (i.val x)
    ⟨lowBits j.w c, s⟩

/-! ### q4 and s24 (R74 to R76) -/

/-- Twice the value of magnitude index i of a sign-magnitude q4 type (R74). -/
def q4Mag2 (type i : Nat) : Nat :=
  match type with
  | 1 => [0, 1, 2, 3, 4, 6, 8, 12].getD i 0
  | 2 => [0, 2, 4, 8, 16, 32, 64, 128].getD i 0
  | _ => [0, 2, 4, 6, 8, 12, 16, 24].getD i 0

/-- Twice decode(type, code) (R74, R75: 0b1000 of a sign-magnitude type is +0). -/
def q4Code2 (type code : Nat) : Int :=
  if type = 0 then 2 * sextN 4 code
  else if 8 ≤ code then -(q4Mag2 type (code - 8) : Int) else q4Mag2 type code

/-- The exact value of a q4 code in a block with the given scale byte (R74). -/
def q4Value (scale code : Nat) : Dy := ⟨q4Code2 (scale / 64 % 4) (code % 16), (scale % 64 : Int) - 33⟩

/-- The index of the magnitude nearest to |y|, ties to the even index (R90). `mags` and num / den are both twice the
value. -/
def q4Nearest (mags : List Nat) (num den : Nat) : Nat :=
  let better (i j : Nat) : Bool :=
    let di := Int.natAbs ((num : Int) - (mags.getD i 0 * den : Nat))
    let dj := Int.natAbs ((num : Int) - (mags.getD j 0 * den : Nat))
    dj < di || (dj = di && j % 2 = 0)
  (List.range mags.length).foldl (fun i j => if better i j then j else i) 0

/-- The position of the four dense elements of an s24 group: v0 at i0 and v1 at i1 when i0 < i1, else four zeros (R76). -/
def s24Decode (nibble v0 v1 : Nat) (k : Nat) : Nat :=
  let i0 := nibble % 4
  let i1 := nibble / 4 % 4
  if i0 < i1 then (if k = i0 then v0 else if k = i1 then v1 else 0) else 0

end Sys2Proof.Machine
end

