-- ==== Sys2Proof/Config.lean ====
section
/-! DEFINITION. What the manual leaves open (R3, R2): free values. Nothing constrains them and nothing in Lean can
evaluate them; a statement about one holds for every value. The state supplies their arguments from a plain counter. -/

namespace Sys2Proof

/-- An undefined 32-bit value (R3), one for each number the state's counter gives. -/
opaque Config.freeWord : Nat → BitVec 32

/-- An undefined byte of memory (R3): the seed names the occasion, the second number the address. -/
opaque Config.freeByte : Nat → Nat → BitVec 8

/-- The code that a copy slot shows for its state (R381 names the field and gives no codes): 0 a free slot, 1 HELD,
2 WAITING, 3 RUNNING, 4 PARKED, 5 DONE. -/
opaque Config.slotCode : Nat → BitVec 3

/-- Whether a remote device accepts its logical tile as a member of a tree of a context (R323: each device checks its own
members): device, context, tile. -/
opaque Config.memberAccepted : Nat → Nat → Nat → Bool

/-- The matchings that a rotor schedule of some bytes holds (R335: the host gives it; its layout is stated nowhere): by
slot, then by port, the peer device and its port. -/
opaque Config.rotorSlots : List (BitVec 8) → List (List (Option (Nat × Nat)))

/-- Whether, in the slot of a number, a flit of a pair goes out over its assigned port as a first hop (R337: Mynyx firmware
chooses): slot count, port, destination. -/
opaque Config.firstHop : Nat → Nat → Nat → Bool

/-- The common sequence number to which Mynyx resynchronises an unreachable pair in the slot of a number, if it does so then
(R344): slot count, device. -/
opaque Config.resync : Nat → Nat → Option Nat

/-- The count of its own cycles at which a Lelum port stood when the first rotor slot began, and the cycles gone of a slot
(R347, R412). -/
opaque Config.portBase : Nat → Nat

/-- The place on another device to which a page moves (R348, R242): PASID, page, device. -/
opaque Config.pagePlace : Nat → Nat → Nat → Nat

/-- The home of a page that this device meets first as one whose atomics another device performs (R348): PASID, page, the device. -/
opaque Config.pageHome : Nat → Nat → Nat → Nat

/-- The steering table that a firmware image of some bytes holds (R429 calls it the firmware's and gives no layout): port, MAC
address, priority, queue. -/
opaque Config.steerTable : List (BitVec 8) → List (Nat × Nat × Nat × Nat)

/-- The number of a voted machine (R414, R431 use such numbers, and none is given), by class and index. -/
opaque Config.machineNumber : Nat → Nat → Nat

/-- The queues that a voted machine serves (R393 speaks of them and names no machine's). -/
opaque Config.machineQueues : Nat → List Nat

end Sys2Proof
end

