-- ==== Sys2Proof/Machine/State.lean ====
section
/-! DEFINITION. The state of the H7 as plain data: the tile in focus with all its registers, engines and queues, the
other tiles, and the device around them (contexts, queues, trees, layers, fabric, host registers). -/

namespace Sys2Proof.Machine

/-! ### Memory -/

/-- Addresses lo ≤ a < hi hold undefined bytes (R3): byte a reads as the free byte of `seed` and a. -/
structure UndefRange where
  lo : Nat
  hi : Nat
  seed : Nat
deriving DecidableEq, Repr

/-- A memory: listed cells, every unlisted address reading 0 (R430: every memory is zeroed), undefined ranges over it,
and the aligned 4-byte words that hold an uncorrectable error (R179). -/
structure Mem where
  cells : List Host.Cell
  undef : List UndefRange
  bad : List Nat
deriving DecidableEq, Repr

def Mem.empty : Mem := ⟨[], [], []⟩

/-! ### The tile's registers -/

/-- A 64-byte vector as 16 lanes of 32 bits (R150). -/
abbrev Vec := Vector Word 16

/-- A stream port (R195). An input FIFO holds the vectors fetched from `pos` on; an output FIFO those written before
`pos` and not yet landed. `num` is the number of the binding. -/
structure Port where
  bound : Bool
  out : Bool
  desc : List Word
  total : Nat
  pos : Nat
  fifo : List Vec
  done : Bool
  num : Nat
deriving DecidableEq, Repr

def Port.unbound : Port := ⟨false, false, [], 0, 0, [], false, 0⟩

/-- An entry of the pin set (R367). -/
structure Pin where
  obj : Nat
  layer : Nat
  depth : Nat
deriving DecidableEq, Repr

/-- The Flint state (R294). -/
structure Flint where
  fst : Word
  sg : Vector Word 256
  map : Vector Byte 256
  lead : Vector Byte 256
  cnt : Vector (BitVec 9) 256
deriving DecidableEq, Repr

/-- A token register with a job, post or fabric operation pending: the register and the job's program-order number
(R228). -/
structure Tok where
  reg : Reg
  job : Nat
deriving DecidableEq, Repr

/-- The registers of a tile that a checkpoint commits and a rollback restores (R137, R142); `inHandler` and `noteDue` say whether a
handler runs, and how many of the notifications held at the latest `eret` of a SUP launch are still to be delivered (R378); `bindings`
counts the bindings of stream ports. -/
structure Core where
  pc : BitVec 20
  s : Vector Word 64
  p : BitVec 8
  lat : Vector Word 256
  flags : Word
  fpctl : Word
  lwlim : Word
  epc : BitVec 20
  ecause : Word
  einfo : Word
  ss : Vector Word 4
  ntmask : Word
  sup : Bool
  inHandler : Bool
  noteDue : Nat
  ports : Vector Port 12
  bindings : Nat
  tokPend : List Tok
  tokDone : List Reg
  tcfg : Vector Word 8
  wbCfg0 : Word
  wbCfg1 : Word
  latBuf : Bool
  latValid : Bool
  flint : Flint
  pins : List Pin
deriving DecidableEq, Repr

/-! ### Results on their way -/

/-- A destination element of a latency-bound result (R49): a scalar register or a lattice element 16·row + column. -/
inductive Dst where
  | sreg (r : Reg)
  | lat (i : Nat)
deriving DecidableEq, Repr

/-- A result issued and not landed (R51): its elements, the flags it merges, the cycle of its bound. -/
structure Pending where
  dsts : List (Dst × Word)
  flags : Word
  due : Nat
deriving DecidableEq, Repr

/-- The atomic operations (R191). -/
inductive AtomOp where
  | add
  | incb
  | cas
deriving DecidableEq, Repr

/-- Where a load delivers (R185 to R187, R191). -/
inductive LoadDst where
  | none
  | sreg (r : Reg)
  | lat (els : List Nat)
  | port (q : Nat)
  | buffer (unit : Nat)
deriving DecidableEq, Repr

/-- What a scoreboarded result comes from: bytes by on-chip address, those already known captured at issue (R188), an atomic
acting at its home (R191), the old value or the status of a remote atomic (R353), or a tree being frozen or thawed
(R325, R326). -/
inductive LoadSrc where
  | bytes (l : List (Nat × Option Byte))
  | atomic (op : AtomOp) (addr : Nat) (v e : Word)
  | xold (sq : Nat)
  | xstatus (sq : Nat)
  | tree (idx : Nat)
deriving DecidableEq, Repr

/-- A load or atomic whose data has not returned (R53); `word` is its place in its bundle. -/
structure PLoad where
  dst : LoadDst
  src : LoadSrc
  word : Nat
deriving DecidableEq, Repr

/-- A queued X-pipe operation with the configurations captured at its issue (R273). -/
inductive XOp where
  | tld (t : Nat) (cfg : Word) (b1 : Word) (p1 : BitVec 16) (b2 : Word) (p2 : BitVec 16) (pc : BitVec 20)
  | tldw (t : Nat) (cfg : Word) (desc : List Word) (p : Word) (pc : BitVec 20)
  | tst (t : Nat) (cfg : Word) (b1 : Word) (p1 : BitVec 16) (b2 : Word) (p2 : BitVec 16) (held : Option Nat)
  | wlat (t : Nat) (cfg : Word) (buf : Bool)
  | mmac (zero : Bool) (acc t : Nat) (cfg wcfg : Word) (buf : Bool) (row0 c0 : Nat)
  | aread (t : Nat) (cfg : Word) (acc row0 : Nat) (ctl : Word)
  | azero (acc row0 n : Nat)
  | arow (acc t : Nat) (cfg : Word) (row0 n : Nat) (ctl : Word)
  | fsig (x y : Nat) (cx cy : Word)
  | fgrp (dst : Reg) (y : Nat) (cy : Word) (m w : Nat) (load : Bool)
  | frep (x y : Nat) (cx cy : Word) (m : Nat) (mean : Bool)
  | fscat (acc src dst m : Nat)
  | fsum (acc src dst m : Nat) (int : Bool)
deriving DecidableEq, Repr

/-! ### The copy engine -/

/-- The states of a job slot (R207). -/
inductive SlotState where
  | held
  | waiting
  | running
  | parked
  | done
deriving DecidableEq, Repr

/-- What occupies a job slot: copy jobs (R227), fences (R229), tree posts (R319) and fabric operations (R351). -/
inductive JobKind where
  | cpy
  | cpf
  | cgat
  | cscat
  | cfence
  | post (handle : Word)
  | xst (dva fva : Nat) (src len : Word)
  | xatom (op : AtomOp) (va : Nat) (v e : Word)
deriving DecidableEq, Repr

/-- A translation held by a TLB or a running job (R236, R238): page base, log2 size, and the leaf's fields. -/
structure TlbEntry where
  pasid : Nat
  va : Nat
  t : Nat
  base : Nat
  cls : Nat
  dev : Nat
  w : Bool
  rd : Bool
  cnt : Bool
deriving DecidableEq, Repr

/-- A job in a slot: its program-order number, state, token register, captured card after displacement, status, the
earlier jobs it waits for, its footprints, the translations it has gathered, and where it is parked; the commands whose
answers it awaits, by device and first address, and how far it has sent them (0 none, 1 its data, 2 its counter increase); whether its
index list has still to be read (R216); whether supervisor mode issued it, so that no declaration of R123 limits it (R378); the
received frame that it has taken (R429); and the addresses on other devices that it has asked for and has sent (R241). -/
structure Job where
  slot : Nat
  sq : Nat
  kind : JobKind
  state : SlotState
  tok : Option Reg
  cardAddr : Nat
  card : Option (List Word)
  early : Nat
  status : Nat
  edges : List Nat
  reads : List (Nat × Nat)
  writes : List (Nat × Nat)
  xl : List TlbEntry
  parkVa : Nat
  parkWr : Bool
  acks : List (Nat × Nat)
  phase : Nat
  scan : Bool
  sup : Bool
  frame : Option (List Byte)
  asked : List Nat
  sent : List Nat
deriving DecidableEq, Repr

/-- An externally visible action: an entry of the commit queue (R139), or, once released, one still to be performed. A vector and a
completion arrival name the binding of their stream; `before` counts the jobs and the bindings of streams that the tile had issued before
a store (R250). -/
inductive Held where
  | store (cells : List Host.Cell) (before : Nat × Nat)
  | tst (id : Nat) (cells : List Host.Cell) (before : Nat × Nat)
  | atomic (op : AtomOp) (addr : Nat) (v e : Word)
  | job (slot : Nat)
  | spawn (tgt entry : Nat) (regs : List Word)
  | trig (sq : Nat)
  | barv (sc addr n : Nat) (f : Byte)
  | bartx (sc addr n : Nat) (bytes : Word)
  | cadd (sc addr : Nat) (inc : BitVec 64)
  | phaseRel (sc : Nat)
  | stf (cells : List Host.Cell) (flag : Nat) (before : Nat × Nat)
  | vec (num : Nat) (cells : List Host.Cell)
  | streamDone (bar num : Nat)
  | sev (code : Nat) (kill : Bool) (p : List Word)
deriving DecidableEq, Repr

/-- A result of a checkpointing operation, logged for the reruns of its interval: the place of the operation in its bundle,
which of its two results, and the value (R140). -/
structure LogEntry where
  word : Nat
  hi : Bool
  v : Word
deriving DecidableEq, Repr

/-- The phases of the recovery sequence in which a step can find a tile (R142). -/
inductive RPhase where
  | run
  | stop
  | rerunA
  | restoreB
  | rerunB
deriving DecidableEq, Repr

/-- The recovery state of a tile (R142, R143): phase, whether the rerun has reached its checkpoint point or ended in a
fatal trap, bundles retired in the rerun, the first rerun's count and signature, whether a rerun met an error, the log, and the log of
the program's interval while a handler runs that was entered before the interval ran again. -/
structure Recov where
  phase : RPhase
  ended : Bool
  fatal : Bool
  retired : Nat
  countA : Nat
  sigA : Word
  err : Bool
  log : List LogEntry
  kept : List LogEntry
deriving DecidableEq, Repr

def Recov.idle : Recov := ⟨.run, false, false, 0, 0, 0, false, [], []⟩

/-- The binding of a task to a tile (R118, R120 to R123, R125). -/
structure Task where
  q : Nat
  sq : Nat
  spawned : Bool
  supLaunch : Bool
  wid : BitVec 64
  wf : Vector Word 6
  rank : Nat
  rlen : Nat
  skew : Nat
  sregs : Nat
  lrows : Nat
  strms : Nat
  tregs : Nat
  jobs : Nat
  spad : Nat
  bars : Nat
  sctx : Nat
  feat : BitVec 64
  imgBase : Nat
  imgSize : Nat
  trigDone : Bool
deriving DecidableEq, Repr

/-- What a tile is doing (R118, R133, R386, R24). -/
inductive TileStat where
  | unbound
  | idle
  | reserved
  | running
  | halting
  | stopped
  | retired
deriving DecidableEq, Repr

/-- A trap cause of R384. -/
inductive Cause where
  | illegalInstruction
  | illegalBundle
  | illegalOperand
  | misaligned
  | accessFault
  | bankConflict
  | spawnBusy
  | ribbonUniformity
  | tileRetired
  | swapFault
  | swapTimeout
  | streamFault
  | softwareTrap
  | privilege
  | preempt
deriving DecidableEq, Repr

/-- A notification held for a tile: tile-retired with the physical number, or pre-empt (R384). -/
inductive Note where
  | retired (phys : Nat)
  | preempt
deriving DecidableEq, Repr

/-- A 64-byte unit saved at its first write of the interval (R138): its window offset, its old bytes, the undefined
ranges and uncorrectable words it held. -/
structure SavedUnit where
  unit : Nat
  cells : List Host.Cell
  undef : List UndefRange
  bad : List Nat
deriving DecidableEq, Repr

/-- A poisoned tile register (R280): the register and the packet index of the loading bundle. -/
structure Poison where
  t : Nat
  pc : BitVec 20
deriving DecidableEq, Repr

/-- A tile (R14): its binding, its registers and their committed image, its window, its engines and its queues; `doomed`
says that its reruns disagreed, so that it leaves the pool when it is next free (R24), `extWr` lists the 64-byte units of its
scratchpad, tile file and accumulators that another agent has written since the checkpoint (R138, R274), and `flintBad` the Flint
elements of bad parity, by their offsets from 0x1F_2000 (R294, R381). `lwOn` is the object and layer that its `lwait` waits for, and
whether a load of that layer has failed meanwhile (R374); `freshPins` are the pins it has made at their homes since the
checkpoint (R367, R370), and `ckWb0`, `ckWb1` and `ckPoison` the weight buffers and the poisoned registers that the checkpoint committed
(R269, R280). -/
structure Tile where
  phys : Nat
  stat : TileStat
  ctx : Nat
  ltile : Nat
  ntile : Nat
  ctxn : BitVec 6
  pasid : BitVec 20
  tvec : BitVec 20
  task : Task
  core : Core
  ck : Core
  cyc : Nat
  cych : Word
  win : Mem
  shadow : Mem
  wb0 : Mem
  wb1 : Mem
  ckWb0 : Mem
  ckWb1 : Mem
  latBad : List Nat
  pend : List Pending
  loads : List PLoad
  jobs : List Job
  jobSq : Nat
  jobFails : List (Nat × Nat)
  cq : List Held
  released : List Held
  rb : List SavedUnit
  loadBuf : List (Nat × Option (List Byte))
  mq : List XOp
  tstId : Nat
  poison : List Poison
  ckPoison : List Poison
  unpins : List (Nat × Nat)
  notes : List Note
  recov : Recov
  ckFresh : Bool
  ckDue : Bool
  haltDue : Bool
  lwCount : Nat
  lwOn : Option (Nat × Nat × Bool)
  freshPins : List (Nat × Nat)
  issued : Nat
  tlb : List TlbEntry
  doomed : Bool
  extWr : List Nat
  flintBad : List Nat
deriving DecidableEq, Repr

/-! ### Ribbons -/

/-- What rank 0 of a ribbon read and decided at one bundle (R127): guards of its control operations by word, the `jr`
target and the `loop` decision. -/
structure Decision where
  guards : List Bool
  jr : Option Word
  loop : Option Bool
deriving DecidableEq, Repr

/-- The ribbon time, and rank 0's decisions by bundle (R126, R127). `outer` holds those of the program while a handler runs,
and `skip` the ranks, by number, whose `eret` has passed the bundle that is due to them when the program goes on (R128, R388). -/
structure RClock where
  time : Nat
  dec : List Decision
  outer : Option (Nat × List Decision)
  skip : List Nat
deriving DecidableEq, Repr

def RClock.zero : RClock := ⟨0, [], none, []⟩

/-- A running ribbon (R125, R126): the physical tiles in rank order, 512 in the place of a rank whose task has ended, the skew,
the clock, and the clock as the last checkpoint committed it (R145). -/
structure Ribbon where
  tiles : List Nat
  skew : Nat
  clock : RClock
  ck : RClock
deriving DecidableEq, Repr

/-! ### Contexts, queues and launches -/

/-- An entry of a context's grant table (R391). -/
structure Grant where
  base : Nat
  len : Nat
  rights : Nat
deriving DecidableEq, Repr

/-- The states of the pre-emption ladder (R407). -/
inductive CtxState where
  | run
  | drain
  | save
  | reset
  | preempted
  | dead
deriving DecidableEq, Repr

/-- A context: its bodies of CTX CREATE, GRANT and HANDLER (R402), the PASID of its save area, its place on the ladder and the
limits in force there, the commands that wait for it, and, once saved, the numbers and the places of the undefined bytes of its
image, its tiles, its ribbons, its granted near store and the answers to its parked faults (R406 to R408); the flits that an ending
context awaits (R355); and, while its end waits for the firmware, the FCAUSE of that end and whether it shows as the Reset rung (R386,
R390, R393). -/
structure Ctx where
  num : Nat
  pasid : Nat
  ptroot : Nat
  savePasid : Nat
  saveVa : Nat
  saveSz : Nat
  cls : Nat
  ntile : Nat
  grants : Vector Grant 16
  alloc : Vector (Nat × Nat) 4
  hBase : Nat
  hSize : Nat
  tvec : BitVec 20
  state : CtxState
  rung : Nat
  t1 : Nat
  t2 : Nat
  endCause : Nat
  waiters : List (Nat × Nat)
  saveSeed : Nat
  savePages : List Nat
  saved : List Tile
  savedRibs : List Ribbon
  savedNear : Mem
  answers : List (Nat × Nat × Bool)
  flits : List (Nat × Nat)
  doom : Option (Nat × Bool)
deriving DecidableEq, Repr

/-- Where a fetched command stands (R404). -/
inductive CmdState where
  | fetched
  | started
  | done
deriving DecidableEq, Repr

/-- A fetched command: sequence number, sixteen words, state and completion status (R399); of a COPY, whether it is parked
(R406), a status already found, and the answers it awaits, the frame it has taken and what it has exchanged, as a job does. -/
structure Cmd where
  sq : Nat
  w : List Word
  state : CmdState
  status : Nat
  parked : Bool
  early : Nat
  acks : List (Nat × Nat)
  phase : Nat
  frame : Option (List Byte)
  asked : List Nat
  sent : List Nat
deriving DecidableEq, Repr

/-- Queue states (R398). -/
inductive QState where
  | active
  | faulted
  | preempted
  | dead
deriving DecidableEq, Repr

/-- A host command queue (R397, R398). -/
structure Queue where
  num : Nat
  ring : Nat
  logn : Nat
  priv : Bool
  ctx : Nat
  statVa : Nat
  t1 : Nat
  t2 : Nat
  head : Nat
  state : QState
  fcause : Nat
  rung : Nat
  cmds : List Cmd
deriving DecidableEq, Repr

/-- The spad and near images of a launch block (R400). -/
structure LaunchImage where
  spadVa : Nat
  nearVa : Nat
  spadSz : Nat
  nearSz : Nat
  spadBase : Nat
  nearBase : Nat
deriving DecidableEq, Repr

/-- A launch being executed (R21, R122, R400). `task` is what its tasks share; `list` are its logical tiles, or the first
tiles of its ribbons, in order; `met` counts identifiers that have triggered or halted; `live` counts tasks and spawned
tasks bound and not halted; `lseq` is the launch sequence of its bind records, and `freed` the positions of the list whose tiles
have become idle since the last identifier was bound, in the order in which they did (R394). -/
structure Launch where
  q : Nat
  sq : Nat
  ctx : Nat
  lseq : Nat
  freed : List Nat
  task : Task
  entry : BitVec 20
  n : Nat
  next : Nat
  list : List Nat
  live : Nat
  met : Nat
  dep : Option Nat
  started : Bool
  widths : List Nat
  image : LaunchImage
deriving DecidableEq, Repr

/-- A bind record of the dispatch slot table (R394). -/
structure Bind where
  ptile : Nat
  ltile : Nat
  ctx : Nat
  v : Bool
  rl : Nat
  lseq : Nat
  ord : Nat
deriving DecidableEq, Repr

/-! ### Trees -/

/-- A member of a tree (R307). -/
structure Member where
  dev : Nat
  tile : Nat
  rank : Nat
  parent : Nat
deriving DecidableEq, Repr

/-- A membership and combining structure in force for the segments from `eff` on (R324). Segments and `eff` are counted without
wrapping: the first segment index 0 is 2^32, and 0 is the `eff` of a new tree. -/
structure TreeDesc where
  eff : Nat
  root : Nat
  members : List Member
  nodes : List Nat
deriving DecidableEq, Repr

/-- Tree data on its way to child `child` of node `node` for a segment: elements in the carry, none for an empty
contribution's positions (R311, R314). -/
structure TreeData where
  node : Nat
  child : Nat
  seg : Nat
  data : List Int
deriving DecidableEq, Repr

/-- A segment in progress at a node (R313, R314): the children taken so far, the prefix partial, the raw data that arrived ahead of
its turn, and the data of the children taken. -/
structure SegState where
  seg : Nat
  taken : Nat
  part : List Int
  raw : List (Nat × List Int)
  kept : List (Nat × List Int)
deriving DecidableEq, Repr

/-- A node's record (R315, R316, R324): the descriptor that it belongs to, by its EFF, whether its router holds it, its segments, and
the flits a miss holds. -/
structure NodeState where
  node : Nat
  eff : Nat
  router : Nat
  present : Bool
  missing : Bool
  used : Nat
  segs : List SegState
  held : List TreeData
deriving DecidableEq, Repr

/-- A released post waiting for its end, by the slot of its tile's job, the member, and what its card asks (R321). The tile is the one of
the tree's context with the member's logical number. -/
structure Post where
  slot : Nat
  dev : Nat
  tile : Nat
  seg : Nat
  src : Nat
  len : Nat
  rcv : Nat
  bar : Nat
  read : Bool
  waiting : Bool
deriving DecidableEq, Repr

/-- A tree (R305, R306). `prev` is each member's previous index (R312); `results` are the values the top node has
passed on; `freezing` and `thawing` hold the image address of a freeze or thaw under way, `image` the
undefined bytes of the last frozen image: their seed and its address (R325). `empties` are the empty contributions, by device, tile
and segment, that wait for earlier posts of their member (R319). -/
structure Tree where
  idx : Nat
  ctx : Nat
  oper : Nat
  tfmt : Nat
  seglog : Nat
  descs : List TreeDesc
  prev : List ((Nat × Nat) × Nat)
  nodes : List NodeState
  flight : List TreeData
  results : List (Nat × List Int)
  posts : List Post
  empties : List (Nat × Nat × Nat)
  frozen : Bool
  freezing : Option Nat
  thawing : Option Nat
  image : Nat × Nat
  misses : Nat
deriving DecidableEq, Repr

/-! ### Lelum -/

/-- The states of a laser input (R345). -/
inductive Laser where
  | lit
  | fading
  | dark
  | waking
deriving DecidableEq, Repr

/-- A Lelum port (R333, R334): its four laser inputs, stripe counter, the count of flits replayed, and whether it has been down,
so that it takes no pair but by a reassignment (R346). -/
structure LPort where
  num : Nat
  inputs : Vector Laser 4
  stripe : Nat
  replayed : Nat
  down : Bool
deriving DecidableEq, Repr

/-- A flit as a port has transmitted it: the port and the wavelength, the device and port it was joined to (R334, R335). -/
structure SentFlit where
  port : Nat
  wave : Nat
  peer : Nat
  peerPort : Nat
  flit : Flit
deriving DecidableEq, Repr

/-- A command of another device whose page, or whose flag, lies on a third, to which it has been passed on: its number, the command with
its data, the answers awaited by device and first address, how far it has come (1 the command passed on, 2 its flag), and the old value
that an answer has brought (R241, R348, R352). -/
structure Reply where
  num : Nat
  cmd : Flit
  ds : List Flit
  acks : List (Nat × Nat)
  stage : Nat
  old : Nat
deriving DecidableEq, Repr

/-- A source–destination pair (R337, R341 to R344), both directions of one peer: the assigned port, the next sequence
number to send, the flits in the replay buffer, those of them to be sent again, the flits not sent yet, the number expected
from the peer, and the reorder buffer. -/
structure Pair where
  dev : Nat
  port : Nat
  next : Nat
  unacked : List Flit
  resend : List Flit
  unsent : List Flit
  expected : Nat
  reorder : List Flit
  owed : Bool
  replays : Nat
  unreachable : Bool
  awaiting : Option (Flit × List Flit)
deriving DecidableEq, Repr

/-- The mode of a page reached by fabric atomics (R348). -/
structure PageMode where
  pasid : Nat
  page : Nat
  home : Nat
  owner : Option Nat
  last : Nat
  run : Nat
  cont : Nat
deriving DecidableEq, Repr

/-! ### Shale -/

/-- A registered context object (R356). -/
structure Obj where
  num : Nat
  addr : Nat
  ctx : Nat
deriving DecidableEq, Repr

/-- A queued or running layer load (R365), and for a running one the cause for which its start found that it fails, 0 for none
(R363, R376). -/
structure LoadReq where
  obj : Nat
  layer : Nat
  demand : Bool
  cause : Nat
deriving DecidableEq, Repr

/-! ### Mynyx -/

/-- The states of a voted machine (R393). -/
inductive VState where
  | triplex
  | resync
  | stopped
deriving DecidableEq, Repr

/-- A voted machine: its number, state, the number of copies a soft error has struck since its last output, and the
queues it serves. -/
structure Machine where
  num : Nat
  state : VState
  struck : Nat
  queues : List Nat
deriving DecidableEq, Repr

/-- An event record (R412). -/
structure Record where
  src : Nat
  code : Nat
  ctx : Nat
  sq : Nat
  cyc : Nat
  p : List Word
deriving DecidableEq, Repr

/-- A source of event records: its next SEQ and the records dropped since its last written one (R413, R415). -/
structure Source where
  src : Nat
  sq : Nat
  dropped : Nat
deriving DecidableEq, Repr

/-- A received frame waiting in a queue of a scale-out port (R429). -/
structure RxFrame where
  port : Nat
  queue : Nat
  bytes : List Byte
deriving DecidableEq, Repr

/-- The host registers that hold a value of their own (R426). -/
structure HostRegs where
  stage : Nat
  fail : Bool
  go : Bool
  devid : BitVec 12
  fwpa : BitVec 64
  fwlen : Word
  rschpa : BitVec 64
  rschlen : Word
  q0ring : BitVec 64
  q0logn : BitVec 5
  q0stva : BitVec 64
  mach : Byte
  hlink : BitVec 4
  temp : BitVec 16
  evhead : Word
  evtail : Word
  dbell : List (Nat × Nat)
deriving DecidableEq, Repr

/-- A saved context, as its image in memory holds it (R375, R407, R409): the context with its tiles, its launches, queues, trees and
objects, the near store that its objects lie in, the packets of its code images, and of its trees the generations of their entries
and what their frozen images hold. -/
structure SavedImage where
  ctx : Ctx
  launches : List Launch
  queues : List Queue
  trees : List Tree
  objs : List Obj
  near : Mem
  code : Mem
  gens : List (Nat × Nat)
  frozen : List (Nat × Nat × Tree)
deriving DecidableEq, Repr

/-- The device outside its tiles. `lseq` is the next launch sequence that the firmware gives; `brought` are the images of contexts
that this device or another has saved; `evRing` is the event ring:
the PASID of its address (0 host physical), the address and LOGN (R415); `refills` are the refill counters of the routers (R316), and `images` what the frozen images of trees hold: their
undefined bytes, by seed and address, and the tree (R325, R326); `corrected` counts the single-bit errors corrected (R179). -/
structure Device where
  host : HostRegs
  near : Mem
  lpddr : Mem
  hostMem : Mem
  remote : Mem
  code : Mem
  ctxs : List Ctx
  brought : List SavedImage
  queues : List Queue
  launches : List Launch
  lseq : Nat
  binds : List Bind
  ribbons : List Ribbon
  gens : List (Nat × Nat)
  trees : List Tree
  objs : List Obj
  reqs : List LoadReq
  loading : List LoadReq
  stamp : Nat
  lports : List LPort
  pairs : List Pair
  rotor : Option (List (List (Option (Nat × Nat))))
  rotorSlot : Nat
  slots : Nat
  sent : List SentFlit
  replies : List Reply
  relay : List Flit
  discards : Nat
  pages : List PageMode
  fwd : List ((Nat × Nat) × Nat)
  xrun : Word
  xcont : Word
  xacc : Word
  lbud : Word
  votes : Word
  vdis : Word
  vres : Word
  vstop : Word
  devid : BitVec 12
  machines : List Machine
  evRing : Option (Nat × Nat × Nat)
  early : List Record
  corrected : Nat
  sources : List Source
  refills : List (Nat × Nat)
  images : List (Nat × Nat × Tree)
  l2tlb : List (Nat × TlbEntry)
  xtlb : List TlbEntry
  shares : Vector Nat 8
  windows : List (Nat × Vector Nat 8)
  point : Nat
  pointNext : List (Nat × Nat × Nat)
  tripped : Bool
  cool : Bool
  txFrames : List RxFrame
  rxFrames : List RxFrame
  steer : List (Nat × Nat × Nat × Nat)
  frameDrops : Nat
  hostRead : List Byte
deriving DecidableEq, Repr

/-! ### The whole state -/

/-- How the issue of the current bundle has gone so far: an operation trapped at decode (step 2 of R56), trapped in
execution (step 3), must wait (R53), or must have a checkpoint before it (R137). -/
inductive IssueStatus where
  | ok
  | trapDecode
  | trapExec
  | stall
  | ckpt
deriving DecidableEq, Repr

/-- What a bundle does to the near store or to the grant table of its context, which none of its operations sees (R48): bytes that
`save` writes, or an entry that `domw` sets. -/
inductive Late where
  | near (addr : Nat) (bytes : List Byte)
  | grant (ctx entry base len rights : Nat)
deriving DecidableEq, Repr

/-- The bundle being issued: packet index, length, pool words, the index and bits of the operation word, word 0, whether it
holds beside an X-pipe operation a memory-slot operation (R274), or another that may write an output stream, its operation words, and the flags that its operations have set
so far at its own cycle (R82), cr.xrun, cr.xcont, cr.xacc and cr.lbud as the bundle found them (R48, R116), and what it does once it
has issued whole. -/
structure Issue where
  pc : BitVec 20
  len : Nat
  pool : List Word
  word : Nat
  raw : Word
  word0 : Word
  both : Bool
  ops : List Word
  fl : Word
  xregs : Vector Word 4
  late : List Late
  status : IssueStatus
deriving DecidableEq, Repr

/-- An error of the hardware itself: a data error that a tile's parity or residue checks find at its bundle (R142), a
lattice element or a Flint element of wrong parity (R148, R294), an uncorrectable word of a window, of a weight buffer, of the
near store or of LPDDR (R179, R291, R428), a single-bit error that is corrected (R179), a soft error in a copy of a voted machine
(R19, R393), a tile that fails its self-test (R430). -/
inductive Upset where
  | tile (phys : Nat)
  | lattice (phys el : Nat)
  | window (phys off : Nat)
  | weights (phys : Nat) (second : Bool) (off : Nat)
  | near (addr : Nat)
  | lpddr (addr : Nat)
  | flint (phys off : Nat)
  | corrected
  | machine (m : Nat)
  | selfTest (phys : Nat)
deriving DecidableEq, Repr

/-- An input of the outside world or a choice of order the manual leaves open: an event or command to perform next, the
tile whose turn it is, bytes that the host stores in its own memory (R268) or that a remote device holds, the contribution of a
remote member of a tree (R307, R311), the image of a context that another device has saved (R407), a reading of the hottest sensor
(R426), or an error of the hardware. -/
inductive Input where
  | event (e : Instr)
  | focus (phys : Nat)
  | hostStore (addr : Nat) (bytes : List Byte)
  | remoteStore (dev addr : Nat) (bytes : List Byte)
  | remotePost (tree dev tile seg : Nat) (bytes : List Byte)
  | image (i : SavedImage)
  | temperature (t : Nat)
  | upset (u : Upset)
deriving DecidableEq, Repr

/-- The machine. `src` is the tile as it stood when the current bundle issued, from which its sources are read (R48);
`free` numbers the undefined values (the model's own counter). -/
structure State where
  tile : Tile
  others : List Tile
  src : Tile
  iss : Issue
  dev : Device
  sched : List Input
  free : Nat
deriving DecidableEq, Repr

/-- Why the machine stops. -/
inductive Fault where
  /-- Raised by CXL_MEM_READ and CXL_MEM_WRITE for an address beyond the decoder's range (R425: two decoders, 768 GiB and
  2 GiB; nothing outside the table is supported). Safe: the manual gives such an access no effect. -/
  | hostAddressAbsent
deriving DecidableEq, Repr

/-- Why an instruction has no meaning. -/
inductive Refusal where
  /-- Raised by an arm of `exec` whose instruction has no meaning yet. Safe: nothing is claimed of it. -/
  | notModelled (mnemonic : String)
deriving DecidableEq, Repr

/-! ### Reset (R430) -/

def Flint.reset : Flint :=
  ⟨0, Vector.replicate 256 0, Vector.replicate 256 0, Vector.replicate 256 0, Vector.replicate 256 0⟩

def Core.reset : Core where
  pc := 0
  s := Vector.replicate 64 0
  p := 1
  lat := Vector.replicate 256 0
  flags := 0
  fpctl := 0
  lwlim := 0
  epc := 0
  ecause := 0
  einfo := 0
  ss := Vector.replicate 4 0
  ntmask := 0
  sup := false
  inHandler := false
  noteDue := 0
  ports := Vector.replicate 12 Port.unbound
  bindings := 0
  tokPend := []
  tokDone := []
  tcfg := Vector.replicate 8 0
  wbCfg0 := 0
  wbCfg1 := 0
  latBuf := false
  latValid := false
  flint := Flint.reset
  pins := []

/-- No task: the widest declarations, no features, an empty image. -/
def Task.none : Task where
  q := 0
  sq := 0
  spawned := false
  supLaunch := false
  wid := 0
  wf := Vector.replicate 6 0
  rank := 0
  rlen := 1
  skew := 0
  sregs := 64
  lrows := 16
  strms := 12
  tregs := 8
  jobs := 96
  spad := 0x180000
  bars := 0
  sctx := 0xFFFF
  feat := 0
  imgBase := 0
  imgSize := 0
  trigDone := false

/-- Tile `n` after reset: bound to no context, every register at its reset value, memory zeroed. -/
def Tile.reset (n : Nat) : Tile where
  phys := n
  stat := .unbound
  ctx := 0
  ltile := 0
  ntile := 0
  ctxn := 0
  pasid := 0
  tvec := 0xFFFFF
  task := Task.none
  core := Core.reset
  ck := Core.reset
  cyc := 0
  cych := 0
  win := Mem.empty
  shadow := Mem.empty
  wb0 := Mem.empty
  wb1 := Mem.empty
  ckWb0 := Mem.empty
  ckWb1 := Mem.empty
  latBad := []
  pend := []
  loads := []
  jobs := []
  jobSq := 0
  jobFails := []
  cq := []
  released := []
  rb := []
  loadBuf := []
  mq := []
  tstId := 0
  poison := []
  ckPoison := []
  unpins := []
  notes := []
  recov := Recov.idle
  ckFresh := false
  ckDue := false
  haltDue := false
  lwCount := 0
  lwOn := none
  freshPins := []
  issued := 0
  tlb := []
  doomed := false
  extWr := []
  flintBad := []

def HostRegs.reset : HostRegs where
  stage := 0
  fail := false
  go := false
  devid := 0
  fwpa := 0
  fwlen := 0
  rschpa := 0
  rschlen := 0
  q0ring := 0
  q0logn := 0
  q0stva := 0
  mach := 0
  hlink := 0xF
  temp := 0
  evhead := 0
  evtail := 0
  dbell := []

def Device.reset : Device where
  host := HostRegs.reset
  near := Mem.empty
  lpddr := Mem.empty
  hostMem := Mem.empty
  remote := Mem.empty
  code := Mem.empty
  ctxs := []
  brought := []
  queues := []
  launches := []
  lseq := 0
  binds := []
  ribbons := []
  gens := []
  trees := []
  objs := []
  reqs := []
  loading := []
  stamp := 0
  lports := []
  pairs := []
  rotor := none
  rotorSlot := 0
  slots := 0
  sent := []
  replies := []
  relay := []
  discards := 0
  pages := []
  fwd := []
  xrun := 0x40
  xcont := 0x10
  xacc := 0x1000
  lbud := 0x4000
  votes := 0
  vdis := 0
  vres := 0
  vstop := 0
  devid := 0
  machines := []
  evRing := none
  early := []
  corrected := 0
  sources := []
  refills := []
  images := []
  l2tlb := []
  xtlb := []
  shares := Vector.replicate 8 0
  windows := []
  point := 0
  pointNext := []
  tripped := false
  cool := false
  txFrames := []
  rxFrames := []
  steer := []
  frameDrops := 0
  hostRead := []

def Issue.none : Issue := ⟨0, 1, [], 0, 0, 0, false, [], 0, #v[0, 0, 0, 0], [], .ok⟩

/-- The machine right after reset: physical tile 0 in focus, every other tile in its reset state and so unlisted, stage 0
of bring-up (R430). -/
def State.reset : State where
  tile := Tile.reset 0
  others := []
  src := Tile.reset 0
  iss := Issue.none
  dev := Device.reset
  sched := []
  free := 0

end Sys2Proof.Machine
end

