-- ==== Sys2Proof/Machine/Mem.lean ====
section
/-! DEFINITION. Memory operations: reading and writing bytes and little-endian words (R4), undefined ranges (R3) and
uncorrectable words (R179). A write keeps the canonical form: addresses strictly rising and no listed zero. -/

namespace Sys2Proof.Machine

/-- The byte listed at an address. -/
def cellAt : List Host.Cell → Nat → Option Byte
  | [], _ => none
  | (b, v) :: l, a => if b = a then some v else cellAt l a

/-- What an address that no cell lists reads as (R430). -/
def unlistedByte : Byte := 0

/-- The cells with address a removed. -/
def eraseCell : List Host.Cell → Nat → List Host.Cell
  | [], _ => []
  | (b, v) :: l, a => if b = a then l else (b, v) :: eraseCell l a

/-- The cells with (a, v) put in its place. -/
def insertCell : List Host.Cell → Nat → Byte → List Host.Cell
  | [], a, v => [(a, v)]
  | (b, w) :: l, a, v =>
    if a < b then (a, v) :: (b, w) :: l
    else if a = b then (a, v) :: l
    else (b, w) :: insertCell l a v

/-- Cells after writing v at a: the value an unlisted address reads as is not listed. -/
def setCell (l : List Host.Cell) (a : Nat) (v : Byte) : List Host.Cell :=
  if v = unlistedByte then eraseCell l a else insertCell l a v

/-- Strictly rising addresses, none below `lo`, no listed zero. -/
def cellsWfFrom : Nat → List Host.Cell → Bool
  | _, [] => true
  | lo, (a, v) :: l => decide (lo ≤ a) && decide (v ≠ unlistedByte) && cellsWfFrom (a + 1) l

/-- The canonical form of a list of cells. -/
def cellsWf (l : List Host.Cell) : Bool := cellsWfFrom 0 l

/-- The canonical form of a memory. -/
def Mem.wf (m : Mem) : Bool := cellsWf m.cells

/-- Every memory of a tile in canonical form. -/
def Tile.memWf (t : Tile) : Bool := t.win.wf && t.shadow.wf && t.wb0.wf && t.wb1.wf && t.ckWb0.wf && t.ckWb1.wf

/-- Every memory of a context in canonical form: those of its saved tiles, and its saved near store. -/
def Ctx.memWf (c : Ctx) : Bool := c.saved.all Tile.memWf && c.savedNear.wf

def UndefRange.has (r : UndefRange) (a : Nat) : Bool := decide (r.lo ≤ a ∧ a < r.hi)

/-- What is left of an undefined range outside [lo, hi). -/
def UndefRange.outside (r : UndefRange) (lo hi : Nat) : List UndefRange :=
  (if r.lo < min r.hi lo then [⟨r.lo, min r.hi lo, r.seed⟩] else []) ++
  (if max r.lo hi < r.hi then [⟨max r.lo hi, r.hi, r.seed⟩] else [])

/-- One byte: a free byte where the address is undefined (R3), else the listed byte, else zero. -/
def Mem.readByte (m : Mem) (a : Nat) : Byte :=
  match m.undef.find? (·.has a) with
  | some r => Config.freeByte r.seed a
  | none => (cellAt m.cells a).getD unlistedByte

/-- Writing one byte makes it defined. -/
def Mem.writeByte (m : Mem) (a : Nat) (v : Byte) : Mem :=
  { m with cells := setCell m.cells a v, undef := m.undef.flatMap (·.outside a (a + 1)) }

def Mem.read (m : Mem) (a n : Nat) : List Byte := (List.range n).map fun i => m.readByte (a + i)

/-- Writing bytes from a on, without a word of the error code being touched. -/
def Mem.writeRaw (m : Mem) (a : Nat) : List Byte → Mem
  | [] => m
  | b :: bs => (m.writeByte a b).writeRaw (a + 1) bs

/-- Writing bytes: a word that is written whole becomes correct (R179). -/
def Mem.write (m : Mem) (a : Nat) (bs : List Byte) : Mem :=
  let m := m.writeRaw a bs
  { m with bad := m.bad.filter fun w => !(decide (a ≤ w) && decide (w + 4 ≤ a + bs.length)) }

/-- The bytes [lo, hi) become undefined (R3). -/
def Mem.undefine (m : Mem) (lo hi seed : Nat) : Mem :=
  if hi ≤ lo then m
  else
    { m with
      cells := m.cells.filter fun c => !(decide (lo ≤ c.1) && decide (c.1 < hi))
      undef := m.undef.flatMap (·.outside lo hi) ++ [⟨lo, hi, seed⟩] }

/-- Whether the n bytes at a touch an uncorrectable word; the first such word. -/
def Mem.badWord (m : Mem) (a n : Nat) : Option Nat := m.bad.find? fun w => decide (w < a + n) && decide (a < w + 4)

/-- The unsigned value of bytes, the first lowest (R4). -/
def natOfBytes : List Byte → Nat
  | [] => 0
  | b :: bs => b.toNat + 256 * natOfBytes bs

/-- n bytes of a value, the lowest first (R4). -/
def bytesOfNat : Nat → Nat → List Byte
  | 0, _ => []
  | n + 1, v => BitVec.ofNat 8 v :: bytesOfNat n (v / 256)

def Mem.readNat (m : Mem) (a n : Nat) : Nat := natOfBytes (m.read a n)
def Mem.writeNat (m : Mem) (a n v : Nat) : Mem := m.write a (bytesOfNat n v)
def Mem.word (m : Mem) (a : Nat) : Word := BitVec.ofNat 32 (m.readNat a 4)

/-- Cells of a run of bytes from a on. -/
def cellsOf (a : Nat) : List Byte → List Host.Cell
  | [] => []
  | b :: bs => (a, b) :: cellsOf (a + 1) bs

/-- Cells gathered into runs of consecutive addresses. -/
def runsOf : List Host.Cell → List (Nat × List Byte)
  | [] => []
  | (a, b) :: l =>
    match runsOf l with
    | (x, bs) :: r => if a + 1 = x then (a, b :: bs) :: r else (a, [b]) :: (x, bs) :: r
    | [] => [(a, [b])]

/-- A copy of [lo, hi) of one memory over another: bytes, undefined ranges and uncorrectable words. -/
def Mem.copyRange (dst src : Mem) (lo hi : Nat) : Mem :=
  { cells := (src.cells.filter fun c => decide (lo ≤ c.1) && decide (c.1 < hi)).foldl
      (fun l c => setCell l c.1 c.2) (dst.cells.filter fun c => !(decide (lo ≤ c.1) && decide (c.1 < hi)))
    undef := dst.undef.flatMap (·.outside lo hi) ++
      src.undef.filterMap fun r => if max r.lo lo < min r.hi hi then some ⟨max r.lo lo, min r.hi hi, r.seed⟩ else none
    bad := (dst.bad.filter fun w => !(decide (lo ≤ w) && decide (w < hi))) ++
      src.bad.filter fun w => decide (lo ≤ w) && decide (w < hi) }

/-- A run of n bytes of one memory put at another place of another, or of the same, memory. -/
def Mem.move (dst src : Mem) (lo dest n : Nat) : Mem :=
  dst.copyRange
    { cells := (src.cells.filter fun c => decide (lo ≤ c.1) && decide (c.1 < lo + n)).map fun c => (c.1 - lo + dest, c.2)
      undef := src.undef.filterMap fun r =>
        if max r.lo lo < min r.hi (lo + n) then some ⟨max r.lo lo - lo + dest, min r.hi (lo + n) - lo + dest, r.seed⟩ else none
      bad := (src.bad.filter fun w => decide (lo ≤ w) && decide (w < lo + n)).map fun w => w - lo + dest }
    dest (dest + n)

end Sys2Proof.Machine
end

