-- ==== Sys2Proof/Machine/Access.lean ====
section
/-! DEFINITION. The on-chip map (R174 to R176), the tiles of a context (R11, R12), the domain (R178, R361, R391) and
byte access to every place the map names. -/

namespace Sys2Proof.Machine

/-! ### Tiles -/

/-- The tile with a physical number; a tile no list holds is in its reset state. -/
def State.getTile (s : State) (phys : Nat) : Tile :=
  if s.tile.phys = phys then s.tile
  else (s.others.find? (·.phys = phys)).getD (Tile.reset phys)

/-- A tile put into the sorted list of the others. -/
def insertTile : List Tile → Tile → List Tile
  | [], t => [t]
  | u :: l, t => if t.phys < u.phys then t :: u :: l else if t.phys = u.phys then t :: l else u :: insertTile l t

/-- A tile replaced by its new state. -/
def State.putTile (s : State) (t : Tile) : State :=
  if s.tile.phys = t.phys then { s with tile := t } else { s with others := insertTile s.others t }

def State.modTile (s : State) (phys : Nat) (f : Tile → Tile) : State := s.putTile (f (s.getTile phys))

/-- The focus moves to another tile. -/
def State.focus (s : State) (phys : Nat) : State :=
  if s.tile.phys = phys then s
  else
    { s with
      tile := s.getTile phys
      others := insertTile (s.others.filter fun u => decide (u.phys ≠ phys)) s.tile }

def State.tiles (s : State) : List Tile := s.tile :: s.others

/-- Whether a tile is bound to a context. -/
def Tile.boundTo (t : Tile) (ctx : Nat) : Bool :=
  decide (t.ctx = ctx) && decide (t.stat ≠ .unbound) && decide (t.stat ≠ .retired)

/-- The tile that serves a logical tile number of a context (R11). -/
def State.logical (s : State) (ctx l : Nat) : Option Tile := s.tiles.find? fun t => t.boundTo ctx && decide (t.ltile = l)

def State.modCtx (s : State) (ctx : Nat) (f : Ctx → Ctx) : State :=
  { s with dev := { s.dev with ctxs := s.dev.ctxs.map fun c => if c.num = ctx then f c else c } }

def State.ctx? (s : State) (ctx : Nat) : Option Ctx := s.dev.ctxs.find? (·.num = ctx)

/-- The machine as the bundle found it: its tile, and the fabric registers that a `wrcr` of the bundle may have changed (R48,
R116). -/
def State.atIssue (s : State) : State :=
  { s with
    tile := s.src
    dev := { s.dev with xrun := s.iss.xregs[0], xcont := s.iss.xregs[1], xacc := s.iss.xregs[2], lbud := s.iss.xregs[3] } }

/-- A fresh undefined word (R3). -/
def State.fresh (s : State) : Word × State := (Config.freeWord s.free, { s with free := s.free + 1 })

/-! ### Places of the map -/

/-- A place of the on-chip map: an offset of a logical tile's window, the near store, or nothing (R174). -/
inductive Place where
  | win (l off : Nat)
  | near (a : Nat)
  | hole
deriving DecidableEq, Repr

/-- The place an address names for a tile with logical number `own` (R174). -/
def placeOf (own a : Nat) : Place :=
  if a < 0x200000 then .win own a
  else if a < 0x40000000 then .hole
  else if a < 0x80000000 then .win ((a - 0x40000000) / 0x200000) ((a - 0x40000000) % 0x200000)
  else if a < 0x100000000 then .near a
  else .hole

/-- The regions of a window (R175). -/
inductive Region where
  | spad
  | tileFile
  | accs
  | lattice
  | sregs
  | reserved
  | control
deriving DecidableEq, Repr

def regionOf (off : Nat) : Region :=
  if off < 0x180000 then .spad
  else if off < 0x1A0000 then .tileFile
  else if off < 0x1E0000 then .accs
  else if off < 0x1E0400 then .lattice
  else if off < 0x1E0500 then .sregs
  else if off < 0x1F0000 then .reserved
  else .control

/-- A byte of a 32-bit word by its position (R4). -/
def wordByte (w : Word) (i : Nat) : Byte := w.extractLsb' (8 * i) 8

/-- A word with one byte replaced. -/
def setWordByte (w : Word) (i : Nat) (b : Byte) : Word :=
  (w &&& ~~~(BitVec.ofNat 32 (255 * 2 ^ (8 * i)))) ||| BitVec.ofNat 32 (b.toNat * 2 ^ (8 * i))

/-- s0 reads zero (R94). -/
def Core.reg (c : Core) (r : Reg) : Word := if r = 0 then 0 else c.s[r.toNat]

/-- A write to s0 is discarded (R94). -/
def Core.setReg (c : Core) (r : Reg) (v : Word) : Core :=
  if r = 0 then c else { c with s := c.s.set r.toNat v }

/-- A byte of a tile's window below the control region (R175, R176). -/
def Tile.winByte (t : Tile) (off : Nat) : Byte :=
  match regionOf off with
  | .spad => t.win.readByte off
  | .tileFile => t.win.readByte off
  | .accs => t.win.readByte off
  | .lattice => wordByte (t.core.lat.getD ((off - 0x1E0000) / 4) 0) (off % 4)
  | .sregs => wordByte (t.core.reg (BitVec.ofNat 6 ((off - 0x1E0400) / 4))) (off % 4)
  | .reserved => 0
  | .control => 0

/-- A byte written into a window by an agent other than the tile's own program: not saved in the rollback store (R138). -/
def Tile.setWinByte (t : Tile) (off : Nat) (v : Byte) : Tile :=
  match regionOf off with
  | .spad => { t with win := t.win.writeByte off v }
  | .tileFile => { t with win := t.win.writeByte off v }
  | .accs => { t with win := t.win.writeByte off v }
  | .lattice =>
    let i := (off - 0x1E0000) / 4
    { t with core := { t.core with lat := t.core.lat.setIfInBounds i (setWordByte (t.core.lat.getD i 0) (off % 4) v) } }
  | .sregs =>
    let r : Reg := BitVec.ofNat 6 ((off - 0x1E0400) / 4)
    { t with core := t.core.setReg r (setWordByte (t.core.reg r) (off % 4) v) }
  | .reserved => t
  | .control => t

/-- After bytes [off, off + n) were written, every word written whole is correct again (R179). -/
def Tile.clearBad (t : Tile) (off n : Nat) : Tile :=
  { t with
    win := { t.win with bad := t.win.bad.filter fun w => !(decide (off ≤ w) && decide (w + 4 ≤ off + n)) }
    latBad := t.latBad.filter fun e => !(decide (off ≤ 0x1E0000 + 4 * e) && decide (0x1E0000 + 4 * e + 4 ≤ off + n)) }

/-- A run of bytes written into a window from outside the tile's program. -/
def Tile.setWin (t : Tile) (off : Nat) (bs : List Byte) : Tile :=
  ((cellsOf off bs).foldl (fun u c => u.setWinByte c.1 c.2) t).clearBad off bs.length

/-- A byte of the on-chip map as an agent of context `ctx` with own logical tile `own` sees it. -/
def State.mapByte (s : State) (ctx own a : Nat) : Byte :=
  match placeOf own a with
  | .win l off => ((s.logical ctx l).map (·.winByte off)).getD 0
  | .near n => s.dev.near.readByte n
  | .hole => 0

def State.mapRead (s : State) (ctx own a n : Nat) : List Byte := (List.range n).map fun i => s.mapByte ctx own (a + i)

/-- The aligned units of 64 bytes that [off, off + n) touches. -/
def unitsOf (off n : Nat) : List Nat :=
  if n = 0 then [] else (List.range ((off + n - 1) / 64 - off / 64 + 1)).map fun i => 64 * (off / 64 + i)

/-- Units of a running tile's window, below its vector registers, that another agent writes (R138, R274). -/
def Tile.noteExt (t : Tile) (off n : Nat) : Tile :=
  if t.stat = .running then
    { t with extWr := t.extWr ++ (unitsOf off n).filter fun u => decide (u < 0x1E0000) && !t.extWr.contains u }
  else t

/-- A run of bytes, inside one region, written to the on-chip map by an engine or by released stores. -/
def State.mapWrite (s : State) (ctx own a : Nat) (bs : List Byte) : State :=
  match placeOf own a with
  | .win l off =>
    match s.logical ctx l with
    | some t => s.putTile ((t.setWin off bs).noteExt off bs.length)
    | none => s
  | .near n => { s with dev := { s.dev with near := s.dev.near.write n bs } }
  | .hole => s

def State.mapNat (s : State) (ctx own a n : Nat) : Nat := natOfBytes (s.mapRead ctx own a n)

/-- The uncorrectable word that n bytes at a touch (R179, R148). -/
def State.mapBad (s : State) (ctx own a n : Nat) : Option Nat :=
  match placeOf own a with
  | .win l off => (s.logical ctx l).bind fun t => t.win.badWord off n
  | .near x => s.dev.near.badWord x n
  | .hole => none

/-! ### Context objects and the domain -/

/-- The layers of a registered object (R357). -/
def State.objLayers (s : State) (o : Obj) : Nat := s.dev.near.readNat (o.addr + 4) 4 % 2048

def entryAddr (o : Obj) (layer : Nat) : Nat := o.addr + 64 * (layer + 1)

/-- STATE of a layer's residency word (R360). -/
def State.layerState (s : State) (o : Obj) (layer : Nat) : Nat := s.dev.near.readNat (entryAddr o layer + 0x30) 4 % 4

def State.layerStage (s : State) (o : Obj) (layer : Nat) : Nat := s.dev.near.readNat (entryAddr o layer + 0x0C) 4
def State.layerSize (s : State) (o : Obj) (layer : Nat) : Nat := s.dev.near.readNat (entryAddr o layer + 0x08) 4

/-- Near-store ranges [lo, hi) that Mynyx holds readable for a context: its registered objects, and the staging ranges of
their RESIDENT layers (R361). -/
def State.heldRanges (s : State) (ctx : Nat) : List (Nat × Nat) :=
  s.dev.objs.flatMap fun o =>
    if o.ctx = ctx then
      (o.addr, o.addr + 64 * (s.objLayers o + 1)) ::
        (List.range (s.objLayers o)).filterMap fun i =>
          if s.layerState o i = 2 then some (s.layerStage o i, s.layerStage o i + s.layerSize o i) else none
    else []

/-- Whether a byte range is covered by a list of ranges: `fuel` extensions of the covered prefix. -/
def coveredGo : Nat → List (Nat × Nat) → Nat → Nat → Bool
  | 0, _, lo, hi => decide (hi ≤ lo)
  | fuel + 1, rs, lo, hi =>
    if hi ≤ lo then true
    else match rs.find? fun r => decide (r.1 ≤ lo) && decide (lo < r.2) with
      | some r => coveredGo fuel rs r.2 hi
      | none => false

def covered (rs : List (Nat × Nat)) (lo hi : Nat) : Bool := coveredGo (rs.length + 1) rs lo hi

/-- Every registered object and every layer's staging range, which no grant entry reaches (R391, R361). -/
def State.shaleRanges (s : State) : List (Nat × Nat) :=
  s.dev.objs.flatMap fun o =>
    (o.addr, o.addr + 64 * (s.objLayers o + 1)) ::
      (List.range (s.objLayers o)).map fun i => (s.layerStage o i, s.layerStage o i + s.layerSize o i)

/-- What is left of a range outside another. -/
def cutRange (f r : Nat × Nat) : List (Nat × Nat) :=
  (if r.1 < min r.2 f.1 then [(r.1, min r.2 f.1)] else []) ++ (if max r.1 f.2 < r.2 then [(max r.1 f.2, r.2)] else [])

def cutRanges (fs rs : List (Nat × Nat)) : List (Nat × Nat) := fs.foldl (fun rs f => rs.flatMap (cutRange f)) rs

/-- Whether near-store bytes [a, a + n) are in the domain of a context for a read or a write: granted by an entry of its
grant table, outside the ranges of Shale, or, for reads, held for it by Mynyx (R178, R361, R391). -/
def State.nearOk (s : State) (ctx a n : Nat) (write : Bool) : Bool :=
  match s.ctx? ctx with
  | none => false
  | some c =>
    let gs := cutRanges s.shaleRanges (c.grants.toList.filterMap fun g =>
      if g.rights = 3 ∨ (g.rights = 1 ∧ write = false) then some (g.base, g.base + g.len) else none)
    covered (if write then gs else gs ++ s.heldRanges ctx) a (a + n)

/-- Step 2 of R178 for one access of n bytes lying in one region: `spad` is the declared scratchpad, not enforced in
supervisor mode (R378). -/
def State.accessOk (s : State) (t : Tile) (sup : Bool) (a n : Nat) (write : Bool) : Bool :=
  match placeOf t.ltile a with
  | .hole => false
  | .near x => decide (x + n ≤ 0x100000000) && s.nearOk t.ctx x n write
  | .win l off =>
    decide (l < t.ntile) &&
    match regionOf off with
    | .spad => decide (off + n ≤ if sup then 0x180000 else t.task.spad)
    | .tileFile => decide (off + n ≤ 0x1A0000)
    | .accs => decide (off + n ≤ 0x1E0000)
    | .lattice => decide (off + n ≤ 0x1E0400)
    | .sregs => decide (off + n ≤ 0x1E0500)
    | .reserved => false
    | .control => false

/-- Whether an address lies in a scratchpad (below the tile file) or the near store, not in a register region. -/
def inMemory (own a : Nat) : Bool :=
  match placeOf own a with
  | .win _ off => regionOf off = .spad
  | .near _ => true
  | .hole => false

/-- Whether a place is the tile's own window. -/
def Tile.owns (t : Tile) (a : Nat) : Bool :=
  match placeOf t.ltile a with
  | .win l _ => decide (l = t.ltile)
  | _ => false

/-- The offset of an address in its window. -/
def offsetOf (own a : Nat) : Nat :=
  match placeOf own a with
  | .win _ off => off
  | _ => 0

/-- A scratchpad barrier must lie in the last 16 × bars bytes of the declared scratchpad (R123); near-store barriers are
limited by the domain alone. -/
def Tile.barrierRegionOk (t : Tile) (sup : Bool) (a : Nat) : Bool :=
  match placeOf t.ltile a with
  | .win _ off => sup || (decide (t.task.spad ≤ off + 16 * t.task.bars) && decide (off + 16 ≤ t.task.spad))
  | _ => true

end Sys2Proof.Machine
end

