-- ==== Sys2Proof/Machine/Flags.lean ====
section
/-! DEFINITION. The sticky flags of a tile: merging by OR as results land, and the wait before cr.flags is copied out
(R80, R82). The computation of each flag stands with the arithmetic, in Num.lean. -/

namespace Sys2Proof.Machine

/-- Flags enter cr.flags by OR (R82). -/
def Core.orFlags (c : Core) (f : Word) : Core := { c with flags := c.flags ||| f }

def Tile.orFlags (t : Tile) (f : Word) : Tile := { t with core := t.core.orFlags f }

/-- The bits of cr.flags that software can write: the others are reserved (R80, R5). -/
def flagsMask : Word := 0x7F

/-- Whether a flag-setting operation of an earlier bundle has not landed, matrix and Flint operations included (R82). -/
def Tile.flagsBusy (t : Tile) : Bool := t.pend.any (fun p => decide (p.flags ≠ 0)) || !t.mq.isEmpty

/-- The flags [7:0] that `barv` carries and barrier objects hold (R80, R255). -/
def Core.flagByte (c : Core) : Byte := c.flags.extractLsb' 0 8

end Sys2Proof.Machine
end

