-- ==== Sys2Proof/Machine/Operands.lean ====
section
/-! DEFINITION. Operand forms: guards (R46), the B operand (R35), register pairs (R36), vector operands (R37, R147, R151),
the declarations a field is checked against (R123, R124), and what an operation must wait for (R53). Sources are read
from `src`, the tile as the bundle found it (R48). -/

namespace Sys2Proof

/-! ### Operand fields -/

/-- The scalar registers a B operand reads. -/
def BOp.regs : BOp → List Reg
  | .reg r => [r]
  | _ => []

/-- The scalar registers a 64-bit B operand reads. -/
def BOp.regs64 : BOp → List Reg
  | .reg r => [r, r ||| 1]
  | _ => []

/-- The lattice element that lane i of an operand presents (R37). -/
def VOp.index (v : VOp) (i : Nat) : Nat :=
  match v with
  | .row k => 16 * k.toNat + i
  | .col k => 16 * i + k.toNat
  | .diag k => 16 * i + (i + k.toNat) % 16
  | .port _ => 256

/-- The stream port that an operand names. -/
def VOp.stream? : VOp → Option Nat
  | .port k => if k.toNat < 12 then some k.toNat else none
  | _ => none

end Sys2Proof

namespace Sys2Proof.Machine

/-! ### Guards and predicates (R46, R95) -/

/-- p0 reads true (R95). -/
def Core.pred (c : Core) (i : BitVec 3) : Bool := decide (i = 0) || c.p.getLsbD i.toNat

/-- A write to p0 is discarded (R95). -/
def Core.setPred (c : Core) (i : BitVec 3) (v : Bool) : Core :=
  if i = 0 then c
  else { c with p := if v then c.p ||| (1 <<< i.toNat) else c.p &&& ~~~((1 : BitVec 8) <<< i.toNat) }

def State.guard (s : State) (g : Guard) : Bool := s.src.core.pred g

/-- The ribbon a tile runs in, as a rank whose task has not ended. -/
def State.ribbonOf (s : State) (phys : Nat) : Option Ribbon :=
  s.dev.ribbons.find? fun r => r.tiles.contains phys

/-- What rank 0 read and decided at the bundle that the tile is issuing; none in solo issue and at rank 0 itself
(R127). -/
def State.decision (s : State) : Option Decision :=
  if s.src.task.rank = 0 then none
  else (s.ribbonOf s.src.phys).bind fun r => r.clock.dec[r.clock.time - s.src.task.rank * r.skew]?

/-- The guard of `br`, `brl`, `jr`, `loop`, `halt` and `eret`: in a ribbon the one rank 0 read (R127). -/
def State.ctlGuard (s : State) (g : Guard) : Bool :=
  match s.decision with
  | some d => d.guards.getD s.iss.word (s.guard g)
  | none => s.guard g

/-- The output port that the operation of a word writes with its result: every vector operation but `vext` and `vchk` has one, and so
have the vector loads (R147, R151, R186). -/
def destPort (w : Word) : Option Nat :=
  let r := Raw.ofWord w
  let op := r.op.toNat
  if (decide (0x3B ≤ op) && decide (op < 0x6A) && decide (op ≠ 0x60) && decide (op ≠ 0x67)) || decide (op = 0x76) ||
      decide (op = 0x78) then
    match VOp.ofField r.d with
    | .port k => some k.toNat
    | _ => none
  else none

/-- Whether a later word of the bundle writes output port q with a true guard, so that its vector is the one that the port
receives (R49). -/
def State.laterPort (s : State) (q : Nat) : Bool :=
  (s.iss.ops.drop (s.iss.word + 1)).any fun w => decide (destPort w = some q) && s.guard (w.extractLsb' 20 3)

/-! ### Scalar operands -/

def State.rd (s : State) (r : Reg) : Word := s.src.core.reg r

/-- Bval (R35, R97). -/
def State.bval (s : State) : BOp → Word
  | .reg r => s.rd r
  | .pool i => s.iss.pool.getD i.toNat 0
  | .imm v => v.signExtend 32

/-- The register after an even one (R36). -/
def pairHi (r : Reg) : Reg := r ||| 1

def isEven (r : Reg) : Bool := decide (r.toNat % 2 = 0)

/-- The 64-bit value of a pair: the even register holds the low half (R94). -/
def State.rdPair (s : State) (r : Reg) : BitVec 64 := s.rd (pairHi r) ++ s.rd r

/-- A 64-bit B operand, a pool word or immediate sign-extended (R35). -/
def State.bval64 (s : State) : BOp → BitVec 64
  | .reg r => s.rdPair r
  | b => (s.bval b).signExtend 64

/-- A 64-bit B operand, a pool word or immediate zero-extended from its 32 bits (R253). -/
def State.bval64z (s : State) : BOp → BitVec 64
  | .reg r => s.rdPair r
  | b => (s.bval b).setWidth 64

/-! ### Checks made at decode, whatever the guard (R46, R56 step 2) -/

/-- A field that names a scalar register against `sregs` (R94, R123); not enforced in supervisor mode (R378). -/
def Tile.regOk (t : Tile) (r : Reg) : Bool := t.core.sup || decide (r.toNat < t.task.sregs) || decide (r = 63)

def Tile.bOk (t : Tile) (b : BOp) : Bool := b.regs.all t.regOk

/-- A pair: an even register, both registers within the declaration (R36, R123). -/
def Tile.pairOk (t : Tile) (r : Reg) : Bool := isEven r && t.regOk r && t.regOk (pairHi r)

def Tile.b64Ok (t : Tile) : BOp → Bool
  | .reg r => t.pairOk r
  | _ => true

/-- A source vector operand (R37, R123). -/
def Tile.vOk (t : Tile) : VOp → Bool
  | .row k => t.core.sup || decide (k.toNat < t.task.lrows)
  | .col _ => t.core.sup || decide (t.task.lrows = 16)
  | .diag _ => t.core.sup || decide (t.task.lrows = 16)
  | .port k =>
    if k.toNat < 12 then t.core.sup || decide (k.toNat < t.task.strms) else decide (k.toNat < 14)

/-- A destination vector operand: `z` and `iota` are refused (R37). -/
def Tile.vdOk (t : Tile) : VOp → Bool
  | .port k => decide (k.toNat < 12) && (t.core.sup || decide (k.toNat < t.task.strms))
  | v => t.vOk v

/-- A destination that is read as well: no port at all (R151). -/
def Tile.vrwOk (t : Tile) : VOp → Bool
  | .port _ => false
  | v => t.vOk v

/-- A tile register field (R42, R123). -/
def Tile.tregOk (t : Tile) (x : BitVec 3) : Bool := t.core.sup || decide (x.toNat < t.task.tregs)

/-- A plain stream port number (R199, R123). -/
def Tile.portOk (t : Tile) (r : Reg) : Bool :=
  decide (r.toNat < 12) && (t.core.sup || decide (r.toNat < t.task.strms))

/-- A feature bit of the task (R124): in force in supervisor mode as well (R127). -/
def Tile.feat (t : Tile) (bit : Nat) : Bool := t.task.feat.getLsbD bit

/-- The first cause whose check fails. -/
def firstCause : List (Bool × Cause) → Option Cause
  | [] => none
  | (ok, c) :: l => if ok then firstCause l else some c

/-- The check of an operation whose only decode trap is illegal-operand. -/
def operandCheck (ok : Bool) : Option Cause := firstCause [(ok, .illegalOperand)]

/-! ### The lattice as vector operands (R147) -/

def Core.port (c : Core) (q : Nat) : Port := c.ports.getD q Port.unbound
def Core.setPort (c : Core) (q : Nat) (p : Port) : Core := { c with ports := c.ports.setIfInBounds q p }
def Core.latEl (c : Core) (i : Nat) : Word := c.lat.getD i 0

def vecZero : Vec := Vector.replicate 16 0

/-- A vector operand read at issue: every field that names one input port sees the same vector (R48, R151). -/
def State.rdV (s : State) (v : VOp) : Vec :=
  match v with
  | .port k =>
    if k.toNat < 12 then ((s.src.core.port k.toNat).fifo.head?).getD vecZero
    else if k.toNat = 13 then Vector.ofFn fun i => BitVec.ofNat 32 i.val
    else vecZero
  | _ => Vector.ofFn fun i => s.src.core.latEl (v.index i.val)

/-- Lane i of a vector. -/
def lane (v : Vec) (i : Nat) : Word := v.getD i 0

/-- Element j of width w of a vector in the packed form (R84, R150). -/
def elemN (w : Nat) (v : Vec) (j : Nat) : Nat := (lane v (j * w / 32)).toNat / 2 ^ (j * w % 32) % 2 ^ w

/-- The word that packs 32 / w elements, the first lowest. -/
def packWord (w : Nat) : Nat → (Nat → Nat) → Nat
  | 0, _ => 0
  | n + 1, f => f 0 % 2 ^ w + 2 ^ w * packWord w n fun k => f (k + 1)

/-- The vector whose packed elements of width w are given. -/
def vecOfElems (w : Nat) (f : Nat → Nat) : Vec :=
  Vector.ofFn fun i => BitVec.ofNat 32 (packWord w (32 / w) fun k => f (i.val * (32 / w) + k))

/-- The 64 bytes of a vector, lane 0 first. -/
def vecBytes (v : Vec) : List Byte := v.toList.flatMap fun w => bytesOfNat 4 w.toNat

/-- A vector of 64 bytes. -/
def vecOfBytes (bs : List Byte) : Vec :=
  Vector.ofFn fun i => BitVec.ofNat 32 (natOfBytes ((bs.drop (4 * i.val)).take 4))

/-! ### Streams as operands (R204) -/

/-- Whether a read of port q faults: unbound, an output port, or position = total. -/
def Port.readFault (p : Port) : Bool := !p.bound || p.out || decide (p.pos = p.total)

/-- Whether a write of port q faults. -/
def Port.writeFault (p : Port) : Bool := !p.bound || !p.out || decide (p.pos = p.total)

/-- The first port whose use by these operands raises stream-fault (R204). -/
def State.streamFault (s : State) (srcs dsts : List VOp) : Option Nat :=
  match (srcs.filterMap VOp.stream?).find? fun q => (s.src.core.port q).readFault with
  | some q => some q
  | none => (dsts.filterMap VOp.stream?).find? fun q => (s.src.core.port q).writeFault

/-! ### What an operation reads and writes, and waits for (R53) -/

/-- The registers and vector operands an operation names. -/
structure Uses where
  regs : List Reg
  vecs : List VOp
  dregs : List Reg
  dvecs : List VOp
deriving DecidableEq, Repr

def LoadDst.hasReg (r : Reg) : LoadDst → Bool
  | .sreg q => decide (q = r)
  | _ => false

def LoadDst.hasEl (i : Nat) : LoadDst → Bool
  | .lat els => els.contains i
  | _ => false

def LoadDst.hasPort (q : Nat) : LoadDst → Bool
  | .port p => decide (p = q)
  | _ => false

def LoadDst.isPort : LoadDst → Bool
  | .port _ => true
  | _ => false

/-- Whether the vector of a load to an output port has still to reach it: the tile's later writes and releases, and vectors for
any output port, wait for it, so that all keep program order (R188, R205). -/
def Tile.portLoading (t : Tile) : Bool := t.loads.any fun l => l.dst.isPort

/-- The register that takes the count of a queued `fgrp` (R300). -/
def XOp.countReg : XOp → Reg
  | .fgrp dst _ _ _ _ _ => dst
  | _ => 0

/-- A register whose load, atomic, `fgrp` count or other scoreboarded result has not returned. -/
def Tile.loadPending (t : Tile) (r : Reg) : Bool :=
  decide (r ≠ 0) && ((t.loads.any fun l => l.dst.hasReg r) || t.mq.any fun x => decide (x.countReg = r))

/-- A token register with a job, post or fabric operation pending (R228). -/
def Tile.tokPending (t : Tile) (r : Reg) : Bool := decide (r ≠ 0) && t.core.tokPend.any fun k => decide (k.reg = r)

/-- A source operand that is not ready: a load to one of its elements is outstanding, or its input port is empty. -/
def Tile.vecBusy (t : Tile) (v : VOp) : Bool :=
  match v with
  | .port k =>
    decide (k.toNat < 12) &&
      (let p := t.core.port k.toNat
       !p.readFault && p.fifo.isEmpty)
  | _ => (List.range 16).any fun i => t.loads.any fun (l : PLoad) => l.dst.hasEl (v.index i)

/-- An output port that is full, or that must wait for a load to an output port: vectors keep program order. -/
def Tile.portFull (t : Tile) (v : VOp) : Bool :=
  match v.stream? with
  | some q =>
    let p := t.core.port q
    !p.writeFault && (decide (8 ≤ p.fifo.length) || t.portLoading)
  | none => false

/-- A queued operation that has still to read memory (R274). -/
def XOp.isTld : XOp → Bool
  | .tld _ _ _ _ _ _ _ => true
  | .tldw _ _ _ _ _ => true
  | _ => false

/-- A queued operation that has still to write memory (R279). -/
def XOp.isTst : XOp → Bool
  | .tst _ _ _ _ _ _ _ => true
  | _ => false

/-- Whether the bundle must wait at issue for this operation's operands, whatever its guard (R53, R228); a stream output
also waits for queued loads of tile registers (R274). -/
def State.waits (s : State) (u : Uses) : Bool :=
  u.regs.any (fun r => s.src.loadPending r || s.src.tokPending r) ||
  u.dregs.any (fun r => s.src.tokPending r) ||
  u.vecs.any s.src.vecBusy ||
  u.dvecs.any (fun v => s.src.portFull v || (v.stream?.isSome && s.src.mq.any XOp.isTld))

/-- Whether a checkpoint must come before the bundle: it reads a token register that is pending or that a completion has
written, or it writes a pending one while the commit queue holds an entry (R137, R228). -/
def State.tokenCheckpoint (s : State) (u : Uses) : Bool :=
  (!s.src.ckFresh && u.regs.any (fun r => s.src.tokPending r || (decide (r ≠ 0) && s.src.core.tokDone.contains r))) ||
  (!s.src.cq.isEmpty && u.dregs.any (fun r => s.src.tokPending r))

/-- Whether an operation reads a token register, which makes its bundle an interval of its own (R137). -/
def State.readsToken (s : State) (u : Uses) : Bool :=
  u.regs.any fun r => decide (r ≠ 0) && s.src.core.tokDone.contains r

end Sys2Proof.Machine
end

