-- ==== Sys2Proof/Machine/Own.lean ====
section
/-! DEFINITION. A tile's own accesses: its window through both addresses (R174, R104), the rollback store (R138), the
commit queue (R139), forwarding from held stores (R188), output streams landing (R195, R205), and the delivery of
latency-bound and scoreboarded results (R49 to R53). -/

namespace Sys2Proof.Machine

/-! ### Addresses -/

/-- The offset of an own-window address, whichever of its two ranges names it. -/
def Tile.ownOff (t : Tile) (a : Nat) : Option Nat :=
  match placeOf t.ltile a with
  | .win l off => if l = t.ltile then some off else none
  | _ => none

/-- One address per byte: an own-window byte is named by its offset. -/
def Tile.canon (t : Tile) (a : Nat) : Nat := (t.ownOff a).getD a

/-! ### The rollback store (R138) -/

/-- A unit as it stands, to be put back by a rollback. -/
def Tile.unitImage (t : Tile) (u : Nat) : SavedUnit where
  unit := u
  cells := t.win.cells.filter fun c => decide (u ≤ c.1) && decide (c.1 < u + 64)
  undef := t.win.undef.filterMap fun r =>
    if max r.lo u < min r.hi (u + 64) then some ⟨max r.lo u, min r.hi (u + 64), r.seed⟩ else none
  bad := t.win.bad.filter fun w => decide (u ≤ w) && decide (w < u + 64)

/-- The first write of the interval to a unit of the scratchpad or the tile file saves its old contents (R138). -/
def Tile.saveUnit (t : Tile) (u : Nat) : Tile :=
  if 0x1A0000 ≤ u ∨ (t.rb.any fun r => decide (r.unit = u)) then t else { t with rb := t.rb ++ [t.unitImage u] }

def Tile.saveUnits (t : Tile) (off n : Nat) : Tile := (unitsOf off n).foldl Tile.saveUnit t

/-- A held flagged store gives up the bytes that a later store of the tile to its own window writes (R188). -/
def Held.dropBytes (lo hi : Nat) : Held → Held
  | .stf cells flag before => .stf (cells.filter fun c => !(decide (lo ≤ c.1) && decide (c.1 < hi))) flag before
  | h => h

/-- A write of the tile's own program to its own window (R138, R188). -/
def Tile.ownWrite (t : Tile) (off : Nat) (bs : List Byte) : Tile :=
  let t := (t.saveUnits off bs.length).setWin off bs
  { t with
    cq := t.cq.map (Held.dropBytes off (off + bs.length))
    released := t.released.map (Held.dropBytes off (off + bs.length)) }

/-- A unit put back. -/
def Mem.putUnit (m : Mem) (u : SavedUnit) : Mem := m.copyRange ⟨u.cells, u.undef, u.bad⟩ u.unit (u.unit + 64)

/-! ### Forwarding (R188) -/

/-- The byte that the last of some cells writes at an address. -/
def lastCell (l : List Host.Cell) (a : Nat) (d : Option Byte) : Option Byte :=
  l.foldl (fun acc c => if c.1 = a then some c.2 else acc) d

/-- The byte of the latest held store to a canonical address: a held atomic is not applied (R188), and neither is the
increment of a held `stf` (R193). -/
def heldByte (cq : List Held) (a : Nat) : Option Byte :=
  cq.foldl (fun acc h =>
    match h with
    | .store cells _ => lastCell cells a acc
    | .tst _ cells _ => lastCell cells a acc
    | .stf cells _ _ => lastCell cells a acc
    | .vec _ cells => lastCell cells a acc
    | _ => acc) none

/-- The byte a load of the tile takes at issue: from a held store, or from the own window as it stands; none where it must
be read from another window or the near store (R188). -/
def Tile.knownByte (t : Tile) (a : Nat) : Option Byte :=
  match heldByte (t.released ++ t.cq) (t.canon a) with
  | some b => some b
  | none => (t.ownOff a).map t.winByte

/-- The byte of a filled load-buffer entry (R189). -/
def Tile.buffered (t : Tile) (a : Nat) : Option Byte :=
  (t.loadBuf.find? fun e => decide (e.1 = a / 64 * 64)).bind fun e => e.2.bind fun bs => bs[a % 64]?

/-- A byte as the tile's own program sees it: of its own window or a held store, else of a filled entry of its load buffer, which its
earlier reads may have returned, else as it stands (R188, R189, R266). -/
def State.seenByte (s : State) (t : Tile) (a : Nat) : Byte :=
  ((t.knownByte a).orElse fun _ => t.buffered a).getD (s.mapByte t.ctx t.ltile a)

def State.seen (s : State) (t : Tile) (a n : Nat) : List Byte := (List.range n).map fun i => s.seenByte t (a + i)

/-- A 32-bit word as the tile's own program sees it. -/
def State.seenWord (s : State) (t : Tile) (a : Nat) : Word := BitVec.ofNat 32 (natOfBytes (s.seen t a 4))

/-! ### Uncorrectable words and parity (R148, R179, R291, R294) -/

/-- The size in bytes of the Flint element at an offset from 0x1F_2000 (R381). -/
def flintSize (o : Nat) : Nat := if o < 0x800 then 4 else if o < 0xA00 then 1 else 2

/-- Whether a Flint element starts at an offset from 0x1F_2000 (R294, R381). -/
def flintElement (o : Nat) : Bool :=
  decide (o = 0) || (decide (0x400 ≤ o) && decide (o < 0x800) && decide (o % 4 = 0)) || (decide (0x800 ≤ o) && decide (o < 0xA00)) ||
    (decide (0xA00 ≤ o) && decide (o < 0xC00) && decide (o % 2 = 0))

/-- Whether the byte at an offset of a tile's window lies in a word or element that cannot be read: one of the error code, of a
lattice element, or of a Flint element. -/
def Tile.badAt (t : Tile) (off : Nat) : Bool :=
  (t.win.badWord off 1).isSome || (t.latBad.any fun e => decide (0x1E0000 + 4 * e ≤ off) && decide (off < 0x1E0000 + 4 * e + 4)) ||
    t.flintBad.any fun e => decide (0x1F2000 + e ≤ off) && decide (off < 0x1F2000 + e + flintSize e)

/-- What a read by a tile's own operations meets: an error that is a data error of the tile (R142), an uncorrectable word of
the near store, or a parity error that an event record reports (R291, R294). -/
inductive EccHit where
  | none
  | scratch
  | near (a : Nat)
  | event (a : Nat)
deriving DecidableEq, Repr

/-- What the byte at a meets when the tile t reads it. -/
def State.byteHit (s : State) (t : Tile) (a : Nat) : EccHit :=
  match placeOf t.ltile a with
  | .win l off =>
    if l = t.ltile then
      if t.badAt off then (if regionOf off = .control then .event (a / 4 * 4) else .scratch) else .none
    else
      match s.logical t.ctx l with
      | none => .none
      | some u => if u.badAt off then (if regionOf off = .spad then .scratch else .event (a / 4 * 4)) else .none
  | .near n =>
    match s.dev.near.badWord n 1 with
    | some w => .near w
    | none => .none
  | .hole => .none

def EccHit.isNear : EccHit → Bool
  | .near _ => true
  | _ => false

/-- The gravest of some hits. -/
def EccHit.worst (l : List EccHit) : EccHit :=
  if l.contains .scratch then .scratch
  else (l.find? EccHit.isNear).getD ((l.find? fun h => decide (h ≠ .none)).getD .none)

/-- Whether a byte that the tile t reads comes from memory itself, and not from a held store or from its load buffer (R188, R189). -/
def Tile.readsMemory (t : Tile) (a : Nat) : Bool := (heldByte (t.released ++ t.cq) (t.canon a)).isNone && (t.buffered a).isNone

/-- What a read of some bytes by the tile t meets. -/
def State.readHit (s : State) (t : Tile) (as : List Nat) : EccHit := EccHit.worst ((as.filter t.readsMemory).map (s.byteHit t))

/-- Whether a byte that t reads comes from an element whose parity error an event record reports: its value is undefined. -/
def State.parityByte (s : State) (t : Tile) (a : Nat) : Bool :=
  t.readsMemory a &&
  match s.byteHit t a with
  | .event _ => true
  | _ => false

/-- Whether one held store supplies the whole word of a byte, so that it will be correct when a later store merges into it
(R179). -/
def Tile.heldWhole (t : Tile) (a : Nat) : Bool :=
  (t.released ++ t.cq).any fun h =>
    let covers (cells : List Host.Cell) : Bool := (List.range 4).all fun i => (lastCell cells (t.canon (a / 4 * 4 + i)) none).isSome
    match h with
    | .store cells _ => covers cells
    | .tst _ cells _ => covers cells
    | .stf cells _ _ => covers cells
    | .vec _ cells => covers cells
    | _ => false

/-- What the merge of some bytes into their words meets (R179). A merge in the own window is made at issue, before any held store
acts (R188). -/
def State.mergeHit (s : State) (t : Tile) (as : List Nat) : EccHit :=
  EccHit.worst ((as.filter fun a => !t.heldWhole a || (t.ownOff a).isSome).map (s.byteHit t))

/-- Whether an entry is a vector of a binding. -/
def Held.isVecOf (num : Nat) : Held → Bool
  | .vec n _ => decide (n = num)
  | _ => false

/-- Whether an entry is the completion arrival of a binding. -/
def Held.isDoneOf (num : Nat) : Held → Bool
  | .streamDone _ n => decide (n = num)
  | _ => false

/-! ### The order of a tile's writes (R258, R266) -/

def Held.isPhase : Held → Bool
  | .phaseRel _ => true
  | _ => false

/-- The bytes that an entry of the queue writes, by canonical address. -/
def Held.bytes (t : Tile) : Held → List Nat
  | .store cells _ => cells.map fun c => c.1
  | .tst _ cells _ => cells.map fun c => c.1
  | .vec _ cells => cells.map fun c => c.1
  | .atomic _ a _ _ => (List.range 4).map fun i => t.canon (a + i)
  | .stf cells flag _ => (cells.map fun c => c.1) ++ (List.range 4).map fun i => t.canon (flag + i)
  | .barv _ a _ _ => (List.range 16).map fun i => t.canon (a + i)
  | .bartx _ a _ _ => (List.range 16).map fun i => t.canon (a + i)
  | .cadd _ a _ => (List.range 8).map fun i => t.canon (a + i)
  | .streamDone bar _ => (List.range 16).map fun i => t.canon (bar + i)
  | _ => []

/-- Whether a write waits behind an earlier entry that is still to act: a `phase.rel` (R258), or an entry that writes some
byte of it, since the writes to a word keep the writer's order (R266). -/
def Held.behind (t : Tile) (h k : Held) : Bool := k.isPhase || (k.bytes t).any fun a => (h.bytes t).contains a

/-! ### Delivering results (R49 to R53) -/

/-- An element no longer awaits this result: a later write to it stands (R50). -/
def Pending.kill (ds : List Dst) (p : Pending) : Pending :=
  { p with dsts := p.dsts.filter fun d => !ds.contains d.1 }

def LoadDst.kill (ds : List Dst) : LoadDst → LoadDst
  | .sreg r => if ds.contains (.sreg r) then .none else .sreg r
  | .lat els => .lat (els.map fun i => if ds.contains (.lat i) then 256 else i)
  | d => d

/-- A queued `fgrp` whose destination register a later operation writes delivers no count (R50). -/
def XOp.kill (ds : List Dst) : XOp → XOp
  | .fgrp dst y cy m w load => .fgrp (if ds.contains (.sreg dst) then 0 else dst) y cy m w load
  | x => x

/-- Registers among these elements are no longer token registers (R49, R228). -/
def Core.forget (c : Core) (ds : List Dst) : Core :=
  { c with
    tokPend := c.tokPend.filter fun k => !ds.contains (.sreg k.reg)
    tokDone := c.tokDone.filter fun r => !ds.contains (.sreg r) }

/-- Older results for these elements are dropped, a token among them (R49, R50, R228). -/
def Tile.kill (t : Tile) (ds : List Dst) : Tile :=
  { t with
    pend := t.pend.map (Pending.kill ds)
    loads := t.loads.map fun l => { l with dst := l.dst.kill ds }
    mq := t.mq.map (XOp.kill ds)
    core := t.core.forget ds }

def Core.put (c : Core) (d : Dst × Word) : Core :=
  match d.1 with
  | .sreg r => c.setReg r d.2
  | .lat i => { c with lat := c.lat.setIfInBounds i d.2 }

def Core.putAll (c : Core) (ds : List (Dst × Word)) : Core := ds.foldl Core.put c

/-- A lattice element written whole has correct parity again (R148, R179). -/
def Tile.putAll (t : Tile) (ds : List (Dst × Word)) : Tile :=
  { t with
    core := t.core.putAll ds
    latBad := t.latBad.filter fun e => !(ds.any fun d => decide (d.1 = .lat e)) }

/-- Values paired with successive undefined words (R3). -/
def freeWords (n : Nat) : List (Dst × Word) → List (Dst × Word)
  | [] => []
  | (d, _) :: l => (d, Config.freeWord n) :: freeWords (n + 1) l

/-- A result with a latency bound: with a bound of 1 it stands at the end of the cycle; otherwise the elements are
undefined until it lands, at the bound counted from the cycle of issue (R51). -/
def State.deliver (s : State) (bound : Nat) (ws : List (Dst × Word)) (fl : Word) : State :=
  let ws := ws.filter fun d => decide (d.1 ≠ .sreg 0)
  let t := s.tile.kill (ws.map Prod.fst)
  if bound ≤ 1 then { s with tile := (t.putAll ws).orFlags fl, iss := { s.iss with fl := s.iss.fl ||| fl } }
  else
    { s with
      tile := { t.putAll (freeWords s.free ws) with pend := t.pend ++ [⟨ws, fl, s.src.cyc + bound⟩] }
      free := s.free + ws.length }

/-- The i-th result lands: values and flags (R51, R82). -/
def Tile.land (t : Tile) (i : Nat) : Tile :=
  match t.pend[i]? with
  | none => t
  | some p => ({ t with pend := t.pend.eraseIdx i }.putAll p.dsts).orFlags p.flags

/-- Every result on its way lands, in the order of issue. -/
def Tile.landAll (t : Tile) : Tile :=
  t.pend.foldl (fun u p => (u.putAll p.dsts).orFlags p.flags) { t with pend := [] }

/-! ### The commit queue and output streams (R139, R195) -/

def Tile.enqueue (t : Tile) (h : Held) : Tile := { t with cq := t.cq ++ [h] }

/-- A vector enters the queue: ahead of the completion arrival of its stream, which the bundle of the last write has placed there
(R205). -/
def Tile.enqueueVec (t : Tile) (num : Nat) (cells : List Host.Cell) : Tile :=
  { t with cq := t.cq.takeWhile (fun h => !h.isDoneOf num) ++ .vec num cells :: t.cq.dropWhile fun h => !h.isDoneOf num }

/-- The address of vector p of a stream (R198). -/
def Port.addrOf (p : Port) (k : Nat) : Nat :=
  let w (i : Nat) : Word := p.desc.getD i 0
  let dm := (w 0).toNat / 2 % 4
  let ext (i : Nat) : Nat := if i ≤ dm then (w (2 + i)).toNat else 1
  let str (i : Nat) : Int := (w (6 + i)).toInt
  let i0 := k % ext 0
  let i1 := k / ext 0 % ext 1
  let i2 := k / (ext 0 * ext 1) % ext 2
  let i3 := k / (ext 0 * ext 1 * ext 2) % ext 3
  let off : Int := (i0 : Int) * str 0 + (if 1 ≤ dm then (i1 : Int) * str 1 else 0) +
    (if 2 ≤ dm then (i2 : Int) * str 2 else 0) + (if 3 ≤ dm then (i3 : Int) * str 3 else 0)
  lowBits 32 ((w 1).toNat + off)

/-- The oldest vector of an output port lands in the own window or enters the commit queue (R205). -/
def Tile.landVector (t : Tile) (q : Nat) : Tile :=
  let p := t.core.port q
  match p.fifo with
  | [] => t
  | v :: rest =>
    let a := p.addrOf (p.pos - p.fifo.length)
    let t := { t with core := t.core.setPort q { p with fifo := rest } }
    match t.ownOff a with
    | some off => if 0x1A0000 ≤ off then (t.ownWrite off (vecBytes v)).noteExt off 64 else t.ownWrite off (vecBytes v)
    | none => t.enqueueVec p.num (cellsOf a (vecBytes v))

/-- Whether port q has output vectors that have not landed. -/
def Tile.outPending (t : Tile) (q : Nat) : Bool :=
  let p := t.core.port q
  p.bound && p.out && !p.fifo.isEmpty

def landPort : Nat → Tile → Nat → Tile
  | 0, t, _ => t
  | n + 1, t, q => if t.outPending q then landPort n (t.landVector q) q else t

/-- Every output vector lands or enters the commit queue: at most one port holds any (see `pushPort`), so their order is
that of the program. -/
def Tile.landOutputs (t : Tile) : Tile := (List.range 12).foldl (fun u q => landPort 8 u q) t

/-- How many jobs and bindings of streams the tile has issued (R250). -/
def Tile.issuedBefore (t : Tile) : Nat × Nat := (t.jobSq, t.core.bindings)

/-- A store of some cells outside the own window enters the queue. -/
def Tile.hold (t : Tile) (cells : List Host.Cell) : Tile := t.enqueue (.store cells t.issuedBefore)

/-- A write by the tile's program to on-chip memory, own window or not, in program order after the stream vectors written
before it (R188). -/
def Tile.store (t : Tile) (a : Nat) (bs : List Byte) : Tile :=
  let t := t.landOutputs
  match t.ownOff a with
  | some off => t.ownWrite off bs
  | none => t.hold (cellsOf a bs)

/-- The completion barrier of a stream descriptor (R196). -/
def Port.bar (p : Port) : Nat := (p.desc.getD 10 0).toNat

/-- A vector reaches an output port; the one that reaches the total places the completion arrival (R205). Vectors of
other ports that have not landed land before it, so that all land in program order. -/
def Tile.pushVec (t : Tile) (q : Nat) (v : Vec) : Tile :=
  let t := if (t.core.port q).fifo.isEmpty then t.landOutputs else t
  let p := t.core.port q
  let t := { t with core := t.core.setPort q { p with fifo := p.fifo ++ [v], pos := p.pos + 1 } }
  if p.pos + 1 = p.total ∧ p.bar ≠ 0 then t.enqueue (.streamDone p.bar p.num) else t

/-- A load to an output port that a later word of its bundle writes delivers no vector (R49). -/
def LoadDst.killPort (q : Nat) : LoadDst → LoadDst
  | .port p => if p = q then .none else .port p
  | d => d

/-- A port becomes unbound (R201): vectors of it that the commit queue holds are still written when they are released. -/
def Tile.unbindPort (t : Tile) (q : Nat) : Tile :=
  { t with
    core := t.core.setPort q Port.unbound
    loads := t.loads.map fun l => { l with dst := l.dst.killPort q } }

/-- A vector written to an output port at issue: one vector per bundle, the later word's standing (R48, R49). -/
def State.pushPort (s : State) (q : Nat) (v : Vec) : State :=
  if s.laterPort q then s
  else if !(s.tile.core.port q).bound then -- an earlier word of the bundle is the port's `sunbind`: the vector is written all the same
    let t : Tile := { s.tile with core := s.tile.core.setPort q (s.src.core.port q) }
    { s with tile := (t.pushVec q v).landOutputs.unbindPort q }
  else { s with tile := s.tile.pushVec q v }

/-- The input ports that an operation names advance by one vector, once in the bundle (R48); what an earlier word of the bundle
has done to a port by `sunbind` or `sdrain` stands (R201, R202). -/
def State.popPorts (s : State) (vs : List VOp) : State :=
  (vs.filterMap VOp.stream?).foldl (fun s q =>
    let p := s.tile.core.port q
    if p.bound && decide (p.pos = (s.src.core.port q).pos) then
      { s with tile := { s.tile with core := s.tile.core.setPort q { p with fifo := p.fifo.drop 1, pos := p.pos + 1 } } }
    else s) s

/-- A vector result into its destination: 16 lattice elements, or an output port (R147, R151). -/
def State.setV (s : State) (bound : Nat) (d : VOp) (v : Vec) (fl : Word) : State :=
  match d.stream? with
  | some q => (s.deliver bound [] fl).pushPort q v
  | none => s.deliver bound ((List.range 16).map fun i => (.lat (d.index i), lane v i)) fl

/-! ### Tokens (R228) -/

/-- The job in a slot. -/
def Tile.job? (t : Tile) (slot : Nat) : Option Job := t.jobs.find? fun j => decide (j.slot = slot)

/-- A token status lands: an engine's write, in the live state and in the checkpoint's image. -/
def Core.landToken (c : Core) (job : Nat) (reg : Reg) (status : Word) : Core :=
  if c.tokPend.any fun k => decide (k.job = job) then
    let c := { c with tokPend := c.tokPend.filter fun k => decide (k.job ≠ job) }
    if reg = 0 then c else { c.setReg reg status with tokDone := reg :: c.tokDone.filter fun r => decide (r ≠ reg) }
  else c

def Tile.landToken (t : Tile) (job : Nat) (reg : Reg) (status : Word) : Tile :=
  { t with core := t.core.landToken job reg status, ck := t.ck.landToken job reg status }

end Sys2Proof.Machine
end

