-- ==== Sys2Proof/Machine/Xlate.lean ====
section
/-! DEFINITION. Address translation (R213, R236 to R243): page-table entries, the walk, translation lookaside buffers, and
byte access at the location a leaf names (R241). -/

namespace Sys2Proof.Machine

/-! ### Page-table entries (R238, R239) -/

/-- The count of trailing ones of n, at most `fuel`. -/
def trailingOnes : Nat → Nat → Nat
  | 0, _ => 0
  | fuel + 1, n => if n % 2 = 1 then 1 + trailingOnes fuel (n / 2) else 0

/-- A decoded page-table entry. -/
inductive Pte where
  | invalid
  | table (base : Nat)
  | leaf (e : TlbEntry)
deriving DecidableEq, Repr

/-- An entry found at a level of the table (R238, R239). -/
def decodePte (pasid va level x : Nat) : Pte :=
  let pfn := x / 2 ^ 12 % 2 ^ 40
  let t := trailingOnes 40 pfn
  if x % 2 = 0 ∨ x / 2 ^ 7 % 32 ≠ 0 ∨ 20 < t then .invalid
  else if x / 2 % 2 = 0 then
    if level = 0 ∨ t ≠ 0 then .invalid else .table (pfn * 2 ^ 11)
  else if 2 < level ∨ t / 9 ≠ level then .invalid
  else
    .leaf
      { pasid := pasid
        va := va / 2 ^ (12 + t) * 2 ^ (12 + t)
        t := t
        base := (pfn + 1 - 2 ^ t) * 2 ^ 11
        cls := x / 4 % 4
        dev := x / 2 ^ 52
        rd := x / 16 % 2 = 1
        w := x / 32 % 2 = 1
        cnt := x / 64 % 2 = 1 }

/-- The bytes of LPDDR 5X (R9, R16). -/
def lpddrBytes : Nat := 768 * 2 ^ 30

/-- The walk from a table at a level down (R237); none at an invalid entry, or where no LPDDR 5X holds the table. -/
def walkGo (mem : Mem) (pasid va : Nat) : Nat → Nat → Option TlbEntry
  | level, table =>
    if lpddrBytes < table + 4096 then none
    else match decodePte pasid va level (mem.readNat (table + 8 * (va / 2 ^ (12 + 9 * level) % 512)) 8) with
    | .invalid => none
    | .leaf e => some e
    | .table b =>
      match level with
      | 0 => none
      | l + 1 => walkGo mem pasid va l b

/-- Whether the walk from a table at a level down reads an entry in an uncorrectable word of LPDDR 5X (R428). -/
def walkBadGo (mem : Mem) (pasid va : Nat) : Nat → Nat → Bool
  | level, table =>
    if lpddrBytes < table + 4096 then false
    else
      let a := table + 8 * (va / 2 ^ (12 + 9 * level) % 512)
      (mem.badWord a 8).isSome ||
        match decodePte pasid va level (mem.readNat a 8), level with
        | .table b, l + 1 => walkBadGo mem pasid va l b
        | _, _ => false

/-- The root of a PASID's page table (R237). -/
def State.ptroot (s : State) (pasid : Nat) : Option Nat :=
  (s.dev.ctxs.find? fun c => decide (c.pasid = pasid) && decide (c.state ≠ .dead)).map (·.ptroot)

/-- Virtual address 0 of the on-chip aperture (R213). -/
def apertureBase : Nat := 0x01FFFFFF00000000

/-- The leaf through which Mynyx maps the on-chip domain of every context: 4 GiB of class 3 (R213). -/
def apertureLeaf (pasid : Nat) : TlbEntry where
  pasid := pasid
  va := apertureBase
  t := 20
  base := 0
  cls := 3
  dev := 0
  rd := true
  w := true
  cnt := false

/-- The five-level walk of a virtual address; none at an invalid entry (R237, R239). -/
def State.walk (s : State) (pasid va : Nat) : Option TlbEntry :=
  (s.ptroot pasid).bind fun r =>
    if apertureBase ≤ va ∧ va < apertureBase + 2 ^ 32 then some (apertureLeaf pasid) else walkGo s.dev.lpddr pasid va 4 r

/-- Whether the walk of a virtual address reads an entry that cannot be corrected (R428). -/
def State.walkBad (s : State) (pasid va : Nat) : Bool :=
  ((s.ptroot pasid).map fun r =>
    !(decide (apertureBase ≤ va) && decide (va < apertureBase + 2 ^ 32)) && walkBadGo s.dev.lpddr pasid va 4 r).getD false

def TlbEntry.covers (e : TlbEntry) (pasid va : Nat) : Bool :=
  decide (e.pasid = pasid) && decide (e.va ≤ va) && decide (va < e.va + 2 ^ (12 + e.t))

/-- The leaf that serves an address: from the lists of held entries first, then by a walk (R236, R243). -/
def State.lookup (s : State) (held : List TlbEntry) (pasid va : Nat) : Option TlbEntry :=
  match held.find? (·.covers pasid va) with
  | some e => some e
  | none => s.walk pasid va

/-- A TLB keeps its newest entries. -/
def installTlb (cap : Nat) (l : List TlbEntry) (e : TlbEntry) : List TlbEntry :=
  if l.contains e then l else (e :: l).take cap

/-! ### Locations (R241) -/

/-- Where a translated byte lies: a location class and the address in it. -/
inductive Loc where
  | lpddr (a : Nat)
  | aperture (a : Nat)
  | remote (dev a : Nat)
  | host (a : Nat)
  | chip (a : Nat)
deriving DecidableEq, Repr

/-- The byte of a page at a virtual address (R241): LPDDR addresses from 2^50 up are the scale-out aperture. -/
def TlbEntry.loc (e : TlbEntry) (va : Nat) : Loc :=
  let a := e.base + (va - e.va)
  match e.cls with
  | 0 => if a < 2 ^ 50 then .lpddr a else .aperture a
  | 1 => .remote e.dev a
  | 2 => .host a
  | _ => .chip a

/-- Whether an access that is no copy job's finds memory there: nothing lies in class 0 from 768 GiB to the scale-out aperture,
which serves copy jobs only (R9, R16, R429). -/
def Loc.isMemory : Loc → Bool
  | .lpddr a => decide (a < lpddrBytes)
  | .aperture _ => false
  | _ => true

/-- The number of an on-chip byte whichever of the two ranges of an own window names it; other locations as they are. -/
def Loc.norm (own : Nat) : Loc → Loc
  | .chip a => match placeOf own a with
    | .win l off => .chip (0x40000000 + l * 0x200000 + off)
    | _ => .chip a
  | l => l

/-- Bytes of a remote device, device by device: physical addresses have 51 bits (R239). -/
def remoteAddr (dev a : Nat) : Nat := dev * 2 ^ 52 + a

/-- A byte at a location, for an agent of context ctx whose own window is logical tile `own`. -/
def State.locByte (s : State) (ctx own : Nat) : Loc → Byte
  | .lpddr a => s.dev.lpddr.readByte a
  | .aperture _ => 0
  | .remote d a => s.dev.remote.readByte (remoteAddr d a)
  | .host a => s.dev.hostMem.readByte a
  | .chip a => s.mapByte ctx own a

/-- A run of bytes, inside one page, written at a location. -/
def State.locWrite (s : State) (ctx own : Nat) (l : Loc) (bs : List Byte) : State :=
  match l with
  | .lpddr a => { s with dev := { s.dev with lpddr := s.dev.lpddr.write a bs } }
  | .aperture _ => s
  | .remote d a => { s with dev := { s.dev with remote := s.dev.remote.write (remoteAddr d a) bs } }
  | .host a => { s with dev := { s.dev with hostMem := s.dev.hostMem.write a bs } }
  | .chip a => s.mapWrite ctx own a bs

def Loc.add (l : Loc) (n : Nat) : Loc :=
  match l with
  | .lpddr a => .lpddr (a + n)
  | .aperture a => .aperture (a + n)
  | .remote d a => .remote d (a + n)
  | .host a => .host (a + n)
  | .chip a => .chip (a + n)

/-! ### Accesses by Mynyx for a PASID (R17, R402) -/

/-- Why an access of a command fails: an invalid leaf, or a permission. -/
inductive XErr where
  | invalid
  | denied
deriving DecidableEq, Repr

/-- The location of an address of a command: a host physical address for PASID 0 (R397, R402). -/
def State.cmdLoc (s : State) (pasid va : Nat) (write : Bool) : Except XErr Loc :=
  if pasid = 0 then .ok (.host va)
  else match s.lookup s.dev.xtlb pasid va with
    | none => .error .invalid
    | some e => if (if write then e.w else e.rd) && (e.loc va).isMemory then .ok (e.loc va) else .error .denied

/-- The context of a PASID. -/
def State.ctxOfPasid (s : State) (pasid : Nat) : Nat := ((s.dev.ctxs.find? fun c => decide (c.pasid = pasid)).map (·.num)).getD 0

/-- n bytes of a command's memory, page by page through `cmdLoc`. -/
def State.cmdRead (s : State) (pasid va : Nat) : Nat → Except XErr (List Byte)
  | 0 => .ok []
  | n + 1 =>
    match s.cmdLoc pasid va false with
    | .error e => .error e
    | .ok l => (s.cmdRead pasid (va + 1) n).map fun bs => s.locByte (s.ctxOfPasid pasid) 0 l :: bs

def State.cmdNat (s : State) (pasid va n : Nat) : Except XErr Nat := (s.cmdRead pasid va n).map natOfBytes

/-- Whether one of n bytes of a command's memory lies in an uncorrectable word of LPDDR 5X, or is reached through an entry in one
(R428). -/
def State.cmdBad (s : State) (pasid va n : Nat) : Bool :=
  (List.range n).any fun i =>
    ((s.dev.xtlb.find? (·.covers pasid (va + i))).isNone && s.walkBad pasid (va + i)) ||
      match s.cmdLoc pasid (va + i) false with
      | .ok (.lpddr a) => (s.dev.lpddr.badWord a 1).isSome
      | _ => false

/-- Every byte of a run is writable. -/
def State.cmdCheck (s : State) (pasid va : Nat) (write : Bool) : Nat → Except XErr Unit
  | 0 => .ok ()
  | n + 1 =>
    match s.cmdLoc pasid va write with
    | .error e => .error e
    | .ok _ => s.cmdCheck pasid (va + 1) write n

/-- Bytes written to a command's memory; nothing when the first of them is denied. -/
def State.cmdWrite (s : State) (pasid va : Nat) : List Byte → Except XErr State
  | [] => .ok s
  | b :: bs =>
    match s.cmdLoc pasid va true with
    | .error e => .error e
    | .ok l => (s.locWrite (s.ctxOfPasid pasid) 0 l [b]).cmdWrite pasid (va + 1) bs

/-- A release store of 8 bytes that a command makes; nothing happens where the address is denied. -/
def State.cmdStore8 (s : State) (pasid va v : Nat) : State :=
  match s.cmdWrite pasid va (bytesOfNat 8 v) with
  | .ok s' => s'
  | .error _ => s

end Sys2Proof.Machine
end

