-- ==== Sys2Proof/Machine/Record.lean ====
section
/-! DEFINITION. Event records (R412 to R415). -/

namespace Sys2Proof.Machine

/-- The source with an id: its next SEQ and its count of dropped records. -/
def State.source (s : State) (src : Nat) : Source := (s.dev.sources.find? fun x => decide (x.src = src)).getD ⟨src, 0, 0⟩

def State.setSource (s : State) (x : Source) : State :=
  { s with dev := { s.dev with sources := x :: s.dev.sources.filter fun y => decide (y.src ≠ x.src) } }

/-- The 32 bytes of a record (R412). -/
def Record.bytes (r : Record) : List Byte :=
  bytesOfNat 4 (r.src % 65536 + r.code % 256 * 2 ^ 16 + r.ctx % 64 * 2 ^ 24) ++ bytesOfNat 4 r.sq ++ bytesOfNat 8 r.cyc ++
    (List.range 4).flatMap fun i => bytesOfNat 4 (r.p.getD i 0).toNat

/-- A record written to the ring, unless the ring is full or the write faults (R415). -/
def State.ringWrite (s : State) (r : Record) : Option State :=
  match s.dev.evRing with
  | none => none
  | some (pasid, va, logn) =>
    let h := s.dev.host
    if (h.evtail - h.evhead).toNat = 2 ^ logn then none
    else
      match s.cmdWrite pasid (va + 32 * (h.evtail.toNat % 2 ^ logn)) r.bytes with
      | .error _ => none
      | .ok s' => some { s' with dev := { s'.dev with host := { s'.dev.host with evtail := h.evtail + 1 } } }

/-- A record of a source, once its SEQ is known: to the ring, preceded by the report of a loss, or dropped and counted
(R415). -/
def State.emit (s : State) (r : Record) : State :=
  let x := s.source r.src
  if x.dropped = 0 then
    match s.ringWrite { r with sq := x.sq } with
    | some s' => s'.setSource { x with sq := (x.sq + 1) % 2 ^ 32 }
    | none => s.setSource { x with sq := (x.sq + 1) % 2 ^ 32, dropped := 1 }
  else
    let loss : Record := ⟨r.src, 1, 0x3F, x.sq, r.cyc, [BitVec.ofNat 32 x.dropped, BitVec.ofNat 32 r.src]⟩
    match s.ringWrite loss with
    | none => s.setSource { x with sq := (x.sq + 1) % 2 ^ 32, dropped := x.dropped + 1 }
    | some s1 =>
      match s1.ringWrite { r with sq := (x.sq + 1) % 2 ^ 32 } with
      | some s2 => s2.setSource { x with sq := (x.sq + 2) % 2 ^ 32, dropped := 0 }
      | none => s1.setSource { x with sq := (x.sq + 2) % 2 ^ 32, dropped := 1 }

/-- `event(source, code)` with its payload: before a ring is named, records wait in the early buffer (R7, R415). -/
def State.event (s : State) (src code ctx cyc : Nat) (p : List Word) : State :=
  match s.dev.evRing with
  | some _ => s.emit ⟨src, code, ctx, 0, cyc, p⟩
  | none =>
    let x := s.source src
    if s.dev.early.length < 256 then
      let s := s.setSource { x with sq := (x.sq + 1) % 2 ^ 32 }
      { s with dev := { s.dev with early := s.dev.early ++ [⟨src, code, ctx, x.sq, cyc, p⟩] } }
    else s.setSource { x with sq := (x.sq + 1) % 2 ^ 32, dropped := x.dropped + 1 }

/-- The cycle count of a tile (R117). -/
def State.tileEvent (s : State) (t : Tile) (code : Nat) (p : List Word) : State := s.event t.phys code t.ctx t.cyc p

/-- An event of a source whose cycle count is no part of the state: CYC is undefined. -/
def State.srcEvent (s : State) (src code ctx : Nat) (p : List Word) : State :=
  let lo := s.fresh
  let hi := lo.2.fresh
  hi.2.event src code ctx (lo.1.toNat + hi.1.toNat * 2 ^ 32) p

/-- An event of firmware, source class 6 (R413). -/
def State.fwEvent (s : State) (code ctx : Nat) (p : List Word) : State := s.srcEvent 0x6000 code ctx p

def nat32 (n : Nat) : Word := BitVec.ofNat 32 n

end Sys2Proof.Machine
end

