-- ==== Sys2Proof/Machine/Link.lean ====
section
/-! DEFINITION. The Lelum ports as senders (R333 to R340, R342, R343): flits and their CRC, the commands that flits carry, pairs
and their queues, wavelengths, and what a port transmits in a rotor slot. -/

namespace Sys2Proof

/-! ### Flits (R338, R339) -/

def Flit.dst (f : Flit) : Nat := f.header.toNat / 2 ^ 52
def Flit.src (f : Flit) : Nat := f.header.toNat / 2 ^ 40 % 2 ^ 12
def Flit.sq (f : Flit) : Nat := f.header.toNat / 2 ^ 16 % 2 ^ 24
def Flit.type (f : Flit) : Nat := f.header.toNat / 2 ^ 12 % 2 ^ 4
def Flit.hop (f : Flit) : Nat := f.header.toNat / 2 ^ 10 % 2 ^ 2
def Flit.first (f : Flit) : Nat := f.header.toNat / 2 ^ 5 % 2 ^ 5
def Flit.nw (f : Flit) : Nat := f.header.toNat % 2 ^ 5

/-- A header from its fields. -/
def flitHeader (dst src sq type hop first nw : Nat) : BitVec 64 :=
  BitVec.ofNat 64 (dst % 2 ^ 12 * 2 ^ 52 + src % 2 ^ 12 * 2 ^ 40 + sq % 2 ^ 24 * 2 ^ 16 + type % 2 ^ 4 * 2 ^ 12 +
    hop % 2 ^ 2 * 2 ^ 10 + first % 2 ^ 5 * 2 ^ 5 + nw % 2 ^ 5)

/-- One bit of CRC-64, the highest bit first. -/
def crc64Bit (c : Nat) : Nat := if c / 2 ^ 63 % 2 = 1 then (2 * c % 2 ^ 64) ^^^ 0x42F0E1EBA9EA3693 else 2 * c

def crc64Byte (c : Nat) (b : Byte) : Nat :=
  crc64Bit (crc64Bit (crc64Bit (crc64Bit (crc64Bit (crc64Bit (crc64Bit (crc64Bit (c ^^^ b.toNat * 2 ^ 56))))))))

/-- CRC-64 with the polynomial of ECMA-182, initial value all ones, final complement (R339). -/
def crc64 (bs : List Byte) : BitVec 64 := BitVec.ofNat 64 (bs.foldl crc64Byte (2 ^ 64 - 1) ^^^ (2 ^ 64 - 1))

/-- The CRC over the header and the payload. -/
def flitCrc (header : BitVec 64) (payload : List Byte) : BitVec 64 := crc64 (Machine.bytesOfNat 8 header.toNat ++ payload)

/-- A flit with its CRC. -/
def mkFlit (header : BitVec 64) (payload : List Byte) : Flit := ⟨header, payload, flitCrc header payload⟩

/-- Whether the CRC of a flit as received matches (R339). -/
def Flit.crcOk (f : Flit) : Bool := decide (f.crc = flitCrc f.header f.payload)

/-- The flit after one hop more, its CRC formed anew. -/
def Flit.hopped (f : Flit) : Flit :=
  mkFlit (flitHeader f.dst f.src f.sq f.type (f.hop + 1) f.first f.nw) f.payload

/-- The 144 bytes of a flit, header first (R338). -/
def Flit.bytes (f : Flit) : List Byte :=
  Machine.bytesOfNat 8 f.header.toNat ++ f.payload ++ Machine.bytesOfNat 8 f.crc.toNat

/-- Fields of a command payload (R340). -/
def Flit.word (f : Flit) (off : Nat) : Nat := Machine.natOfBytes ((f.payload.drop off).take 4)
def Flit.dword (f : Flit) (off : Nat) : Nat := Machine.natOfBytes ((f.payload.drop off).take 8)
def Flit.op (f : Flit) : Nat := f.word 0 % 16
def Flit.ndata (f : Flit) : Nat := f.word 0 / 2 ^ 16
def Flit.pasid (f : Flit) : Nat := f.word 4 % 2 ^ 20

end Sys2Proof

namespace Sys2Proof.Machine

/-! ### Commands (R340) -/

/-- What a flit is before its pair numbers it: type, FIRST, NW and payload. -/
structure FlitBody where
  type : Nat
  first : Nat
  nw : Nat
  payload : List Byte
deriving DecidableEq, Repr

/-- The fields of a command. -/
structure Command where
  op : Nat
  fmt : Nat
  ndata : Nat
  pasid : Nat
  va : Nat
  len : Nat
  opa : Nat
  opb : Nat
  tag : Nat
  flag : Nat
deriving DecidableEq, Repr

def Command.body (c : Command) : FlitBody where
  type := 0
  first := 0
  nw := 0
  payload := bytesOfNat 4 (c.op % 16 + c.fmt % 256 * 2 ^ 8 + c.ndata * 2 ^ 16) ++ bytesOfNat 4 c.pasid ++ bytesOfNat 8 c.va ++
    bytesOfNat 4 c.len ++ bytesOfNat 4 c.opa ++ bytesOfNat 4 c.opb ++ bytesOfNat 4 c.tag ++ bytesOfNat 8 c.flag ++
    List.replicate 88 0

/-- The 128-byte aligned units that n bytes at va touch. -/
def unitCount (va n : Nat) : Nat := if n = 0 then 0 else (va + n - 1) / 128 - va / 128 + 1

/-- The data flits of a run of bytes at va: one for each unit, its valid words those that the run touches. -/
def dataBodies (va : Nat) (bs : List Byte) : List FlitBody :=
  (List.range (unitCount va bs.length)).map fun k =>
    let u := (va / 128 + k) * 128
    let lo := max va u
    let hi := min (va + bs.length) (u + 128)
    let first := (lo - u) / 4
    ⟨1, first, (hi - 1 - u) / 4 - first, (List.range 128).map fun i =>
      if lo ≤ u + i ∧ u + i < hi then bs.getD (u + i - va) 0 else 0⟩

/-- A run cut so that no part touches more than 64 units, which is at most 8 KiB. -/
def cutRun : Nat → Nat × List Byte → List (Nat × List Byte)
  | 0, r => [r]
  | fuel + 1, r =>
    let n := (r.1 / 128 + 64) * 128 - r.1
    if r.2.length ≤ n then [r] else (r.1, r.2.take n) :: cutRun fuel (r.1 + n, r.2.drop n)

/-- A command with the data flits of its run. -/
def withData (c : Command) (va : Nat) (bs : List Byte) : List FlitBody :=
  { c with ndata := unitCount va bs.length, va := va, len := bs.length }.body :: dataBodies va bs

/-- The commands, each with its data, that carry runs of bytes. -/
def dataCommands (c : Command) (runs : List (Nat × List Byte)) : List FlitBody :=
  runs.flatMap fun r => (cutRun r.2.length r).flatMap fun x => withData c x.1 x.2

/-- The read requests for runs of bytes. -/
def readCommands (c : Command) (runs : List (Nat × List Byte)) : List FlitBody :=
  runs.flatMap fun r => (cutRun r.2.length r).map fun x => { c with va := x.1, len := x.2.length }.body

/-! ### Ports (R333 to R335, R345) -/

/-- An input supplies its wavelengths until it is lost and after it is restored. -/
def Laser.active : Laser → Bool
  | .lit => true
  | .fading => true
  | .dark => false
  | .waking => false

/-- The inputs lit, one bit each. -/
def LPort.lit (p : LPort) : Nat :=
  (List.range 4).foldl (fun a i => if (p.inputs.getD i .dark).active then a + 2 ^ i else a) 0

/-- The active wavelengths in ascending order: input j supplies 4j to 4j + 3 (R333, R334). -/
def LPort.waves (p : LPort) : List Nat :=
  (List.range 4).flatMap fun j => if (p.inputs.getD j .dark).active then (List.range 4).map (4 * j + ·) else []

/-- A Lelum port; one that no list holds has all four inputs lit (R333, R345). -/
def State.lport (s : State) (num : Nat) : LPort :=
  (s.dev.lports.find? fun p => decide (p.num = num)).getD ⟨num, Vector.replicate 4 Laser.lit, 0, 0, false⟩

def State.setLport (s : State) (p : LPort) : State :=
  { s with dev := { s.dev with lports := p :: s.dev.lports.filter fun q => decide (q.num ≠ p.num) } }

/-- The device and port that each port is joined to in the current slot. -/
def State.joined (s : State) : List (Option (Nat × Nat)) := (s.dev.rotor.bind fun r => r[s.dev.rotorSlot]?).getD []

def State.joinedTo (s : State) (port : Nat) : Option (Nat × Nat) := (s.joined[port]?).join

/-- A port transmits a flit on the wavelength that its stripe counter gives, and counts it (R334). -/
def State.transmit (s : State) (port : Nat) (f : Flit) : State :=
  match s.joinedTo port with
  | none => s
  | some (peer, pp) =>
    let l := s.lport port
    let w := l.waves.getD (l.stripe % l.waves.length) 0
    let s := s.setLport { l with stripe := l.stripe + 1 }
    { s with dev := { s.dev with sent := s.dev.sent ++ [⟨port, w, peer, pp, f⟩] } }

/-- Whether a port can send a flit for a device now: it is joined to that device, or to another that firmware chooses as the
first hop (R336, R337). -/
def State.carries (s : State) (port dst : Nat) : Bool :=
  decide ((s.lport port).lit ≠ 0) &&
  match s.joinedTo port with
  | none => false
  | some (peer, _) => decide (peer = dst) || Config.firstHop s.dev.slots port dst

/-! ### Pairs (R337, R341, R343) -/

/-- The port assigned to a pair before its first flit: one that has never been down (R337, R346). -/
def State.firstPort (s : State) (dev : Nat) : Nat :=
  ((List.range 128).map fun i => (dev + i) % 128).find? (fun k => !(s.lport k).down) |>.getD (dev % 128)

/-- The pair with a device (R337, R341). -/
def State.pair (s : State) (dev : Nat) : Pair :=
  (s.dev.pairs.find? fun p => decide (p.dev = dev)).getD
    ⟨dev, s.firstPort dev, 0, [], [], [], 0, [], false, 0, false, none⟩

def State.setPair (s : State) (p : Pair) : State :=
  { s with dev := { s.dev with pairs := p :: s.dev.pairs.filter fun q => decide (q.dev ≠ p.dev) } }

/-- Flits that the replay buffer of a port holds (R343). -/
def State.buffered (s : State) (port : Nat) : Nat :=
  s.dev.pairs.foldl (fun a p => if p.port = port then a + p.unacked.length else a) 0

def replayCap : Nat := 4096

/-- A pair sends what it can: first the flits to be sent again, then new ones while the replay buffer has room (R343). -/
def pumpGo (dev : Nat) : Nat → State → State
  | 0, s => s
  | n + 1, s =>
    let p := s.pair dev
    if p.unreachable || !s.carries p.port dev then s
    else match p.resend, p.unsent with
      | f :: l, _ => pumpGo dev n ((s.transmit p.port f).setPair { p with resend := l })
      | [], f :: l =>
        if s.buffered p.port < replayCap then
          pumpGo dev n ((s.transmit p.port f).setPair { p with unsent := l, unacked := p.unacked ++ [f] })
        else s
      | [], [] => s

def State.pump (s : State) (dev : Nat) : State :=
  pumpGo dev ((s.pair dev).resend.length + (s.pair dev).unsent.length) s

/-- The pairs assigned to a port. -/
def State.pairsOn (s : State) (port : Nat) : List Nat := (s.dev.pairs.filter fun p => decide (p.port = port)).map (·.dev)

/-- Every pair of a port sends what it can. -/
def State.pumpPort (s : State) (port : Nat) : State := (s.pairsOn port).foldl State.pump s

/-- Flits of a pair with consecutive sequence numbers from n on (R341). -/
def numbered (dst src : Nat) : Nat → List FlitBody → List Flit
  | _, [] => []
  | n, b :: l =>
    mkFlit (flitHeader dst src (n % 2 ^ 24) b.type 0 b.first b.nw) b.payload :: numbered dst src ((n + 1) % 2 ^ 24) l

/-- Flits enter a pair's sequence and leave when the port can send them (R341, R343). -/
def State.sendFlits (s : State) (dev : Nat) (l : List FlitBody) : State :=
  let p := s.pair dev
  (s.setPair { p with
    next := (p.next + l.length) % 2 ^ 24
    unsent := p.unsent ++ numbered dev s.dev.devid.toNat p.next l }).pump dev

/-- What awaits the acknowledgement of some flits of a pair: the device and the number of the last of them. -/
def State.lastAck (s : State) (dev : Nat) (l : List FlitBody) : List (Nat × Nat) :=
  if l.isEmpty then [] else [(dev, ((s.pair dev).next + l.length + 2 ^ 24 - 1) % 2 ^ 24)]

/-- Whether an awaited acknowledgement is still to come. -/
def State.ackWaits (s : State) (l : List (Nat × Nat)) : Bool :=
  l.any fun a => ((s.pair a.1).unacked ++ (s.pair a.1).unsent).any fun f => decide (f.sq = a.2)

/-- Sequence numbers before `num` are covered (R342). -/
def covers24 (num sq : Nat) : Bool := decide (2 ^ 23 ≤ (sq + 2 ^ 24 - num % 2 ^ 24) % 2 ^ 24)

/-- An acknowledgement of a device: the flits it covers leave the replay buffer, and its room serves new ones. -/
def State.takeAck (s : State) (dev num : Nat) : State :=
  let p := s.pair dev
  if p.unacked.any fun f => covers24 num f.sq then
    (s.setPair { p with
      unacked := p.unacked.filter fun f => !covers24 num f.sq
      resend := p.resend.filter fun f => !covers24 num f.sq }).pumpPort p.port
  else s

/-- What answers the commands among some flits to a device: the device and the first address of each (R340). -/
def answersOf (dev : Nat) (l : List FlitBody) : List (Nat × Nat) :=
  l.filterMap fun b => if b.type = 0 then some (dev, natOfBytes ((b.payload.drop 8).take 8)) else none

/-- The acknowledgement flit of a pair: the expected number in word 0 (R342). -/
def State.ackFlit (s : State) (dev : Nat) : Flit :=
  mkFlit (flitHeader dev s.dev.devid.toNat 0 2 0 0 0) (bytesOfNat 4 ((s.pair dev).expected % 2 ^ 24) ++ List.replicate 124 0)

/-- Whether the loaded rotor schedule names a device (R344, R430). -/
def State.named (s : State) (dev : Nat) : Bool :=
  match s.dev.rotor with
  | none => false
  | some slots => slots.any fun ports => ports.any fun x => decide (x.map Prod.fst = some dev)

/-- Whether a device can be reached over Lelum: the loaded rotor schedule names it, and its pair has not been declared
unreachable (R344). -/
def State.reachable (s : State) (dev : Nat) : Bool :=
  s.named dev && !(s.dev.pairs.any fun p => decide (p.dev = dev) && p.unreachable)

/-- An event of a Lelum port: CYC is its own count of cycles, 2,000 to a slot of 2 µs (R335, R347). -/
def State.portEvent (s : State) (port code : Nat) (p : List Word) : State :=
  let s1 := { s with free := s.free + 1 }
  s1.event (0x1000 + port) code 0x3F (Config.portBase port + 2000 * s.dev.slots + (Config.freeWord s.free).toNat % 2000) p

end Sys2Proof.Machine
end

