-- ==== Sys2Proof/Machine/CtrlRegs.lean ====
section
/-! DEFINITION. The control registers (R113 to R117, R349, R366, R379, R380): what each number reads and what a write changes.
Every access, by instruction or through the control region of the window, goes through these two operations. -/

namespace Sys2Proof.Machine

/-- The task registers of R114. -/
def taskCr (n : Nat) : Bool :=
  decide (n ≤ 6) || (decide (8 ≤ n) && decide (n ≤ 0x13))

/-- The supervisor registers of R379, R349 and R366. -/
def supCr (n : Nat) : Bool :=
  [0x100, 0x101, 0x102, 0x104, 0x105, 0x106, 0x107, 0x110, 0x111, 0x112, 0x113, 0x114, 0x140, 0x141, 0x142, 0x148, 0x150,
    0x151, 0x152, 0x153, 0x158, 0x159, 0x15A].contains n

/-- The registers that `wrcr` may write: Access RW. -/
def rwCr (n : Nat) : Bool :=
  [1, 2, 3, 6, 0x100, 0x101, 0x102, 0x104, 0x105, 0x106, 0x107, 0x113, 0x140, 0x141, 0x142, 0x148].contains n

/-- The traps of R115 and R379 for a number, whatever the guard. -/
def crCause (sup write : Bool) (num : Word) : Option Cause :=
  let n := num.toNat
  firstCause [
    (sup || decide (n < 0x100) || decide (0x400 ≤ n), .privilege),
    (taskCr n || supCr n, .illegalOperand),
    (!write || rwCr n, .illegalOperand)]

/-- The device feature mask (R124). -/
def deviceMask : Word := 0x7F

/-- cr.preds: p0 reads true, [31:8] zero (R114, R116). -/
def Core.predsWord (c : Core) : Word := (c.p ||| 1).setWidth 32

/-- A control register as a tile reads it at the issue of a bundle with first packet `pc`; reserved bits zero (R5). -/
def State.readCr (s : State) (t : Tile) (pc : BitVec 20) (n : Nat) : Word :=
  let c := t.core
  let k := t.task
  match n with
  | 0x000 => pc.setWidth 32
  | 0x001 => c.flags
  | 0x002 => c.fpctl
  | 0x003 => c.predsWord
  | 0x004 => nat32 t.cyc
  | 0x005 => t.cych
  | 0x006 => c.lwlim
  | 0x008 => k.wid.setWidth 32
  | 0x009 => (k.wid >>> 32).setWidth 32
  | 0x00A => k.wf[0]
  | 0x00B => k.wf[1]
  | 0x00C => k.wf[2]
  | 0x00D => k.wf[3]
  | 0x00E => k.wf[4]
  | 0x00F => k.wf[5]
  | 0x010 => nat32 t.ltile
  | 0x011 => nat32 t.ntile
  | 0x012 => nat32 k.rank
  | 0x013 => nat32 k.rlen
  | 0x100 => c.epc.setWidth 32
  | 0x101 => c.ecause
  | 0x102 => c.einfo
  | 0x104 => c.ss[0]
  | 0x105 => c.ss[1]
  | 0x106 => c.ss[2]
  | 0x107 => c.ss[3]
  | 0x110 => t.tvec.setWidth 32
  | 0x111 => t.ctxn.setWidth 32
  | 0x112 => t.pasid.setWidth 32
  | 0x113 => c.ntmask
  | 0x114 => if c.sup then 1 else 0
  | 0x140 => s.dev.xrun
  | 0x141 => s.dev.xcont
  | 0x142 => s.dev.xacc
  | 0x148 => s.dev.lbud
  | 0x150 => s.dev.votes
  | 0x151 => s.dev.vdis
  | 0x152 => s.dev.vres
  | 0x153 => s.dev.vstop
  | 0x158 => s.dev.devid.setWidth 32
  | 0x159 => deviceMask
  | _ => 0

/-- A write of a task or per-tile register; reserved bits are ignored (R5), as is a register that is read-only. -/
def Core.writeCr (c : Core) (n : Nat) (v : Word) : Core :=
  match n with
  | 0x001 => { c with flags := v &&& flagsMask }
  | 0x002 => { c with fpctl := v &&& 0xF }
  | 0x003 => { c with p := v.setWidth 8 ||| 1 }
  | 0x006 => { c with lwlim := v }
  | 0x100 => { c with epc := v.setWidth 20 }
  | 0x101 => { c with ecause := v }
  | 0x102 => { c with einfo := v }
  | 0x104 => { c with ss := c.ss.set 0 v }
  | 0x105 => { c with ss := c.ss.set 1 v }
  | 0x106 => { c with ss := c.ss.set 2 v }
  | 0x107 => { c with ss := c.ss.set 3 v }
  | 0x113 => { c with ntmask := v &&& 3 }
  | _ => c

/-- A write of a per-device register (R380). -/
def Device.writeCr (d : Device) (n : Nat) (v : Word) : Device :=
  match n with
  | 0x140 => { d with xrun := v &&& 0xFFFF }
  | 0x141 => { d with xcont := v &&& 0xFFFF }
  | 0x142 => { d with xacc := v }
  | 0x148 => { d with lbud := v &&& 0xFFFF }
  | _ => d

/-- A control register written by the focused tile. -/
def State.writeCr (s : State) (n : Nat) (v : Word) : State :=
  { s with tile := { s.tile with core := s.tile.core.writeCr n v }, dev := s.dev.writeCr n v }

/-- Whether the bundle reads cr.cyc, so that cr.cych holds the high half of the same count (R117). -/
def State.readsCyc (s : State) : Bool :=
  s.iss.ops.any fun w => match decodeWord w with
    | .ok (.rdcr o) => s.guard o.g && decide (s.bval o.b = 4)
    | _ => false

end Sys2Proof.Machine
end

