-- ==== Sys2Proof/Machine/Window.lean ====
section
/-! DEFINITION. The control and engine state region of the own window, as supervisor accesses reach it (R381), and the
status words it shares with `sstat` (R203). -/

namespace Sys2Proof.Machine

/-! ### Stream status (R203) -/

/-- Whether a vector of output port q is still in the commit queue or behind it. -/
def Tile.vectorHeld (t : Tile) (q : Nat) : Bool := (t.released ++ t.cq).any (Held.isVecOf (t.core.port q).num)

/-- DONE of port q, bound. -/
def Tile.portDone (t : Tile) (q : Nat) : Bool :=
  let p := t.core.port q
  decide (p.pos = p.total) &&
    (!p.out || if p.bar ≠ 0 then p.done else p.fifo.isEmpty && !t.vectorHeld q)

/-- The status word of port q (R203). -/
def Tile.portStatus (t : Tile) (q : Nat) : Word :=
  let p := t.core.port q
  if p.bound then
    nat32 (1 + (if p.out then 2 else 0) + (if p.pos = p.total then 4 else 0) + (if t.portDone q then 8 else 0) +
      2 ^ 8 * p.fifo.length)
  else 0

/-! ### Layout (R381) -/

/-- Offset of the control region in a window. -/
def ctlBase : Nat := 0x1F0000

/-- Whether the region has something at offset o from its base. -/
def ctlListed (o : Nat) : Bool :=
  if o < 0x1000 then taskCr (o / 4) || supCr (o / 4)
  else (decide (o < 0x1600)) || (decide (0x2000 ≤ o) && decide (o < 0x2004)) ||
    (decide (0x2400 ≤ o) && decide (o < 0x2C00)) || (decide (0x3000 ≤ o) && decide (o < 0x302C)) ||
    (decide (0x4000 ≤ o) && decide (o < 0xC100)) || (decide (0xD000 ≤ o) && decide (o < 0xD600))

/-- Whether it can be written. -/
def ctlWritable (o : Nat) : Bool :=
  if o < 0x1000 then rwCr (o / 4) else ctlListed o && decide (0x2000 ≤ o) && decide (o < 0xC000)

def SlotState.number : SlotState → Nat
  | .held => 1
  | .waiting => 2
  | .running => 3
  | .parked => 4
  | .done => 5

/-- Word 0 of a copy slot. -/
def Tile.slotWord (t : Tile) (j : Nat) : Word :=
  match t.job? j with
  | none => (Config.slotCode 0).setWidth 32
  | some x => (Config.slotCode x.state.number).setWidth 32 + nat32 (x.tok.getD 0).toNat * 2 ^ 8 + nat32 (x.status % 16) * 2 ^ 16

/-- The words of a stream port. -/
def Tile.portWord (t : Tile) (q i : Nat) : Word :=
  let p := t.core.port q
  if i < 16 then (if p.bound then p.desc.getD i 0 else 0)
  else if i = 16 then nat32 p.pos
  else if i = 17 then nat32 p.total
  else if i = 18 then t.portStatus q
  else 0

/-- The words of a pin set entry. -/
def Core.pinWord (c : Core) (e i : Nat) : Word :=
  match c.pins[e]? with
  | none => 0
  | some p =>
    if i = 0 then nat32 (p.obj % 256 + p.layer % 1024 * 2 ^ 8 + p.depth % 256 * 2 ^ 24) else if i = 1 then 1 else 0

/-- The Flint words at an offset from 0x2000. -/
def Flint.word (f : Flint) (o : Nat) : Word :=
  if o < 4 then f.fst
  else if 0x400 ≤ o ∧ o < 0x800 then f.sg.getD ((o - 0x400) / 4) 0
  else if 0x800 ≤ o ∧ o < 0x900 then
    nat32 (natOfBytes ((List.range 4).map fun i => f.map.getD ((o - 0x800) / 4 * 4 + i) 0))
  else if 0x900 ≤ o ∧ o < 0xA00 then
    nat32 (natOfBytes ((List.range 4).map fun i => f.lead.getD ((o - 0x900) / 4 * 4 + i) 0))
  else if 0xA00 ≤ o ∧ o < 0xC00 then
    let i := (o - 0xA00) / 4 * 2
    nat32 ((f.cnt.getD i 0).toNat + (f.cnt.getD (i + 1) 0).toNat * 2 ^ 16)
  else 0

/-- The bits of FST that are not reserved: all but bit 9 (R295, R5). -/
def fstMask : Word := 0xFFFFFDFF

/-- A Flint word written. -/
def Flint.setWord (f : Flint) (o : Nat) (w : Word) : Flint :=
  if o < 4 then { f with fst := w &&& fstMask }
  else if 0x400 ≤ o ∧ o < 0x800 then { f with sg := f.sg.setIfInBounds ((o - 0x400) / 4) w }
  else if 0x800 ≤ o ∧ o < 0x900 then
    { f with map := (List.range 4).foldl (fun v i => v.setIfInBounds ((o - 0x800) / 4 * 4 + i) (wordByte w i)) f.map }
  else if 0x900 ≤ o ∧ o < 0xA00 then
    { f with lead := (List.range 4).foldl (fun v i => v.setIfInBounds ((o - 0x900) / 4 * 4 + i) (wordByte w i)) f.lead }
  else if 0xA00 ≤ o ∧ o < 0xC00 then
    let i := (o - 0xA00) / 4 * 2
    { f with cnt := (f.cnt.setIfInBounds i (w.setWidth 9)).setIfInBounds (i + 1) ((w >>> 16).setWidth 9) }
  else f

/-- The words from 0x3000: configurations and latched state. -/
def Core.cfgWord (c : Core) (i : Nat) : Word :=
  if i < 8 then c.tcfg.getD i 0
  else if i = 8 then c.wbCfg0
  else if i = 9 then c.wbCfg1
  else if i = 10 then (if c.latBuf then 1 else 0) + (if c.latValid then 2 else 0)
  else 0

/-- The bits of a configuration that are not reserved (R270, R5). -/
def cfgMask : Word := 0x01FFFFFF

def Core.setCfgWord (c : Core) (i : Nat) (w : Word) : Core :=
  if i < 8 then { c with tcfg := c.tcfg.setIfInBounds i (w &&& cfgMask) }
  else if i = 8 then { c with wbCfg0 := w &&& cfgMask }
  else if i = 9 then { c with wbCfg1 := w &&& cfgMask }
  else if i = 10 then { c with latBuf := w.getLsbD 0, latValid := w.getLsbD 1 }
  else c

/-- The word at offset o, a multiple of 4, of the region of tile t, whose bundle has first packet `pc`. -/
def State.ctlWord (s : State) (t : Tile) (pc : BitVec 20) (o : Nat) : Word :=
  if o < 0x1000 then s.readCr t pc (o / 4)
  else if o < 0x2000 then t.portWord ((o - 0x1000) / 128) ((o - 0x1000) % 128 / 4)
  else if o < 0x3000 then t.core.flint.word (o - 0x2000)
  else if o < 0x4000 then t.core.cfgWord ((o - 0x3000) / 4)
  else if o < 0x8000 then t.wb0.word (o - 0x4000)
  else if o < 0xC000 then t.wb1.word (o - 0x8000)
  else if o < 0xD000 then t.core.pinWord ((o - 0xC000) / 16) ((o - 0xC000) % 16 / 4)
  else if (o - 0xD000) % 16 = 0 then t.slotWord ((o - 0xD000) / 16)
  else 0

def State.ctlByte (s : State) (t : Tile) (pc : BitVec 20) (o : Nat) : Byte := wordByte (s.ctlWord t pc (o / 4 * 4)) (o % 4)

/-- A word of the region of the focused tile written. -/
def State.setCtlWord (s : State) (o : Nat) (w : Word) : State :=
  let t := s.tile
  if o < 0x1000 then s.writeCr (o / 4) w
  else if o < 0x3000 then { s with tile := { t with core := { t.core with flint := t.core.flint.setWord (o - 0x2000) w } } }
  else if o < 0x4000 then { s with tile := { t with core := t.core.setCfgWord ((o - 0x3000) / 4) w } }
  else if o < 0x8000 then { s with tile := { t with wb0 := t.wb0.writeNat (o - 0x4000) 4 w.toNat } }
  else { s with tile := { t with wb1 := t.wb1.writeNat (o - 0x8000) 4 w.toNat } }

def State.setCtlByte (s : State) (o : Nat) (b : Byte) : State :=
  s.setCtlWord (o / 4 * 4) (setWordByte (s.ctlWord s.tile s.iss.pc (o / 4 * 4)) (o % 4) b)

/-- The Flint elements that lie wholly in [o, o + n) of the region have been written, and have correct parity (R294). -/
def Tile.wroteFlint (t : Tile) (o n : Nat) : Tile :=
  { t with flintBad := t.flintBad.filter fun e => !(decide (o ≤ 0x2000 + e) && decide (0x2000 + e + flintSize e ≤ o + n)) }

/-- Bytes written to the region from offset o on. -/
def State.ctlWrite (s : State) (o : Nat) (bs : List Byte) : State :=
  let s := bs.zipIdx.foldl (fun s x => s.setCtlByte (o + x.2) x.1) s
  { s with tile := s.tile.wroteFlint o bs.length }

/-- The offset in the region of a supervisor's access to its own window (R378). -/
def Tile.ctlOff (t : Tile) (a : Nat) : Option Nat :=
  match t.ownOff a with
  | some off => if t.core.sup && decide (ctlBase ≤ off) then some (off - ctlBase) else none
  | none => none

/-- A byte as the program of tile t sees it, the control region of its own window included in supervisor mode (R188, R378). -/
def State.supByte (s : State) (t : Tile) (pc : BitVec 20) (a : Nat) : Byte :=
  match t.ctlOff a with
  | some o => s.atIssue.ctlByte t pc o
  | none => s.seenByte t a

/-- Step 2 of R178 for a memory-slot access of n bytes, supervisor accesses to the own region included. -/
def State.slotOk (s : State) (t : Tile) (a n : Nat) (write : Bool) : Bool :=
  match t.ctlOff a with
  | some o => (List.range n).all fun i => if write then ctlWritable (o + i) else ctlListed (o + i)
  | none => s.accessOk t t.core.sup a n write

end Sys2Proof.Machine
end

