-- ==== Sys2Proof/Machine/XEng.lean ====
section
/-! DEFINITION. The matrix unit and Flint as engines: tile configurations (R270, R271), the matrix sum rule (R83), and what
each queued X-pipe operation does when it is executed alone, in program order (R273, R297). The meanings that check and
queue the operations stand in Matrix.lean and Flint.lean. -/

namespace Sys2Proof.Machine

/-! ### Data errors (R142) -/

/-- A data error is detected: issue stops; in a rerun the rerun has failed (R142). -/
def Recov.detect (r : Recov) : Recov :=
  match r.phase with
  | .run => { r with phase := .stop }
  | .stop => r
  | _ => { r with err := true, ended := true }

def Tile.dataError (t : Tile) : Tile := { t with recov := t.recov.detect }

/-! ### Configurations (R270, R271) -/

/-- A tile configuration. -/
structure Cfg where
  fmt : Nat
  rows : Nat
  cols : Nat
  sef : Bool
  rsv : Bool
deriving DecidableEq, Repr

def Cfg.ofWord (w : Word) : Cfg where
  fmt := w.toNat % 256
  rows := w.toNat / 256 % 256 + 1
  cols := w.toNat / 65536 % 256 + 1
  sef := w.getLsbD 24
  rsv := decide (w.toNat / 2 ^ 25 ≠ 0)

/-- What COLS is a multiple of, and the row bytes of the two planes (R271); none for an unassigned code. -/
def Cfg.planes (c : Cfg) : Option (Nat × Nat × Nat) :=
  match c.fmt with
  | 0x00 => some (1, 4 * c.cols, 0)
  | 0x07 => some (1, 4 * c.cols, 0)
  | 0x01 => some (2, 2 * c.cols, 0)
  | 0x02 => some (2, 2 * c.cols, 0)
  | 0x06 => some (2, 2 * c.cols, 0)
  | 0x0D => some (2, 2 * c.cols, 0)
  | 0x03 => some (4, c.cols, 0)
  | 0x04 => some (4, c.cols, 0)
  | 0x05 => some (4, c.cols, 0)
  | 0x08 => some (4, c.cols, 0)
  | 0x0C => some (4, c.cols, 0)
  | 0x0B => some (32, c.cols / 8, 0)
  | 0x09 => some (32, c.cols / 2, c.cols / 32)
  | 0x0A => some (8, if c.sef then c.cols else c.cols / 2, c.cols / 8)
  | _ => none

def Cfg.row1 (c : Cfg) : Nat := (c.planes.map fun p => p.2.1).getD 0
def Cfg.row2 (c : Cfg) : Nat := (c.planes.map fun p => p.2.2).getD 0

/-- The tile size in bytes (R271). -/
def Cfg.size (c : Cfg) : Nat := c.rows * (c.row1 + c.row2)

/-- A valid configuration (R271): bits [31:25] are reserved and do not count (R5). -/
def Cfg.valid (c : Cfg) : Bool :=
  match c.planes with
  | none => false
  | some (m, _, _) => decide (c.cols % m = 0) && (!c.sef || decide (c.fmt = 0x0A)) && decide (c.size ≤ 16384)

/-- Offset of tile register n in the window (R176). -/
def tregBase (n : Nat) : Nat := 0x180000 + 0x4000 * n

/-- Offset of word (row, column) of accumulator n (R176). -/
def accOff (n row col : Nat) : Nat := 0x1A0000 + 0x10000 * n + 256 * row + 4 * col

/-! ### Elements of a tile -/

/-- The width in bits of the elements of a format without a second plane (R67). -/
def fmtWidth (fmt : Nat) : Nat :=
  match fmt with
  | 0x0B => 1
  | _ => ((elemFmt fmt).map EFmt.width).getD 8

/-- The bits of element (r, c) of a one-plane tile read through `rd` (R271, R72). -/
def Cfg.elem (c : Cfg) (rd : Nat → Byte) (r k : Nat) : Nat :=
  let w := fmtWidth c.fmt
  if w = 1 then (rd (r * c.row1 + k / 8)).toNat / 2 ^ (k % 8) % 2
  else natOfBytes ((List.range (w / 8)).map fun i => rd (r * c.row1 + k * (w / 8) + i))

def FVal.ofInt (n : Int) : FVal := .fin (n < 0) n.natAbs 0

/-- An exact dyadic number as a value; zero counts as +0 (R83). -/
def FVal.ofDy (d : Dy) : FVal := .fin (d.m < 0) d.m.natAbs d.e

/-- The exact value of element (r, k): block scales included, sparse groups decoded (R74, R76, R83). -/
def Cfg.val (c : Cfg) (rd : Nat → Byte) (r k : Nat) : FVal :=
  match c.fmt with
  | 0x09 =>
    let code := (rd (r * c.row1 + k / 2)).toNat / 16 ^ (k % 2) % 16
    .ofDy (q4Value (rd (c.rows * c.row1 + r * c.row2 + k / 32)).toNat code)
  | 0x0A =>
    let g := k / 4
    let nib := (rd (c.rows * c.row1 + r * c.row2 + g / 2)).toNat / 16 ^ (g % 2) % 16
    let w := if c.sef then 2 else 1
    let el (j : Nat) : Nat := natOfBytes ((List.range w).map fun i => rd (r * c.row1 + (2 * g + j) * w + i))
    (if c.sef then FFmt.bf16 else FFmt.e4m3).decode (s24Decode nib (el 0) (el 1) (k % 4))
  | _ =>
    match elemFmt c.fmt with
    | some (.fl f) => f.decode (c.elem rd r k)
    | some (.int i) => .ofInt (i.val (c.elem rd r k))
    | none => .ofInt (c.elem rd r k)

/-- The integer value of an element of an integer format. -/
def Cfg.int (c : Cfg) (rd : Nat → Byte) (r k : Nat) : Int :=
  match elemFmt c.fmt with
  | some (.int i) => i.val (c.elem rd r k)
  | _ => c.elem rd r k

/-- A byte of tile register n. -/
def Tile.treg (t : Tile) (n b : Nat) : Byte := t.win.readByte (tregBase n + b)

def Tile.acc (t : Tile) (n row col : Nat) : Nat := t.win.readNat (accOff n row col) 4

/-- Accumulator words are restored from the shadow, not from the rollback store (R137, R292). -/
def Tile.setAcc (t : Tile) (n row col v : Nat) : Tile := { t with win := t.win.writeNat (accOff n row col) 4 v }

/-- Bytes of tile register n written by an X-pipe operation (R138). -/
def Tile.setTreg (t : Tile) (n b : Nat) (bs : List Byte) : Tile :=
  let t := t.saveUnits (tregBase n + b) bs.length
  { t with win := t.win.write (tregBase n + b) bs }

/-- An element of a one-plane tile written whole; b1 tiles are never written element by element. -/
def Tile.setElem (t : Tile) (n : Nat) (c : Cfg) (r k v : Nat) : Tile :=
  let w := fmtWidth c.fmt / 8
  t.setTreg n (r * c.row1 + k * w) (bytesOfNat w v)

/-! ### The matrix sum rule (R83) -/

/-- The kind of path a format takes: integer when both operands are integer formats. -/
def intFmt (fmt : Nat) : Bool :=
  match fmt with
  | 0x0B => true
  | _ => match elemFmt fmt with
    | some (.int _) => true
    | _ => false

/-- One product on the float path: its class and, for finite factors, its sign and exact value. -/
def prodBad (w x : FVal) : Bool := (w.isZero && x.isInf) || (w.isInf && x.isZero)

/-- One group of the float path: the rounded sum gs, with the flags of R81. -/
def groupSum (ws xs : List FVal) : FRes :=
  let ps := ws.zip xs
  let nf := flagIf (ps.any fun p => p.1.nonFinite || p.2.nonFinite) fNF
  let snan := ps.any fun p => p.1.isSnan || p.2.isSnan
  let bad := ps.any fun p => prodBad p.1 p.2
  let nan := ps.any fun p => p.1.isNan || p.2.isNan
  let infs := (ps.filter fun p => !p.1.isNan && !p.2.isNan && !prodBad p.1 p.2 && (p.1.isInf || p.2.isInf)).map
    fun p => p.1.neg != p.2.neg
  let clash := infs.contains true && infs.contains false
  if nan || bad || clash then ⟨FFmt.f32.nan, nf ||| fNF ||| flagIf (snan || bad || clash) fNV⟩
  else match infs with
    | n :: _ => ⟨(FFmt.f32.infRes n).bits, nf ||| fNF⟩
    | [] =>
      let s := Dy.sum (ps.map fun p => p.1.dy.mul p.2.dy)
      let zneg := ps.all fun p => (p.1.isZero || p.2.isZero) && (p.1.neg != p.2.neg)
      let r := FFmt.f32.roundDy .rne false s zneg
      ⟨r.bits, r.fl ||| nf⟩

/-- The groups of 32 of an operation over K, in ascending order. -/
def groupsOf (k : Nat) : List (List Nat) :=
  (List.range ((k + 31) / 32)).map fun g => (List.range (min 32 (k - 32 * g))).map fun i => 32 * g + i

/-- The float path over all groups, from an accumulator word. -/
def sumFloat (k : Nat) (w x : Nat → FVal) (acc : Nat) : FRes :=
  (groupsOf k).foldl (fun a g =>
    let gs := groupSum (g.map w) (g.map x)
    let r := FFmt.f32.add .rne a.bits gs.bits
    ⟨r.bits, a.fl ||| gs.fl ||| r.fl⟩) ⟨acc, 0⟩

/-- The integer path. -/
def sumInt (k : Nat) (w x : Nat → Int) (acc : Int) : Int × Word :=
  (groupsOf k).foldl (fun a g =>
    let s := (g.map fun i => w i * x i).foldl (· + ·) 0
    let (v, f) := satI 32 (a.1 + s)
    (v, a.2 ||| f)) (acc, 0)

/-! ### Operand pairs (R272) -/

/-- The largest K of a weight tile; none where the format is no weight format. -/
def weightK (c : Cfg) : Option Nat :=
  match c.fmt with
  | 0x03 => some 128
  | 0x04 => some 128
  | 0x09 => some 256
  | 0x0A => some 256
  | 0x01 => some 128
  | 0x02 => some 128
  | 0x05 => some 128
  | 0x08 => some 128
  | 0x0B => some 128
  | 0x0C => some 128
  | 0x06 => some 128
  | 0x0D => some 128
  | _ => none

/-- The activation formats that pair with a latched weight format. -/
def pairOk (w : Cfg) (x : Nat) : Bool :=
  match w.fmt with
  | 0x03 => x = 0x03 || x = 0x04
  | 0x04 => x = 0x03 || x = 0x04
  | 0x09 => x = 0x09 || x = 0x03 || x = 0x04
  | 0x0A => if w.sef then x = 0x01 || x = 0x02 else x = 0x03 || x = 0x04
  | 0x01 => x = 0x01 || x = 0x02
  | 0x02 => x = 0x01 || x = 0x02
  | 0x05 => x = 0x05 || x = 0x08
  | 0x08 => x = 0x05 || x = 0x08
  | 0x0B => x = 0x0B || x = 0x05 || x = 0x08
  | 0x0C => x = 0x0C
  | 0x06 => x = 0x06
  | 0x0D => x = 0x0D
  | _ => false

/-! ### Execution of the queued operations -/

/-- The byte offset, from the base of a plane, of row i at a signed 16-bit pitch, as an on-chip address. -/
def planeRow (b : Word) (p : BitVec 16) (i : Nat) : Nat := (b + BitVec.ofInt 32 ((i : Int) * p.toInt)).toNat

/-- The runs of (address, register byte, length) that `tld` and `tst` move, in row order (R278, R279). -/
def tileRuns (c : Cfg) (b1 : Word) (p1 : BitVec 16) (b2 : Word) (p2 : BitVec 16) : List (Nat × Nat × Nat) :=
  (List.range c.rows).flatMap fun i =>
    (planeRow b1 p1 i, i * c.row1, c.row1) ::
      (if c.row2 = 0 then [] else [(planeRow b2 p2 i, c.rows * c.row1 + i * c.row2, c.row2)])

/-- Whether [lo, hi) of the window overlaps tile register n. -/
def overlapsTreg (n lo hi : Nat) : Bool := decide (lo < tregBase n + 0x4000) && decide (tregBase n < hi)

/-- Whether some runs of memory overlap tile register n of t. -/
def Tile.runsOverlap (t : Tile) (n : Nat) (runs : List (Nat × Nat × Nat)) : Bool :=
  runs.any fun r => ((t.ownOff r.1).map fun o => overlapsTreg n o (o + r.2.2)).getD false

/-- Register n becomes undefined (R278, R280). -/
def State.undefTreg (s : State) (n : Nat) : State :=
  let t := s.tile.saveUnits (tregBase n) 0x4000
  { s with tile := { t with win := t.win.undefine (tregBase n) (tregBase n + 0x4000) s.free }, free := s.free + 1 }

/-- A register no longer poisoned (R280). -/
def State.cure (s : State) (n : Nat) : State :=
  { s with tile := { s.tile with poison := s.tile.poison.filter fun p => decide (p.t ≠ n) } }

/-- Bytes loaded into register n, with the outcomes of R280, and whether the load has completed: it has not where a word cannot be
read. -/
inductive Fill where
  | failed (s : State)
  | filled (s : State)

/-- Memory is read as the tile `r` sees it (R279). -/
def State.fillTreg (r : Tile) (s : State) (n : Nat) (pc : BitVec 20) (runs : List (Nat × Nat × Nat)) : Fill :=
  match s.readHit r (runs.flatMap fun x => (List.range x.2.2).map fun i => x.1 + i) with
  | .scratch => .failed { s with tile := s.tile.dataError }
  | .near w =>
    let s := s.undefTreg n
    let s := { s with tile := { s.tile with poison := ⟨n, pc⟩ :: s.tile.poison.filter fun p => decide (p.t ≠ n) } }
    .failed (s.tileEvent s.tile 0x12 [nat32 w])
  | h =>
    let s1 := match h with
      | .event w => { s with free := s.free + 1 }.tileEvent r 0x12 [nat32 w]
      | _ => s
    let byte (a : Nat) : Byte := if s.parityByte r a then Config.freeByte s.free a else s.supByte r pc a
    let parts := runs.map fun x => (x.2.1, (List.range x.2.2).map fun i => byte (x.1 + i))
    .filled { s1 with tile := parts.foldl (fun u p => u.setTreg n p.1 p.2) s1.tile }

/-- `tld` (R278): one that completes clears the poison of its register (R280); one whose source overlaps the register leaves that
undefined. -/
def State.runTld (r : Tile) (s : State) (n : Nat) (pc : BitVec 20) (runs : List (Nat × Nat × Nat)) : State :=
  match s.fillTreg r n pc runs with
  | .failed s' => s'
  | .filled s' => (if r.runsOverlap n runs then s'.undefTreg n else s').cure n

/-- A window descriptor (R281). -/
structure WinDesc where
  base : Nat
  ch : Nat
  xp : Int
  yp : Int
  w : Nat
  h : Nat
  kx : Nat
  ky : Nat
  sx : Nat
  sy : Nat
  wo : Nat
  px : Int
  py : Int
  fill : Nat
deriving DecidableEq, Repr

def WinDesc.ofWords (l : List Word) : WinDesc :=
  let w (i : Nat) : Nat := (l.getD i 0).toNat
  { base := w 0, ch := w 1 % 65536, xp := (l.getD 2 0).toInt, yp := (l.getD 3 0).toInt, w := w 4 % 65536,
    h := w 4 / 65536, kx := w 5 % 256, ky := w 5 / 256 % 256, sx := w 5 / 65536 % 256, sy := w 5 / 2 ^ 24, wo := w 6 % 65536,
    px := sextN 8 (w 6 / 65536), py := sextN 8 (w 6 / 2 ^ 24), fill := w 7 }

/-- The map element that row m, column c of a window tile takes: none past the kernel (zero), or outside the map (the fill)
(R282). -/
def WinDesc.source (d : WinDesc) (es : Nat) (first : Word) (m c : Nat) : Option (Option Nat) :=
  let p := (first + BitVec.ofNat 32 m).toNat
  let ox := p % d.wo
  let oy := p / d.wo
  let tap := c / d.ch
  let kx := tap % d.kx
  let ky := tap / d.kx
  let x : Int := (ox * d.sx : Nat) - d.px + kx
  let y : Int := (oy * d.sy : Nat) - d.py + ky
  if d.kx * d.ky * d.ch ≤ c then none
  else if 0 ≤ x ∧ x < d.w ∧ 0 ≤ y ∧ y < d.h then
    some (some (lowBits 32 ((d.base : Int) + y * d.yp + x * d.xp + (c % d.ch * es : Nat))))
  else some none

/-- The cells of a window tile with their sources. -/
def WinDesc.cells (d : WinDesc) (c : Cfg) (first : Word) : List (Nat × Nat × Option (Option Nat)) :=
  (List.range c.rows).flatMap fun m => (List.range c.cols).map fun k => (m, k, d.source (fmtWidth c.fmt / 8) first m k)

/-- The runs of (address, register byte, length) that `tldw` reads (R282). -/
def WinDesc.runs (d : WinDesc) (c : Cfg) (first : Word) : List (Nat × Nat × Nat) :=
  let es := fmtWidth c.fmt / 8
  (d.cells c first).filterMap fun x =>
    match x.2.2 with
    | some (some a) => some (a, x.1 * c.row1 + x.2.1 * es, es)
    | _ => none

/-- The runs of (address, register byte, length) that a queued load of a tile register reads. -/
def XOp.loadRuns : XOp → List (Nat × Nat × Nat)
  | .tld _ cfg b1 p1 b2 p2 _ => tileRuns (Cfg.ofWord cfg) b1 p1 b2 p2
  | .tldw _ cfg l first _ => (WinDesc.ofWords l).runs (Cfg.ofWord cfg) first
  | _ => []

/-- `tldw` (R282): every element of the map is read before any is written (R8). -/
def State.runTldw (r : Tile) (s : State) (n : Nat) (c : Cfg) (l : List Word) (first : Word) (pc : BitVec 20) : State :=
  let d := WinDesc.ofWords l
  let es := fmtWidth c.fmt / 8
  match s.fillTreg r n pc (d.runs c first) with
  | .failed s' => s'
  | .filled s' =>
    { s' with tile := (d.cells c first).foldl (fun u x =>
        match x.2.2 with
        | none => u.setElem n c x.1 x.2.1 0
        | some none => u.setElem n c x.1 x.2.1 (d.fill % 2 ^ (8 * es))
        | _ => u) s'.tile }

/-- A run written to the own window or, in supervisor mode, to its control region (R381). -/
def State.putOwn (r : Tile) (s : State) (a : Nat) (bs : List Byte) : State :=
  match r.ctlOff a with
  | some o => s.ctlWrite o bs
  | none =>
    match r.ownOff a with
    | some off => { s with tile := s.tile.ownWrite off bs }
    | none => s

/-- `tst`: rows in order, those in the own window written at once, the others into the entry `held` that the commit queue keeps
for them (R278, R279). -/
def State.runTst (r : Tile) (s : State) (n : Nat) (c : Cfg) (b1 : Word) (p1 : BitVec 16) (b2 : Word) (p2 : BitVec 16)
    (held : Option Nat) : State :=
  let runs := (tileRuns c b1 p1 b2 p2).map fun x => (x.1, (List.range x.2.2).map fun i => r.treg n (x.2.1 + i))
  let s := runs.foldl (fun u x => u.putOwn r x.1 x.2) s
  let t := s.tile
  let cells := (runs.filter fun x => (t.ownOff x.1).isNone).flatMap fun x => cellsOf x.1 x.2
  { s with tile := { t with cq := t.cq.map fun h =>
      match h with
      | .tst i old before => .tst i (if held = some i then cells else old) before
      | h => h } }

/-- A memory moved down by `base`, kept below `size`. -/
def Mem.slice (m : Mem) (base size : Nat) : Mem where
  cells := m.cells.filterMap fun c => if base ≤ c.1 ∧ c.1 < base + size then some (c.1 - base, c.2) else none
  undef := m.undef.filterMap fun r =>
    if max r.lo base < min r.hi (base + size) then some ⟨max r.lo base - base, min r.hi (base + size) - base, r.seed⟩
    else none
  bad := m.bad.filterMap fun w => if base ≤ w ∧ w < base + size then some (w - base) else none

/-- The weight buffer with a number. -/
def Tile.wb (t : Tile) (buf : Bool) : Mem := if buf then t.wb1 else t.wb0

/-- `wlat`: both planes of the tile go into a buffer (R283). -/
def Tile.runWlat (r t : Tile) (n : Nat) (c : Cfg) (buf : Bool) : Tile :=
  let m := (t.wb buf).copyRange (r.win.slice (tregBase n) c.size) 0 c.size
  if buf then { t with wb1 := m } else { t with wb0 := m }

/-- `mmac` and `mmacz` (R285). -/
def Tile.runMmac (r t : Tile) (zero : Bool) (acc n : Nat) (c w : Cfg) (buf : Bool) (row0 c0 : Nat) : Tile :=
  let x := r.treg n
  let wt := (r.wb buf).readByte
  let isInt := intFmt c.fmt && intFmt w.fmt
  (List.range c.rows).foldl (fun t m => (List.range w.rows).foldl (fun t j =>
    let old := r.acc acc (row0 + m) (c0 + j)
    if isInt then
      let (v, f) := sumInt c.cols (w.int wt j) (c.int x m) (if zero then 0 else sextN 32 old)
      (t.setAcc acc (row0 + m) (c0 + j) (lowBits 32 v)).orFlags f
    else
      let v := sumFloat c.cols (w.val wt j) (c.val x m) (if zero then 0x80000000 else old)
      (t.setAcc acc (row0 + m) (c0 + j) v.bits).orFlags v.fl) t) t

/-- One word of `aread` (R287). -/
def areadWord (fmt : Nat) (isInt relu satur : Bool) (e : Int) (w : Nat) : FRes :=
  let v : FVal := if isInt then .ofInt (sextN 32 w) else FFmt.f32.decode w
  let nf := flagIf v.nonFinite fNF
  let v : FVal := if relu ∧ v.isNan = false ∧ (v.neg = true ∨ v.isZero = true) then .fin false 0 0 else v
  let sc : FVal := match v with
    | .fin n m k => .fin n m (k + e)
    | v => v
  let r : FRes := match elemFmt fmt with
    | some (.fl f) =>
      match sc with
      | .nan sn => f.nanRes sn
      | .inf n => if satur ∧ f = .e4m3 then ⟨(if n then f.signBit else 0) + f.maxFinite, fNF⟩ else f.infRes n
      | .fin n m k => f.round .rne (satur && decide (f.width = 8)) n m k
    | some (.int i) =>
      match sc with
      | .nan _ => ⟨0, fNV ||| fNF⟩
      | .inf n => ⟨lowBits i.w (if n then i.lo else i.hi), fNV ||| fNF⟩
      | .fin n m k =>
        let (q, inexact) := roundInt .rne n m k
        let (x, f) := clampI i.lo i.hi (if n then -(q : Int) else q)
        ⟨lowBits i.w x, f ||| flagIf inexact fNX⟩
    | none => ⟨0, 0⟩
  ⟨r.bits, r.fl ||| nf⟩

/-- `aread` (R287). -/
def Tile.runAread (r t : Tile) (n : Nat) (c : Cfg) (acc row0 : Nat) (ctl : Word) : Tile :=
  let e := sextN 8 ctl.toNat
  let c0 := ctl.toNat / 2 ^ 11 % 64
  (List.range c.rows).foldl (fun t i => (List.range c.cols).foldl (fun t j =>
    let v := areadWord c.fmt (ctl.getLsbD 10) (ctl.getLsbD 9) (ctl.getLsbD 8) e (r.acc acc (row0 + i) (c0 + j))
    (t.setElem n c i j v.bits).orFlags v.fl) t) t

/-- A bit pattern, a NaN made canonical (R69, R70). -/
def canonNan (f : FFmt) (x : Nat) : Nat := if (f.decode x).isNan then f.nan else x

/-- `arow` (R288): a conversion to f32 is exact for its formats, and a NaN is delivered as the canonical one (R70); with ADD
the addition and its operands set their flags, without ADD no flag is set (R81, R290). -/
def Tile.runArow (r t : Tile) (acc n : Nat) (c : Cfg) (row0 cnt : Nat) (ctl : Word) : Tile :=
  let src := ctl.toNat % 256
  let isInt := ctl.getLsbD 8
  let add := ctl.getLsbD 9
  let c0 := ctl.toNat / 2 ^ 10 % 64
  let x := r.treg n
  (List.range cnt).foldl (fun t q => (List.range c.cols).foldl (fun t j =>
    let old := r.acc acc (row0 + q) (c0 + j)
    if isInt then
      let v := c.int x src j
      let (y, f) := if add then satI 32 (sextN 32 old + v) else (v, 0)
      (t.setAcc acc (row0 + q) (c0 + j) (lowBits 32 y)).orFlags f
    else
      let bits := c.elem x src j
      match elemFmt c.fmt with
      | some (.fl f) =>
        let v := if f = .f32 then canonNan .f32 bits else (f.convert .f32 .rne false bits).bits
        let y : FRes := if add then FFmt.f32.add .rne old v else ⟨v, 0⟩
        (t.setAcc acc (row0 + q) (c0 + j) y.bits).orFlags
          (if add then y.fl ||| flagIf (f.decode bits).isSnan fNV ||| flagIf (f.decode bits).nonFinite fNF else 0)
      | _ => t) t) t

/-- `azero` (R289). -/
def Tile.runAzero (t : Tile) (acc row0 cnt : Nat) : Tile :=
  { t with win := t.win.write (accOff acc row0 0) (List.replicate (256 * cnt) 0) }

/-! ### Flint (R299 to R303) -/

/-- A projection's sign bit (R299): 0 when undefined, 1 when it is +∞ or positive. -/
def projBit (xs hs : List FVal) : Bool :=
  let ps := xs.zip hs
  if ps.any fun p => p.1.isNan || p.2.isNan || prodBad p.1 p.2 then false
  else
    let infs := (ps.filter fun p => p.1.isInf).map fun p => p.1.neg != p.2.neg
    if infs.contains true then false
    else if infs.contains false then true
    else decide (0 < (Dy.sum (ps.map fun p => p.1.dy.mul p.2.dy)).m)

/-- Whether a projection is an invalid operation: 0 × ∞, or +∞ and −∞ in one exact sum (R81). -/
def projInvalid (xs hs : List FVal) : Bool :=
  let ps := xs.zip hs
  let infs := (ps.filter fun p => !p.1.isNan && !p.2.isNan && !prodBad p.1 p.2 && p.1.isInf).map fun p => p.1.neg != p.2.neg
  (ps.any fun p => prodBad p.1 p.2) || (infs.contains true && infs.contains false)

def bitsToNat : List Bool → Nat
  | [] => 0
  | b :: l => (if b then 1 else 0) + 2 * bitsToNat l

/-- Flint elements written whole have correct parity (R294). -/
def Tile.clearFlint (t : Tile) (os : List Nat) : Tile := { t with flintBad := t.flintBad.filter fun o => !os.contains o }

/-- `fsig` (R299), with the flags of R81. -/
def Tile.runFsig (r t : Tile) (x y : Nat) (c h : Cfg) : Tile :=
  let ks := List.range c.cols
  let row (m : Nat) : List FVal := ks.map fun k => c.val (r.treg x) m k
  let plane (j : Nat) : List FVal := ks.map fun k => h.val (r.treg y) j k
  let sg := (List.range c.rows).foldl (fun (v : Vector Word 256) m =>
    v.setIfInBounds m (nat32 (bitsToNat ((List.range h.rows).map fun j => projBit (row m) (plane j))))) t.core.flint.sg
  let els := (List.range c.rows).flatMap row
  let invalid := (List.range c.rows).any fun m => (List.range h.rows).any fun j => projInvalid (row m) (plane j)
  (({ t with core := { t.core with flint := { t.core.flint with sg := sg } } }).clearFlint
    ((List.range c.rows).map fun m => 0x400 + 4 * m)).orFlags
    (flagIf (els.any (·.nonFinite)) fNF ||| flagIf (els.any (·.isSnan) || invalid) fNV)

/-- The buckets of keys in ascending row order: leaders, the bucket of each row, members per bucket (R300). -/
def bucketsGo (key : Nat → Nat) : List Nat → List Nat × List Nat × List Nat → List Nat × List Nat × List Nat
  | [], st => st
  | m :: ms, (lead, map, cnt) =>
    let b := lead.findIdx fun l => decide (key l = key m)
    if b < lead.length then bucketsGo key ms (lead, map ++ [b], cnt.set b (cnt.getD b 0 + 1))
    else bucketsGo key ms (lead ++ [m], map ++ [lead.length], cnt ++ [1])

def putBytes (v : Vector Byte 256) (l : List Nat) : Vector Byte 256 :=
  l.zipIdx.foldl (fun v x => v.setIfInBounds x.2 (BitVec.ofNat 8 x.1)) v

/-- NB of FST (R295). -/
def fstNb (f : Word) : Nat := f.toNat / 2 ^ 22 % 512

def fstWith (f : Word) (m p w nb grp : Option Nat) : Word :=
  let x := f.toNat
  nat32 ((m.getD (x % 512)) % 512 + (p.getD (x / 2 ^ 10 % 64)) % 64 * 2 ^ 10 + (w.getD (x / 2 ^ 16 % 64)) % 64 * 2 ^ 16 +
    (nb.getD (x / 2 ^ 22 % 512)) % 512 * 2 ^ 22 + (grp.getD (x / 2 ^ 31)) % 2 * 2 ^ 31)

/-- `fgrp` (R300). -/
def Tile.runFgrp (r t : Tile) (dst : Reg) (y : Nat) (c : Cfg) (m w : Nat) (load : Bool) : Tile :=
  let key (i : Nat) : Nat :=
    if load then c.elem (r.treg y) 0 i % 256 else (r.core.flint.sg.getD i 0).toNat % 2 ^ w
  let (lead, map, cnt) := bucketsGo key (List.range m) ([], [], [])
  let fl := t.core.flint
  let cv := cnt.zipIdx.foldl (fun (v : Vector (BitVec 9) 256) x => v.setIfInBounds x.2 (BitVec.ofNat 9 x.1)) fl.cnt
  let fl := { fl with
    map := putBytes fl.map map
    lead := putBytes fl.lead lead
    cnt := cv
    fst := fstWith fl.fst none none none (some lead.length) none }
  let t := { t with core := { t.core with flint := fl } }.clearFlint
    ((List.range m).map (fun i => 0x800 + i) ++ (List.range lead.length).flatMap fun b => [0x900 + b, 0xA00 + 2 * b])
  let t := map.zipIdx.foldl (fun u x => u.setElem y c 0 x.2 x.1) t
  { t with core := t.core.setReg dst (nat32 lead.length) }

def Flint.mapOf (f : Flint) (m : Nat) : Nat := (f.map.getD m 0).toNat

/-- The sum of the members on a float format over n, which is not 0 (R301). -/
def meanFloat (f : FFmt) (n : Nat) (xs : List Nat) : FRes :=
  let vs := xs.map f.decode
  let nf := flagIf (vs.any (·.nonFinite)) fNF
  let sn := vs.any (·.isSnan)
  let infs := (vs.filter (·.isInf)).map (·.neg)
  let clash := infs.contains true && infs.contains false
  if vs.any (·.isNan) || clash then ⟨f.nan, nf ||| fNF ||| flagIf (sn || clash) fNV⟩
  else match infs with
    | n :: _ => ⟨(f.infRes n).bits, nf ||| fNF⟩
    | [] =>
      let s := Dy.sum (vs.map FVal.dy)
      let k := bitLen n + 64
      let num := s.m.natAbs * 2 ^ k
      f.round .rne false (if s.m = 0 then vs.all (·.neg) else decide (s.m < 0)) (num / n) (s.e - k) (decide (num % n ≠ 0))

/-- The sum of integers over n, nearest with ties to even (R301). -/
def meanInt (n : Int) (xs : List Int) : Int :=
  let s := xs.foldl (· + ·) 0
  let q := s / n
  let r := s % n
  if 2 * r < n then q else if n < 2 * r then q + 1 else if q % 2 = 0 then q else q + 1

/-- `frep` (R301). A count of 0, which only a supervisor can write, gives an undefined mean, numbered from `seed` (R3). -/
def Tile.runFrep (r t : Tile) (x y : Nat) (d c : Cfg) (m : Nat) (mean : Bool) (seed : Nat) : Tile :=
  let fl := r.core.flint
  let nw := min (fstNb fl.fst) d.rows
  (List.range nw).foldl (fun t b =>
    let members := (List.range m).filter fun i => decide (fl.mapOf i = b)
    let n := (fl.cnt.getD b 0).toNat
    (List.range c.cols).foldl (fun t k =>
      if mean then
        if n = 0 then t.setElem x d b k (Config.freeWord (seed + 256 * b + k)).toNat
        else match elemFmt c.fmt with
        | some (.fl f) =>
          let v := meanFloat f n (members.map fun i => c.elem (r.treg y) i k)
          (t.setElem x d b k v.bits).orFlags v.fl
        | some (.int i) =>
          t.setElem x d b k (lowBits i.w (meanInt n (members.map fun j => c.int (r.treg y) j k)))
        | none => t
      else t.setElem x d b k (c.elem (r.treg y) (fl.lead.getD b 0).toNat k)) t) t

/-- `fscat` (R302). -/
def Tile.runFscat (r t : Tile) (acc src dst m : Nat) : Tile :=
  (List.range m).foldl (fun t i => (List.range 64).foldl (fun t c =>
    t.setAcc acc (dst + i) c (r.acc acc (src + r.core.flint.mapOf i) c)) t) t

/-- `fsum` (R303): as many members as CNT says. -/
def Tile.runFsum (r t : Tile) (acc src dst m : Nat) (isInt : Bool) : Tile :=
  let fl := r.core.flint
  (List.range (fstNb fl.fst)).foldl (fun t b =>
    let members := (List.range m).filter fun i => decide (fl.mapOf i = b)
    (List.range 64).foldl (fun t c =>
      let ws := members.map fun i => r.acc acc (src + i) c
      match ws with
      | [] => t
      | w :: rest =>
        let v := (rest.take ((fl.cnt.getD b 0).toNat - 1)).foldl (fun (a : FRes) x =>
          if isInt then
            let (y, f) := satI 32 (sextN 32 a.bits + sextN 32 x)
            ⟨lowBits 32 y, a.fl ||| f⟩
          else
            let y := FFmt.f32.add .rne a.bits x
            ⟨y.bits, a.fl ||| y.fl⟩) ⟨w, 0⟩
        (t.setAcc acc (dst + b) c v.bits).orFlags v.fl) t) t

/-- Whether an operation reads parity-bad words of registers it names (R291). -/
def Tile.regsBad (r : Tile) (lo n : Nat) : Bool := (r.win.badWord lo n).isSome

/-- The window ranges of the tile registers and accumulators that an operation reads (R291, R301 to R303). -/
def XOp.reads (x : XOp) (r : Tile) : List (Nat × Nat) :=
  let tile (n : Nat) (cfg : Word) : Nat × Nat := (tregBase n, (Cfg.ofWord cfg).size)
  let row (n : Nat) (c : Cfg) (i : Nat) : Nat × Nat := (tregBase n + i * c.row1, c.row1)
  let accs (acc : Nat) (rows : List Nat) (c0 n : Nat) : List (Nat × Nat) := rows.map fun i => (accOff acc i c0, 4 * n)
  let from_ (row0 cnt : Nat) : List Nat := (List.range cnt).map fun i => row0 + i
  let fl := r.core.flint
  match x with
  | .tld _ _ _ _ _ _ _ => []
  | .tldw _ _ _ _ _ => []
  | .tst n cfg _ _ _ _ _ => [tile n cfg]
  | .wlat n cfg _ => [tile n cfg]
  | .mmac zero acc n cfg wcfg _ row0 c0 =>
    tile n cfg :: if zero then [] else accs acc (from_ row0 (Cfg.ofWord cfg).rows) c0 (Cfg.ofWord wcfg).rows
  | .aread _ cfg acc row0 ctl =>
    accs acc (from_ row0 (Cfg.ofWord cfg).rows) (ctl.toNat / 2 ^ 11 % 64) (Cfg.ofWord cfg).cols
  | .azero _ _ _ => []
  | .arow acc n cfg row0 cnt ctl =>
    row n (Cfg.ofWord cfg) (ctl.toNat % 256) ::
      if ctl.getLsbD 9 then accs acc (from_ row0 cnt) (ctl.toNat / 2 ^ 10 % 64) (Cfg.ofWord cfg).cols else []
  | .fsig a b ca cb => [tile a ca, tile b cb]
  | .fgrp _ y cy _ _ load => if load then [tile y cy] else []
  | .frep _ y cx cy m mean =>
    let nw := min (fstNb fl.fst) (Cfg.ofWord cx).rows
    let rows := if mean then (List.range m).filter fun i => decide (fl.mapOf i < nw)
      else (List.range nw).map fun b => (fl.lead.getD b 0).toNat
    rows.map (row y (Cfg.ofWord cy))
  | .fscat acc src _ m => accs acc ((List.range m).map fun i => src + fl.mapOf i) 0 64
  | .fsum acc src _ m _ =>
    accs acc (((List.range m).filter fun i => decide (fl.mapOf i < fstNb fl.fst)).map fun i => src + i) 0 64

/-- The weights an operation reads: the buffer, and how many bytes of it. -/
def XOp.readsBuf : XOp → Option (Bool × Nat)
  | .mmac _ _ _ _ wcfg buf _ _ => some (buf, (Cfg.ofWord wcfg).size)
  | _ => none

/-- The Flint elements an operation reads, by their offsets from 0x1F_2000 (R294). -/
def XOp.readsFlint (x : XOp) (r : Tile) : List Nat :=
  match x with
  | .fgrp _ _ _ m _ load => if load then [] else (List.range m).map fun i => 0x400 + 4 * i
  | .frep _ _ cx _ m mean =>
    let bs := List.range (min (fstNb r.core.flint.fst) (Cfg.ofWord cx).rows)
    0 :: if mean then (List.range m).map (fun i => 0x800 + i) ++ bs.map fun b => 0xA00 + 2 * b else bs.map fun b => 0x900 + b
  | .fscat _ _ _ m => (List.range m).map fun i => 0x800 + i
  | .fsum _ _ _ m _ =>
    0 :: (List.range m).map (fun i => 0x800 + i) ++ (List.range (fstNb r.core.flint.fst)).map fun b => 0xA00 + 2 * b
  | _ => []

/-- Whether an operation reads a word or an element of bad parity. -/
def XOp.meetsBad (x : XOp) (r : Tile) : Bool :=
  (x.reads r).any (fun p => r.regsBad p.1 p.2) ||
  (x.readsBuf.map fun b => ((r.wb b.1).badWord 0 b.2).isSome).getD false || (x.readsFlint r).any r.flintBad.contains

/-- One X-pipe operation executed to completion; its registers are read from `r` (R273, R297). A parity mismatch it meets
is a data error (R291). -/
def XOp.run (x : XOp) (r : Tile) (s : State) : State :=
  if x.meetsBad r then
    { s with tile := s.tile.dataError }
  else
    match x with
    | .tld n _ _ _ _ _ pc => s.runTld r n pc x.loadRuns
    | .tldw n cfg l first pc => s.runTldw r n (Cfg.ofWord cfg) l first pc
    | .tst n cfg b1 p1 b2 p2 held => s.runTst r n (Cfg.ofWord cfg) b1 p1 b2 p2 held
    | .wlat n cfg buf => { s with tile := r.runWlat s.tile n (Cfg.ofWord cfg) buf }
    | .mmac zero acc n cfg wcfg buf row0 c0 =>
      { s with tile := r.runMmac s.tile zero acc n (Cfg.ofWord cfg) (Cfg.ofWord wcfg) buf row0 c0 }
    | .aread n cfg acc row0 ctl => { s with tile := r.runAread s.tile n (Cfg.ofWord cfg) acc row0 ctl }
    | .azero acc row0 cnt => { s with tile := s.tile.runAzero acc row0 cnt }
    | .arow acc n cfg row0 cnt ctl => { s with tile := r.runArow s.tile acc n (Cfg.ofWord cfg) row0 cnt ctl }
    | .fsig a b ca cb => { s with tile := r.runFsig s.tile a b (Cfg.ofWord ca) (Cfg.ofWord cb) }
    | .fgrp dst y cy m w load => { s with tile := r.runFgrp s.tile dst y (Cfg.ofWord cy) m w load }
    | .frep a b ca cb m mean =>
      { s with tile := r.runFrep s.tile a b (Cfg.ofWord ca) (Cfg.ofWord cb) m mean s.free, free := s.free + 0x10000 }
    | .fscat acc src dst m => { s with tile := r.runFscat s.tile acc src dst m }
    | .fsum acc src dst m isInt => { s with tile := r.runFsum s.tile acc src dst m isInt }

/-- The oldest queued operation does its work. -/
def State.finishHead (s : State) : State :=
  match s.tile.mq with
  | [] => s
  | x :: rest => x.run s.tile { s with tile := { s.tile with mq := rest } }

/-- The bytes of the own window that the oldest queued operation stores. -/
def Tile.headStores (t : Tile) : List Nat :=
  match t.mq with
  | .tst _ cfg b1 p1 b2 p2 _ :: _ =>
    (tileRuns (Cfg.ofWord cfg) b1 p1 b2 p2).flatMap fun x => ((List.range x.2.2).map (x.1 + ·)).filter t.owns
  | _ => []

end Sys2Proof.Machine
end

