-- ==== Sys2Proof/Machine/Jobs.lean ====
section
/-! DEFINITION. The copy engine (R207 to R245): cards and their refusal, footprints and edges, the elements a job moves,
translation and parking, completion, and the barrier step (R247) that completions and releases share. -/

namespace Sys2Proof.Machine

/-! ### Barrier objects (R246, R247) -/

/-- A barrier object (R246). -/
structure BarObj where
  reload : Nat
  remain : Nat
  bytes : Nat
  w2 : Nat
  gen : Nat
deriving DecidableEq, Repr

def BarObj.ofBytes (bs : List Byte) : BarObj :=
  let w (i : Nat) : Nat := natOfBytes ((bs.drop (4 * i)).take 4)
  ⟨w 0 / 65536, w 0 % 65536, w 1, w 2, w 3⟩

def BarObj.toBytes (b : BarObj) : List Byte :=
  bytesOfNat 4 (b.remain + 65536 * b.reload) ++ bytesOfNat 4 b.bytes ++ bytesOfNat 4 b.w2 ++ bytesOfNat 4 b.gen

def BarObj.cur (b : BarObj) : Nat := b.w2 / 65536 % 256
def BarObj.last (b : BarObj) : Nat := b.w2 / 256 % 256
def BarObj.ov (b : BarObj) : Bool := b.w2 / 2 % 2 = 1
def BarObj.ph (b : BarObj) : Bool := b.w2 % 2 = 1

/-- Word 2 from its fields, the reserved bits as they were (R247). -/
def BarObj.setW2 (b : BarObj) (cur last : Nat) (ov ph : Bool) : BarObj :=
  { b with w2 := b.w2 / 2 ^ 24 * 2 ^ 24 + cur % 256 * 2 ^ 16 + last % 256 * 2 ^ 8 + b.w2 / 4 % 64 * 4 +
      (if ov then 2 else 0) + (if ph then 1 else 0) }

/-- `step(obj, n, delta, f)` (R247). -/
def BarObj.step (b : BarObj) (n : Nat) (delta : Int) (f : Nat) : BarObj :=
  let past := decide (b.remain < n)
  let remain := b.remain - n
  let t := sextN 32 b.bytes + delta
  let range := decide (t < -(2 ^ 31 : Int)) || decide ((2 ^ 31 : Int) ≤ t)
  let bytes := lowBits 32 t
  let cur := b.cur ||| f
  let ov := b.ov || (decide (0 < n) && past) || range
  let b1 : BarObj := { b with remain := remain, bytes := bytes }
  if remain = 0 ∧ bytes = 0 then
    { b1.setW2 0 cur ov (!b.ph) with remain := b.reload, gen := (b.gen + 1) % 2 ^ 32 }
  else b1.setW2 cur b.last ov b.ph

/-- A barrier step at an on-chip address of a context (R247). -/
def State.barStep (s : State) (ctx own a n : Nat) (delta : Int) (f : Nat) : State :=
  s.mapWrite ctx own a ((BarObj.ofBytes (s.mapRead ctx own a 16)).step n delta f).toBytes

/-! ### Job cards (R209 to R212) -/

/-- The fields of a captured card, the displacement of R227 applied. -/
structure Card where
  mode : Nat
  sf : Nat
  df : Nat
  src : Nat
  dst : Nat
  ext : List Nat
  fill : Nat
  sstr : List Int
  dstr : List Int
  cntva : Nat
  cntinc : Nat
  bar : Nat
  idxa : Nat
  idxn : Nat
deriving DecidableEq, Repr

def Card.ofWords (l : List Word) : Card :=
  let w (i : Nat) : Nat := (l.getD i 0).toNat
  { mode := w 0, sf := w 1 % 256, df := w 1 / 256 % 256, src := w 2 + 2 ^ 32 * w 3, dst := w 4 + 2 ^ 32 * w 5,
    ext := (List.range 7).map fun i => w (6 + i), fill := w 13,
    sstr := (List.range 6).map fun i => sextN 32 (w (14 + i)), dstr := (List.range 6).map fun i => sextN 32 (w (20 + i)),
    cntva := w 26 + 2 ^ 32 * w 27, cntinc := w 28, bar := w 29, idxa := w 30, idxn := w 31 }

def Card.kind (c : Card) : Nat := c.mode % 16
def Card.dims (c : Card) : Nat := c.mode / 2 ^ 4 % 8
def Card.esz (c : Card) : Nat := c.mode / 2 ^ 7 % 8
def Card.xf (c : Card) : Nat := c.mode / 2 ^ 10 % 16
def Card.scope (c : Card) : Nat := c.mode / 2 ^ 20 % 16
def Card.cen (c : Card) : Bool := c.mode / 2 ^ 24 % 2 = 1
def Card.ben (c : Card) : Bool := c.mode / 2 ^ 25 % 2 = 1
def Card.edge (c : Card) : Bool := c.mode / 2 ^ 26 % 2 = 1

def isQ4 (f : Nat) : Bool := f = 0x09
def isS24 (f : Nat) : Bool := f = 0x0A

/-- Whether the formats are read (R211). -/
def Card.fmts (c : Card) : Bool :=
  c.xf = 2 || c.xf = 3 || c.xf = 4 || c.kind = 4 || isQ4 c.sf || isS24 c.sf || isQ4 c.df || isS24 c.df

/-- Bits per element of a one-plane format. -/
def bitsOf (f : Nat) : Nat := if f = 0x0B then 1 else ((elemFmt f).map EFmt.width).getD 8

def Card.sbits (c : Card) : Nat := if c.fmts then bitsOf c.sf else 8 * 2 ^ c.esz
def Card.dbits (c : Card) : Nat := if c.fmts then bitsOf c.df else 8 * 2 ^ c.esz

/-- The extents in use; gather and scatter take the outermost from the list (R216). -/
def Card.extents (c : Card) : List Nat :=
  (List.range (c.dims + 1)).map fun d => if (c.kind = 1 ∨ c.kind = 2) ∧ d = c.dims then c.idxn else c.ext.getD d 0

def Card.elems (c : Card) : Nat := c.extents.foldl (· * ·) 1

/-- asi8 and asi16 are taken as i8 and i16 (R220). -/
def plainFmt (f : Nat) : Nat := if f = 0x0C then 0x05 else if f = 0x0D then 0x06 else f

/-- The pairs of the table of R87, source and destination codes. -/
def vcvtPairs : List (Nat × List Nat) :=
  [(0, [1, 2, 3, 4, 7, 6, 5, 8]), (1, [0, 2, 3, 4, 7, 5]), (2, [0, 1, 3, 4, 7, 5]), (3, [0, 1, 2, 4]), (4, [0, 1, 2, 3]),
   (7, [0, 1, 2, 6, 5, 8, 3, 4]), (6, [0, 1, 7, 5]), (5, [0, 1, 7, 6]), (8, [0, 1, 7, 6])]

def convAllowed (s d : Nat) : Bool :=
  plainFmt s = plainFmt d || vcvtPairs.any fun p => decide (p.1 = plainFmt s) && p.2.contains (plainFmt d)

/-- The pairs of reduce-add (R215). -/
def reduceAllowed (s d : Nat) : Bool :=
  (s = 0 && d = 0) || (s = 1 && d = 0) || (s = 1 && d = 1) ||
  (d = 7 && (s = 5 || s = 6 || s = 7 || s = 0x0C || s = 0x0D))

/-- r of R221: the first plane's stride over the second's. -/
def Card.ratio (c : Card) : Nat := if isQ4 c.sf then 16 else if c.df = 1 then 8 else 4

/-- Whether the formats named are allowed together (R215, R220, R222). -/
def Card.fmtsOk (c : Card) : Bool :=
  if !c.fmts then true
  else if 0x0E ≤ c.sf ∨ 0x0E ≤ c.df then false
  else if c.kind = 4 then reduceAllowed c.sf c.df
  else if c.kind = 3 then false
  else if isS24 c.sf then (c.xf = 3 || c.xf = 4) && (c.df = 3 || c.df = 1)
  else if isQ4 c.sf then
    (c.xf = 0 && isQ4 c.df) || (c.xf = 2 && (isQ4 c.df || c.df = 0 || c.df = 1 || c.df = 2))
  else if isS24 c.df || isQ4 c.df then false
  else if c.xf = 2 then convAllowed c.sf c.df
  else false

def Card.start (c : Card) (d : Nat) : Int := sextN 16 (c.idxa / 2 ^ (16 * d))
def Card.text (c : Card) (d : Nat) : Nat := c.idxn / 2 ^ (16 * d) % 65536

/-- The strides of the dimensions in use. -/
def Card.sused (c : Card) : List Int := c.sstr.take c.dims
def Card.dused (c : Card) : List Int := c.dstr.take c.dims

def Card.gather (c : Card) : Bool := c.kind = 1
def Card.scatter (c : Card) : Bool := c.kind = 2

/-- Whether the job reads an index list: an empty one reads nothing (R214, R216). -/
def Card.usesList (c : Card) : Bool := (c.gather || c.scatter) && decide (c.elems ≠ 0)
def Card.transposed (c : Card) : Bool := c.xf = 1 || c.xf = 4

/-- Element size in bytes for the alignment rule, at least 1. -/
def byteSize (bits : Nat) : Nat := max 1 (bits / 8)

/-- Layout limits of q4 and s24 tensors (R221, R222, R224). -/
def Card.planesOk (c : Card) : Bool :=
  if isQ4 c.sf && c.fmts then
    decide (c.extents.getD 0 0 % 32 = 0) && c.sused.all (fun x => x % 16 = 0) && (!c.edge || decide (c.start 0 % 32 = 0)) &&
      (!isQ4 c.df || c.dused.all fun x => x % 16 = 0)
  else if isS24 c.sf && c.fmts then
    decide (c.extents.getD 0 0 % 4 = 0) && c.sused.all (fun x => x % (c.ratio : Int) = 0) &&
      (!c.edge || decide (c.start 0 % 4 = 0))
  else true

/-- Source and destination addresses and strides on the element grid (R212). -/
def Card.alignOk (c : Card) : Bool :=
  let se := if isQ4 c.sf && c.fmts then 1 else if isS24 c.sf && c.fmts then byteSize (bitsOf c.df) else byteSize c.sbits
  let de := if isQ4 c.df && c.fmts then 1 else byteSize c.dbits
  let sm : Int := min se 8
  let dm : Int := min de 8
  (c.kind = 3 || (decide ((c.src : Int) % sm = 0) && c.sused.all fun x => x % sm = 0)) &&
    decide ((c.dst : Int) % dm = 0) && c.dused.all fun x => x % dm = 0

/-! ### Elements (R214, R216, R219, R221, R224) -/

/-- The index of element p in each dimension. -/
def indexGo : List Nat → Nat → List Nat
  | [], _ => []
  | e :: es, p => p % e :: indexGo es (p / e)

def Card.index (c : Card) (p : Nat) : List Nat := indexGo c.extents p

/-- Source coordinate of dimension d (R216, R224). -/
def Card.scoord (c : Card) (idx : List Nat) (ix : List Nat) (d : Nat) : Int :=
  let i := ix.getD d 0
  if c.gather ∧ d = c.dims then (idx.getD i 0 : Nat)
  else if c.edge ∧ d < 2 then c.start d + i
  else i

/-- Destination coordinate of dimension d (R214, R216). -/
def Card.dcoord (c : Card) (idx : List Nat) (ix : List Nat) (d : Nat) : Int :=
  let d' := if c.transposed then (if d = 0 then 1 else if d = 1 then 0 else d) else d
  let i := ix.getD d' 0
  if c.scatter ∧ d' = c.dims then (idx.getD i 0 : Nat) else i

/-- Offset of the dimensions from 1 up. -/
def rowOff (dims : Nat) (str : List Int) (coord : Nat → Int) : Int :=
  (List.range dims).foldl (fun a d => a + coord (d + 1) * str.getD d 0) 0

def Card.srow (c : Card) (idx ix : List Nat) : Int := rowOff c.dims c.sstr (c.scoord idx ix)
def Card.drow (c : Card) (idx ix : List Nat) : Int := rowOff c.dims c.dstr (c.dcoord idx ix)

/-- Whether a window position reads an element of the tensor (R224). -/
def Card.inside (c : Card) (idx ix : List Nat) : Bool :=
  !c.edge || (let x := c.scoord idx ix 0
              let y := if c.dims = 0 then c.start 1 else c.scoord idx ix 1
              decide (0 ≤ x) && decide (x < c.text 0) && decide (0 ≤ y) && decide (y < c.text 1))

def wrap64 (n : Int) : Nat := lowBits 64 n

/-- The source offset of a window's second coordinate when the job has one dimension. -/
def sfill (c : Card) : Int := sextN 32 c.fill

/-- Address of the byte that holds bit `b` past the row of the source. -/
def Card.sbase (c : Card) (idx ix : List Nat) : Int := (c.src : Int) + c.srow idx ix
def Card.dbase (c : Card) (idx ix : List Nat) : Int := (c.dst : Int) + c.drow idx ix

/-- The source byte addresses of element ix, first plane then second. -/
def Card.srcBytes (c : Card) (idx ix : List Nat) : List Nat × List Nat :=
  if c.kind = 3 ∨ c.inside idx ix = false then ([], [])
  else
    let x := c.scoord idx ix 0
    if isQ4 c.sf && c.fmts then
      ([wrap64 (c.sbase idx ix + x / 2)], [wrap64 ((c.src : Int) + sfill c + c.srow idx ix / 16 + x / 32)])
    else if isS24 c.sf && c.fmts then
      let es := byteSize (bitsOf c.df)
      let g := x / 4
      ((List.range (2 * es)).map fun (i : Nat) => wrap64 (c.sbase idx ix + 2 * g * es + i),
       [wrap64 ((c.src : Int) + sfill c + c.srow idx ix / c.ratio + g / 2)])
    else
      let w := c.sbits
      if w < 8 then ([wrap64 (c.sbase idx ix + x * w / 8)], [])
      else ((List.range (w / 8)).map fun (i : Nat) => wrap64 (c.sbase idx ix + x * (w / 8 : Nat) + i), [])

/-- Bits of element ix in the source format, read through `get`; a q4 element gives its code (R224 outside the tensor). -/
def Card.srcVal (c : Card) (get : Nat → Byte) (idx ix : List Nat) : Nat :=
  let x := c.scoord idx ix 0
  let (b1, b2) := c.srcBytes idx ix
  if c.inside idx ix = false then
    if (isQ4 c.sf || isS24 c.sf) && c.fmts then 0 else c.fill % 2 ^ min 32 c.sbits
  else if c.kind = 3 then c.fill
  else if isQ4 c.sf && c.fmts then (get (b1.getD 0 0)).toNat / (if x % 2 = 0 then 1 else 16) % 16
  else if isS24 c.sf && c.fmts then
    let es := byteSize (bitsOf c.df)
    let nib := (get (b2.getD 0 0)).toNat / (if x / 4 % 2 = 0 then 1 else 16) % 16
    s24Decode nib (natOfBytes ((b1.take es).map get)) (natOfBytes ((b1.drop es).map get)) (x % 4).toNat
  else if c.sbits < 8 then (get (b1.getD 0 0)).toNat / 2 ^ (x % 8).toNat % 2
  else natOfBytes (b1.map get)

/-- The q4 scale byte that governs element ix: 0 for a block wholly outside the tensor (R224). -/
def Card.scaleByte (c : Card) (get : Nat → Byte) (idx ix : List Nat) : Nat :=
  let x := c.scoord idx ix 0
  let blk := x / 32 * 32
  let y := if c.dims = 0 then c.start 1 else c.scoord idx ix 1
  let out := c.edge && !(decide (-32 < blk) && decide (blk < c.text 0) && decide (0 ≤ y) && decide (y < c.text 1))
  if out then 0 else (get (wrap64 ((c.src : Int) + sfill c + c.srow idx ix / 16 + x / 32))).toNat

/-- The bits of element ix in the destination format (R215, R219 to R223); conversions round to nearest even and 8-bit
floats saturate. -/
def Card.value (c : Card) (get : Nat → Byte) (idx ix : List Nat) : Nat :=
  let v := c.srcVal get idx ix
  if c.kind = 3 then v % 2 ^ 32 * ((2 ^ c.dbits - 1) / (2 ^ 32 - 1) + if c.dbits < 32 then 1 else 0) % 2 ^ c.dbits
  else if c.xf = 2 ∧ c.sf ≠ c.df then
    if isQ4 c.sf then
      match elemFmt c.df with
      | some (.fl f) => (f.roundDy .rne false (q4Value (c.scaleByte get idx ix) v)).bits
      | _ => 0
    else match elemFmt c.sf, elemFmt c.df with
      | some a, some b => (convertElem a b .rne (decide (c.df = 3 ∨ c.df = 4)) v).bits
      | _, _ => v
  else v

/-- The destination byte addresses of element ix; q4 codes two to a byte and a scale byte per block (R222). -/
def Card.dstBytes (c : Card) (idx ix : List Nat) : List Nat × List Nat :=
  let x := c.dcoord idx ix 0
  if isQ4 c.df && c.fmts then
    ([wrap64 (c.dbase idx ix + x / 2)],
     if x % 32 = 0 then [wrap64 ((c.dst : Int) + sfill c + c.drow idx ix / 16 + x / 32)] else [])
  else if c.dbits < 8 then ([wrap64 (c.dbase idx ix + x * (c.dbits : Int) / 8)], [])
  else ((List.range (c.dbits / 8)).map fun (i : Nat) => wrap64 (c.dbase idx ix + x * (c.dbits / 8 : Nat) + i), [])

/-- The bytes element ix writes: (address, value, mask of the bits it writes). -/
def Card.dstWrites (c : Card) (get : Nat → Byte) (idx ix : List Nat) : List (Nat × Nat × Nat) :=
  let x := c.dcoord idx ix 0
  let (b1, b2) := c.dstBytes idx ix
  let v := c.value get idx ix
  if isQ4 c.df && c.fmts then
    (if x % 2 = 0 then [(b1.getD 0 0, v, 0x0F)] else [(b1.getD 0 0, 16 * v, 0xF0)]) ++
      b2.map fun a => (a, c.scaleByte get idx ix, 0xFF)
  else if c.dbits < 8 then
    let k := (x % 8).toNat
    [(b1.getD 0 0, v % 2 * 2 ^ k, 2 ^ k)]
  else b1.zipIdx.map fun a => (a.1, v / 256 ^ a.2 % 256, 0xFF)

/-- The number of bytes a successful job writes (R215). -/
def Card.destBytes (c : Card) : Nat :=
  if isQ4 c.df && c.fmts then c.elems / 2 + c.elems / 32 else (c.elems * c.dbits + 7) / 8

/-! ### Footprints (R231) -/

/-- The least and greatest offset of a dimension. -/
def spanOf (lo hi : Int) (str : Int) : Int × Int := (min (lo * str) (hi * str), max (lo * str) (hi * str))

def addSpan (a b : Int × Int) : Int × Int := (a.1 + b.1, a.2 + b.2)

/-- The range of coordinates of dimension d that a job reads: clipped to the tensor under edge fill. -/
def Card.srange (c : Card) (idx : List Nat) (d : Nat) : Int × Int :=
  let n : Int := c.extents.getD d 0
  if c.gather ∧ d = c.dims then
    ((idx.foldl min (idx.getD 0 0) : Nat), (idx.foldl max 0 : Nat))
  else if c.edge ∧ d < 2 then (max 0 (c.start d), min ((c.text d : Int) - 1) (c.start d + n - 1))
  else (0, n - 1)

def Card.drange (c : Card) (idx : List Nat) (d : Nat) : Int × Int :=
  let d' := if c.transposed then (if d = 0 then 1 else if d = 1 then 0 else d) else d
  let n : Int := c.extents.getD d' 0
  if c.scatter ∧ d' = c.dims then
    ((idx.foldl min (idx.getD 0 0) : Nat), (idx.foldl max 0 : Nat))
  else (0, n - 1)

def Card.rowSpan (c : Card) (str : List Int) (rng : Nat → Int × Int) (r : Int) : Int × Int :=
  (List.range c.dims).foldl (fun a d =>
    let (lo, hi) := rng (d + 1)
    addSpan a (spanOf lo hi (str.getD d 0 / r))) (0, 0)

/-- Whether an edge-filled job reads nothing of its tensor. -/
def Card.readsNothing (c : Card) (idx : List Nat) : Bool :=
  c.kind = 3 || decide (c.elems = 0) ||
    (c.edge && (decide ((c.srange idx 0).2 < (c.srange idx 0).1) ||
      (if c.dims = 0 then !(decide (0 ≤ c.start 1) && decide (c.start 1 < c.text 1))
       else decide ((c.srange idx 1).2 < (c.srange idx 1).1))))

/-- The intervals [lo, hi) of bytes that the job reads, plane by plane. -/
def Card.readSpans (c : Card) (idx : List Nat) : List (Int × Int) :=
  if c.readsNothing idx then []
  else
    let (x0, x1) := c.srange idx 0
    let sp := c.rowSpan c.sstr (c.srange idx) 1
    let mk (base : Int) (s : Int × Int) (lo hi : Int) : Int × Int := (base + s.1 + lo, base + s.2 + hi)
    if isQ4 c.sf && c.fmts then
      [mk c.src sp (x0 / 2) (x1 / 2 + 1),
       mk ((c.src : Int) + sfill c) (c.rowSpan c.sstr (c.srange idx) 16) (x0 / 32) (x1 / 32 + 1)]
    else if isS24 c.sf && c.fmts then
      let es : Int := byteSize (bitsOf c.df)
      [mk c.src sp (x0 / 4 * 2 * es) ((x1 / 4 + 1) * 2 * es),
       mk ((c.src : Int) + sfill c) (c.rowSpan c.sstr (c.srange idx) c.ratio) (x0 / 4 / 2) (x1 / 4 / 2 + 1)]
    else if c.sbits < 8 then [mk c.src sp (x0 * c.sbits / 8) (x1 * c.sbits / 8 + 1)]
    else [mk c.src sp (x0 * (c.sbits / 8 : Nat)) ((x1 + 1) * (c.sbits / 8 : Nat))]

/-- The intervals of bytes that the job writes. -/
def Card.writeSpans (c : Card) (idx : List Nat) : List (Int × Int) :=
  if c.elems = 0 then []
  else
    let (x0, x1) := c.drange idx 0
    let sp := c.rowSpan c.dstr (c.drange idx) 1
    let mk (base : Int) (s : Int × Int) (lo hi : Int) : Int × Int := (base + s.1 + lo, base + s.2 + hi)
    if isQ4 c.df && c.fmts then
      [mk c.dst sp (x0 / 2) (x1 / 2 + 1),
       mk ((c.dst : Int) + sfill c) (c.rowSpan c.dstr (c.drange idx) 16) (x0 / 32) (x1 / 32 + 1)]
    else if c.dbits < 8 then [mk c.dst sp (x0 * c.dbits / 8) (x1 * c.dbits / 8 + 1)]
    else [mk c.dst sp (x0 * (c.dbits / 8 : Nat)) ((x1 + 1) * (c.dbits / 8 : Nat))]

/-- On-chip bytes at the aperture (R213, R231). -/
def apertureVa (a : Nat) : Nat := apertureBase + a

/-- The index list's interval. -/
def Card.listSpan (c : Card) : List (Int × Int) :=
  if c.usesList then [((apertureVa c.idxa : Nat), (apertureVa (c.idxa + 4 * c.idxn) : Nat))] else []

/-- Footprints: bytes read, the index list included, and bytes written; reduce-add reads its destination (R231). -/
def Card.reads (c : Card) (idx : List Nat) : List (Int × Int) :=
  c.readSpans idx ++ c.listSpan ++ (if c.kind = 4 then c.writeSpans idx else [])

/-- Whether the addresses of a card lie below 2^57 (R212). -/
def Card.addrOk (c : Card) : Bool :=
  (c.kind = 3 || decide (c.src < 2 ^ 57)) && decide (c.dst < 2 ^ 57) && (!c.cen || decide (c.cntva < 2 ^ 57))

/-- Whether the footprints lie below 2^57 (R212); those of a gather or scatter need its list. -/
def Card.spansOk (c : Card) (idx : List Nat) : Bool :=
  (c.readSpans idx ++ c.writeSpans idx).all fun p => decide (0 ≤ p.1) && decide (p.2 ≤ 2 ^ 57)

/-- The kinds each instruction accepts (R217). -/
def JobKind.accepts (k : JobKind) (kind : Nat) : Bool :=
  match k with
  | .cpy => kind = 0 || kind = 3 || kind = 4
  | .cpf => kind = 0
  | .cgat => kind = 1
  | .cscat => kind = 2
  | _ => true

/-- Whether the fields of a card break R212, whatever its index list holds. -/
def Card.malformed (c : Card) (k : JobKind) : Bool :=
  decide (4 < c.kind) || decide (4 < c.xf) || (!c.fmts && c.esz = 7) || c.esz = 7 || c.dims = 7 || decide (4 < c.scope) ||
  !k.accepts c.kind || ((c.kind = 3 || c.kind = 4) && c.xf ≠ 0) || (c.transposed && c.dims = 0) || !c.fmtsOk ||
  (c.edge && (c.kind = 1 || c.kind = 2 || c.kind = 3)) || !c.planesOk || decide (2 ^ 40 < c.elems) || !c.alignOk ||
  (c.cen && c.cntva % 8 ≠ 0) || (c.ben && c.bar % 16 ≠ 0) || ((c.gather || c.scatter) && c.idxa % 4 ≠ 0) ||
  !c.addrOk

/-- Whether the card of a job is refused with status 9, but for its alignment in scratchpad (R212). -/
def Card.refused (c : Card) (k : JobKind) (idx : List Nat) : Bool := c.malformed k || !c.spansOk idx

/-- Whether the card of a `cfence` is refused: only the fields it takes are checked (R229). -/
def Card.fenceRefused (c : Card) : Bool :=
  decide (4 < c.scope) || (c.cen && (c.cntva % 8 ≠ 0 || decide (2 ^ 57 ≤ c.cntva))) || (c.ben && c.bar % 16 ≠ 0)

/-! ### Jobs in their slots -/

def Tile.setJob (t : Tile) (j : Job) : Tile :=
  { t with jobs := t.jobs.map fun x => if x.slot = j.slot then j else x }

/-- The lowest-numbered free slot (R207). -/
def Tile.freeSlot (t : Tile) : Option Nat := (List.range 96).find? fun i => (t.job? i).isNone

/-- Whether a job instruction must wait: the declaration or the 96 slots are exhausted (R208). The declaration is not
enforced in supervisor mode (R378). -/
def Tile.slotsFull (t : Tile) : Bool :=
  decide (96 ≤ t.jobs.length) || (!t.core.sup && decide (t.task.jobs ≤ t.jobs.length))

def spansMeet (a b : List (Nat × Nat)) : Bool :=
  a.any fun x => b.any fun y => decide (x.1 < y.2) && decide (y.1 < x.2)

def JobKind.fabric : JobKind → Bool
  | .xst _ _ _ _ => true
  | .xatom _ _ _ _ => true
  | _ => false

/-- Whether a job being released waits for an earlier one: their footprints meet, one of them is a fence, the earlier one has
still to read the list that gives its footprint, or both are fabric operations (R216, R229, R232, R354). -/
def Job.follows (j e : Job) : Bool :=
  decide (j.kind = .cfence) || decide (e.kind = .cfence) || e.scan || (j.kind.fabric && e.kind.fabric) ||
  spansMeet j.reads e.writes || spansMeet j.writes e.reads || spansMeet j.writes e.writes

/-- The ordering edges of a job being released. -/
def Tile.edgesFor (t : Tile) (j : Job) : List Nat :=
  t.jobs.filterMap fun e => if e.sq < j.sq ∧ e.state ≠ .done ∧ j.follows e = true then some e.sq else none

/-- The edges of a job that ends as it is released: to earlier fences (R229). -/
def Tile.fencesFor (t : Tile) (j : Job) : List Nat :=
  t.jobs.filterMap fun e => if e.sq < j.sq ∧ e.state ≠ .done ∧ e.kind = .cfence then some e.sq else none

/-- Edges that still hold: the earlier job is in its slot. -/
def Tile.edgesLeft (t : Tile) (j : Job) : List Nat := j.edges.filter fun e => t.jobs.any fun k => decide (k.sq = e)

def natSpans (l : List (Int × Int)) : List (Nat × Nat) := l.map fun p => (p.1.toNat, p.2.toNat)

/-- A job's card. -/
def Job.cardOf (j : Job) : Card := Card.ofWords (j.card.getD [])

/-- The index list of a job, read from the tile's own scratchpad (R216). -/
def Tile.indexList (t : Tile) (c : Card) : List Nat :=
  if c.usesList then
    let off := (t.ownOff c.idxa).getD 0
    (List.range c.idxn).map fun i => natOfBytes ((List.range 4).map fun k => t.winByte (off + 4 * i + k))
  else []

/-- Whether an index list lies in the own scratchpad below the declared `spad`, which does not bind supervisor mode (R216, R378). -/
def Tile.listOk (t : Tile) (sup : Bool) (c : Card) : Bool :=
  if c.usesList then
    match t.ownOff c.idxa with
    | some off => decide (off + 4 * c.idxn ≤ if sup then 0x180000 else t.task.spad)
    | none => false
  else true

/-- A job that ends without running: it waits for the fences before it, and for no other job. -/
def Tile.endWith (t : Tile) (j : Job) (status : Nat) : Job :=
  { j with state := .waiting, early := status, status := status, edges := t.fencesFor j, scan := false }

/-- The list of a gather or scatter read: the refusals that need it, footprints, edges (R212, R216, R231, R232). -/
def Tile.scanJob (t : Tile) (j : Job) : Job :=
  let c := j.cardOf
  let idx := t.indexList c
  if c.refused j.kind idx then t.endWith j 9
  else
    let j := { j with state := .waiting, reads := natSpans (c.reads idx), writes := natSpans (c.writeSpans idx), scan := false }
    { j with edges := t.edgesFor j }

/-- Whether an earlier job, or an earlier write of the tile that has left the commit queue, may still write the list of a gather or
scatter, which is then read once that is done (R216, R231, R233). -/
def Tile.listAwaited (t : Tile) (j : Job) : Bool :=
  (t.released.any fun h => (h.bytes t).any fun a =>
    decide (t.canon j.cardOf.idxa ≤ a) && decide (a < t.canon j.cardOf.idxa + 4 * j.cardOf.idxn)) ||
  t.jobs.any fun e => decide (e.sq < j.sq) && decide (e.state ≠ .done) &&
    (decide (e.kind = .cfence) || e.scan || spansMeet (natSpans j.cardOf.listSpan) e.writes)

/-- A copy job or fence leaves the commit queue: card checks, list scan, footprints, edges (R227, R229, R232). -/
def Tile.releaseCopy (t : Tile) (j : Job) : Job :=
  match j.kind, j.card with
  | .cfence, card =>
    let st := if j.cardAddr % 16 ≠ 0 then 9
      else if j.status = 0 ∧ (card.map fun l => (Card.ofWords l).fenceRefused) = some true then 9 else j.status
    { t.endWith j st with edges := t.edgesFor j }
  | k, card =>
    if j.cardAddr % 16 ≠ 0 then t.endWith j 9
    else match card with
      | none => t.endWith j 2
      | some l =>
        let c := Card.ofWords l
        if c.malformed k then t.endWith j 9
        else if !t.listOk j.sup c then { t.endWith j 2 with early := 0 }
        else if c.usesList && t.listAwaited j then
          let j := { j with state := .waiting, reads := natSpans c.listSpan, writes := [], scan := true }
          { j with edges := t.edgesFor j }
        else t.scanJob j

/-! ### What a running job touches (R240) -/

/-- The virtual addresses that a copy job reads and writes, with the element order kept; the counter last. -/
def Tile.cardTouches (t : Tile) (j : Job) : List (Nat × Bool) :=
  match j.card with
  | none => []
  | some l =>
    let c := Card.ofWords l
    let cnt := if c.cen then (List.range 8).map fun i => (c.cntva + i, true) else []
    if j.kind = .cfence then cnt
    else
      let idx := t.indexList c
      ((List.range c.elems).flatMap fun p =>
        let ix := c.index p
        let sb := c.srcBytes idx ix
        let db := c.dstBytes idx ix
        (sb.1.map fun a => (a, false)) ++ (sb.2.map fun a => (a, false)) ++ (db.1.map fun a => (a, true)) ++
          db.2.map fun a => (a, true)) ++ cnt

/-- The virtual addresses that a job reads and writes (R240, R351). -/
def Tile.jobTouches (t : Tile) (j : Job) : List (Nat × Bool) :=
  match j.kind with
  | .xst dva fva _ len =>
    ((List.range len.toNat).map fun i => (dva + i, true)) ++ (List.range 8).map fun i => (fva + i, true)
  | .xatom _ va _ _ => (List.range 4).flatMap fun i => [(va + i, false), (va + i, true)]
  | .post _ => []
  | _ => t.cardTouches j

/-- The TLB entries a job of tile t can use: those it gathered, the L1 and the cluster's L2 TLB (R236). -/
def State.tlbs (s : State) (t : Tile) (j : Job) : List TlbEntry :=
  j.xl ++ t.tlb ++ s.dev.l2tlb.filterMap fun p => if p.1 = t.phys / 16 then some p.2 else none

def State.tlbFind (s : State) (t : Tile) (j : Job) (va : Nat) : Option TlbEntry :=
  (s.tlbs t j).find? (·.covers t.pasid.toNat va)

/-- The first address of a running job that no TLB entry serves. -/
def State.jobMiss (s : State) (t : Tile) (j : Job) : Option (Nat × Bool) :=
  (t.jobTouches j).find? fun p => (s.tlbFind t j p.1).isNone

/-- Whether a translated access is permitted (R240); the domain and the declared `spad` for on-chip addresses. -/
def State.locOk (s : State) (t : Tile) (sup : Bool) (e : TlbEntry) (va : Nat) (write : Bool) : Bool :=
  (if write then e.w else e.rd) &&
  match e.loc va with
  | .chip a => decide (a < 2 ^ 32) && s.accessOk t sup a 1 write
  | .aperture _ => true
  | l => l.isMemory

/-- The leaf of an address of a job: a job that ended before it reached the address looks it up at its completion. -/
def State.leafOf (s : State) (t : Tile) (j : Job) (va : Nat) : Option TlbEntry :=
  match s.tlbFind t j va with
  | some e => some e
  | none => s.walk t.pasid.toNat va

/-- Whether CNTVA is denied (R234); the scale-out aperture holds no counter. -/
def State.counterDenied (s : State) (t : Tile) (j : Job) (va : Nat) : Bool :=
  match s.leafOf t j va with
  | some e => !(s.locOk t j.sup e va true && (e.loc va).isMemory)
  | none => true

/-- The device that holds the counter of a card and has to be sent its increase (R234, R241). -/
def State.counterDev (s : State) (t : Tile) (j : Job) (c : Card) : Option Nat :=
  if c.cen && !s.counterDenied t j c.cntva then
    match (s.leafOf t j c.cntva).map fun e => e.loc c.cntva with
    | some (Loc.remote d _) => some d
    | _ => none
  else none

/-- Whether BAR is denied: outside the domain or the declared barrier region (R234, R240). -/
def State.barDenied (s : State) (t : Tile) (sup : Bool) (a : Nat) : Bool :=
  !(s.accessOk t sup a 16 true && inMemory t.ltile a && t.barrierRegionOk sup a)

/-- The location of an address of a job. -/
def State.jobLoc (s : State) (t : Tile) (j : Job) (va : Nat) : Option Loc := (s.tlbFind t j va).map (·.loc va)

/-- Whether a byte at a location lies in a word with an uncorrectable error (R179, R428). -/
def State.locBad (s : State) (t : Tile) : Loc → Bool
  | .lpddr a => (s.dev.lpddr.badWord a 1).isSome
  | .chip a =>
    (s.mapBad t.ctx t.ltile a 1).isSome ||
      (match placeOf t.ltile a with
       | .win l off => ((s.logical t.ctx l).map fun u => u.latBad.any fun e =>
          decide (0x1E0000 + 4 * e ≤ off) && decide (off < 0x1E0000 + 4 * e + 4)).getD false
       | _ => false)
  | _ => false

/-- The queue of the scale-out aperture that an address names: port and queue (R429). -/
def apertureQueue (a : Nat) : Nat × Nat := (a / 2 ^ 45 % 32, a / 2 ^ 41 % 16)

/-- The byte of a running job's source: received frames are read through the aperture. -/
def State.jobByte (s : State) (t : Tile) (j : Job) (frame : List Byte) (va : Nat) : Byte :=
  match s.jobLoc t j va with
  | some (.aperture a) => frame.getD (a % 2 ^ 41) 0
  | some l => s.locByte t.ctx t.ltile l
  | none => 0

/-- The source addresses of a job's elements, its own reads of its destination apart (R215, R218). -/
def Tile.sourceVas (t : Tile) (j : Job) : List Nat :=
  let c := j.cardOf
  let idx := t.indexList c
  (List.range c.elems).flatMap fun p => (c.srcBytes idx (c.index p)).1 ++ (c.srcBytes idx (c.index p)).2

/-- The destination addresses of a job's elements: none that a list gives which the job may not read (R216). -/
def Tile.destVas (t : Tile) (j : Job) : List Nat :=
  let c := j.cardOf
  let idx := t.indexList c
  if c.scatter && !t.listOk j.sup c then []
  else (List.range c.elems).flatMap fun p => (c.dstBytes idx (c.index p)).1 ++ (c.dstBytes idx (c.index p)).2

/-- The bits of its destination that a job writes, as addresses and masks. -/
def Tile.destMasks (t : Tile) (j : Job) : List (Nat × Nat) :=
  let c := j.cardOf
  let idx := t.indexList c
  (List.range c.elems).flatMap fun p => (c.dstWrites (fun _ => 0) idx (c.index p)).map fun w => (w.1, w.2.2)

/-- The aperture addresses among those of a job's elements, in one direction (R429). -/
def State.aperture (s : State) (t : Tile) (j : Job) (write : Bool) : List Nat :=
  (if write then t.destVas j else t.sourceVas j).filterMap fun va =>
    match s.jobLoc t j va with
    | some (.aperture a) => some a
    | _ => none

/-- The on-chip bytes of the index list that a job reads; an empty job reads nothing (R214). -/
def Card.listLocs (c : Card) : List Loc :=
  if c.usesList then (List.range (4 * c.idxn)).map fun i => .chip (c.idxa + i) else []

/-- The bytes that a job writes whole, each under one name. -/
def State.wholeLocs (s : State) (t : Tile) (j : Job) : List Loc :=
  let ms := (t.destMasks j).filterMap fun m => (s.jobLoc t j m.1).map fun l => (l.norm t.ltile, m.2)
  (ms.map Prod.fst).eraseDups.filter fun l =>
    decide ((ms.filter fun m => decide (m.1 = l)).foldl (fun a m => a ||| m.2) 0 = 255)

/-- Whether a job reads an uncorrectable word: in its list or its source, in the destination of a reduce-add, or in a word that
it merges a part into (R148, R179, R215, R216). -/
def State.dataBad (s : State) (t : Tile) (j : Job) (c : Card) : Bool :=
  let ws := (t.destVas j).filterMap fun va => (s.jobLoc t j va).map (Loc.norm t.ltile)
  let whole := s.wholeLocs t j
  c.listLocs.any (s.locBad t) || (t.sourceVas j).any (fun va => ((s.jobLoc t j va).map (s.locBad t)).getD false) ||
  ws.any fun l => s.locBad t l && (decide (c.kind = 4) || !((List.range 4).all fun i =>
    match l with
    | .lpddr a => whole.contains (.lpddr (a / 4 * 4 + i))
    | .chip a => whole.contains (.chip (a / 4 * 4 + i))
    | _ => true))

/-- Whether an address of a job, its counter's among them, lies in the scale-out aperture (R429). -/
def State.touchesAperture (s : State) (t : Tile) (j : Job) : Bool :=
  (t.jobTouches j).any fun p => match s.jobLoc t j p.1 with
    | some (.aperture _) => true
    | _ => false

/-- Whether the counter that a completion increases holds an uncorrectable word (R428). -/
def State.counterBad (s : State) (t : Tile) (j : Job) (c : Card) : Bool :=
  c.cen && !s.counterDenied t j c.cntva &&
    (List.range 8).any fun i => ((s.leafOf t j c.cntva).map fun e => s.locBad t (e.loc (c.cntva + i))).getD false

/-- The status that ends a running copy job before it moves anything (R234, R235, R240, R241, R429). -/
def State.jobStatus (s : State) (t : Tile) (j : Job) (c : Card) : Nat :=
  let ts := t.jobTouches j
  let denied := ts.any fun p => match s.tlbFind t j p.1 with
    | some e => !(s.locOk t j.sup e p.1 p.2)
    | none => true
  let apw := s.aperture t j true
  if denied || (c.ben && s.barDenied t j.sup c.bar) then 2
  else if s.touchesAperture t j && c.kind ≠ 0 then 2
  else if ts.any fun p => match s.jobLoc t j p.1 with
      | some (.remote d _) => !s.reachable d
      | _ => false then 8
  else if !apw.isEmpty && (apw.eraseDups.length < 60 || decide (9212 < apw.eraseDups.length)) then 9
  else if s.dataBad t j c || s.counterBad t j c then 4
  else 0

/-- One byte of a job's destination written under a mask. -/
def State.jobPut (s : State) (t : Tile) (j : Job) (va v mask : Nat) : State :=
  match s.jobLoc t j va with
  | some l =>
    let old := (s.locByte t.ctx t.ltile l).toNat
    s.locWrite t.ctx t.ltile l [BitVec.ofNat 8 ((old &&& (255 - mask)) ||| (v &&& mask))]
  | none => s

/-- Words that a job has written whole are correct again (R179). -/
def State.clearLocs (s : State) (ctx own : Nat) (ls : List Loc) : State :=
  ls.foldl (fun s l =>
    if (List.range 4).all fun i => ls.contains (l.add i) then
      match l with
      | .lpddr a => { s with dev := { s.dev with lpddr := { s.dev.lpddr with bad := s.dev.lpddr.bad.filter (· ≠ a) } } }
      | .chip a =>
        match placeOf own a with
        | .near n => { s with dev := { s.dev with near := { s.dev.near with bad := s.dev.near.bad.filter (· ≠ n) } } }
        | .win w off => match s.logical ctx w with
          | some u => s.putTile (u.clearBad off 4)
          | none => s
        | .hole => s
      | _ => s
    else s) s

/-- The bytes from location l on become undefined (R3, R235). -/
def State.locUndef (s : State) (ctx own : Nat) (l : Loc) : State :=
  let s1 := { s with free := s.free + 1 }
  match l with
  | .lpddr a => { s1 with dev := { s1.dev with lpddr := s1.dev.lpddr.undefine a (a + 1) s.free } }
  | .aperture _ => s
  | .remote d a =>
    { s1 with dev := { s1.dev with remote := s1.dev.remote.undefine (remoteAddr d a) (remoteAddr d a + 1) s.free } }
  | .host a => { s1 with dev := { s1.dev with hostMem := s1.dev.hostMem.undefine a (a + 1) s.free } }
  | .chip a =>
    match placeOf own a with
    | .near n => { s1 with dev := { s1.dev with near := s1.dev.near.undefine n (n + 1) s.free } }
    | .win w off =>
      if off < 0x1E0000 then
        match s.logical ctx w with
        | some u => s1.putTile ({ u with win := u.win.undefine off (off + 1) s.free }.noteExt off 1)
        | none => s
      else s1.mapWrite ctx own a [Config.freeByte s.free a]
    | .hole => s

/-- One element of a reduce-add (R215). -/
def combine (sf df d x : Nat) : Nat :=
  match elemFmt sf, elemFmt df with
  | some (.fl a), some (.fl b) => (b.add .rne d (if a = b then x else (a.convert b .rne false x).bits)).bits
  | some (.int i), some (.int k) => lowBits k.w (satI k.w (sextN k.w d + i.val x)).1
  | _, _ => d

/-- The elements of a copy, fill or reduce-add job, in enumeration order; sources are read from `r`. -/
def State.moveElems (s : State) (r : State) (t : Tile) (j : Job) (c : Card) (frame : List Byte) : State :=
  let idx := t.indexList c
  (List.range c.elems).foldl (fun s p =>
    let ix := c.index p
    if c.kind = 4 then
      let db := (c.dstBytes idx ix).1
      let d := natOfBytes (db.map (s.jobByte t j []))
      let v := combine c.sf c.df d (c.srcVal (r.jobByte t j frame) idx ix)
      db.zipIdx.foldl (fun s a => s.jobPut t j a.1 (v / 256 ^ a.2 % 256) 255) s
    else (c.dstWrites (r.jobByte t j frame) idx ix).foldl (fun s w => s.jobPut t j w.1 w.2.1 w.2.2) s) s

/-- Destination bytes of a job that also are source bytes become undefined (R218): `s` is the state before the job's writes, which
its addresses are taken from, `s1` the one after them. -/
def State.undefOverlap (s s1 : State) (t : Tile) (j : Job) : State :=
  let srcs := (j.cardOf.listLocs ++ (t.sourceVas j).filterMap (s.jobLoc t j)).map (Loc.norm t.ltile)
  ((t.destVas j).filterMap (s.jobLoc t j)).foldl (fun s l =>
    if srcs.contains (l.norm t.ltile) then s.locUndef t.ctx t.ltile l else s) s1

/-- The bytes at some addresses of a job become undefined, those that are mapped and permitted (R235, R240). -/
def State.undefVas (s : State) (t : Tile) (j : Job) (vas : List Nat) : State :=
  vas.foldl (fun s va =>
    match s.leafOf t j va with
    | some e => if s.locOk t j.sup e va true then s.locUndef t.ctx t.ltile (e.loc va) else s
    | none => s) s

/-- The whole destination of a failed job becomes undefined (R235). -/
def State.undefDest (s : State) (t : Tile) (j : Job) : State := s.undefVas t j (t.destVas j)

/-! ### Completion (R234) -/

/-- The status that lands in the token, and the slot freed; a failed job without a token raises event 0x11, a dropped prefetch
apart (R228, R230, R234). -/
def State.freeJob (s : State) (phys : Nat) (j : Job) (status : Nat) : State :=
  let t := s.getTile phys
  let t := t.landToken j.sq (j.tok.getD 0) (nat32 status)
  let t := { t with
    jobs := t.jobs.filter fun k => decide (k.slot ≠ j.slot)
    jobFails := if status = 0 then t.jobFails else t.jobFails ++ [(j.sq, status)] }
  let s := s.putTile t
  if status ≠ 0 ∧ j.tok = none ∧ ¬(j.kind = .cpf ∧ status = 3) then s.tileEvent t 0x11 [nat32 status, nat32 j.cardAddr] else s

/-- The value of the counter at a location: undefined where it holds an uncorrectable word (R3, R428). -/
def State.counterValue (s : State) (t : Tile) (j : Job) (c : Card) (l : Loc) : Nat :=
  if s.counterBad t j c then (Config.freeWord s.free).toNat + (Config.freeWord (s.free + 1)).toNat * 2 ^ 32
  else natOfBytes ((List.range 8).map fun i => s.locByte t.ctx t.ltile (l.add i))

/-- The counter increase and the barrier step of a completion (R234 steps 2 and 3). -/
def State.completionActs (s : State) (t : Tile) (j : Job) (c : Card) (bytes : Nat) : State :=
  let s1 :=
    if c.cen && !s.counterDenied t j c.cntva then
      match (s.leafOf t j c.cntva).map (·.loc c.cntva) with
      | some l =>
        if ((s.counterDev t j c).any fun d => !s.reachable d) then s else
        let s0 := if s.counterBad t j c then { s with free := s.free + 2 } else s
        s0.locWrite t.ctx t.ltile l (bytesOfNat 8 ((s.counterValue t j c l + c.cntinc) % 2 ^ 64))
      | none => s
    else s
  if c.ben && !s.barDenied t j.sup c.bar then s1.barStep t.ctx t.ltile c.bar 0 (-(bytes : Int)) 0 else s1

/-- The status of a fence: the first failure, in program order, of the jobs before it (R229). -/
def Tile.fenceStatus (t : Tile) (sq : Nat) : Nat :=
  match (t.jobFails.filter fun p => decide (p.1 < sq)) with
  | [] => 0
  | p :: l => (l.foldl (fun a q => if q.1 < a.1 then q else a) p).2

/-- A job that reads the aperture takes the oldest received frame of its queue, whole, and keeps it; nothing where none is there yet
(R429). -/
def State.takeFrame (s : State) (t : Tile) (j : Job) : Option (State × Job) :=
  match s.aperture t j false, j.frame with
  | [], _ => some (s, j)
  | _, some _ => some (s, j)
  | a :: _, none =>
    (s.dev.rxFrames.find? fun f => decide ((f.port, f.queue) = apertureQueue a)).map fun f =>
      ({ s with dev := { s.dev with rxFrames := s.dev.rxFrames.erase f } }, { j with frame := some f.bytes })

/-- One forwarded unit of 128 bytes of a page counted; the threshold cr.xacc raises an event (R241). -/
def State.countUnit (s : State) (t : Tile) (u : Nat × Nat) : State :=
  let key := (t.pasid.toNat, u.1)
  let old := ((s.dev.fwd.find? fun x => decide (x.1 = key)).map (·.2)).getD 0
  let s : State :=
    { s with dev := { s.dev with fwd := (key, old + 1) :: s.dev.fwd.filter fun x => decide (x.1 ≠ key) } }
  if old + 1 = s.dev.xacc.toNat then
    s.srcEvent 0x7000 0x35 t.ctx [nat32 t.pasid.toNat, nat32 (u.1 / 2 ^ 25)]
  else s

/-- The units of 128 bytes that a job forwards, from pages marked CNT, for the bytes at some addresses, each counted once: those of the
bytes that it has exchanged before have been (R241). -/
def State.countForwarded (s : State) (t : Tile) (j : Job) (vas : List Nat) : State :=
  let us := ((vas.filter fun va => !(j.asked ++ j.sent).any fun x => decide (x / 128 = va / 128)).filterMap fun va =>
    match s.leafOf t j va with
    | some e => if e.cls = 1 ∧ e.cnt = true then some (e.va, va / 128) else none
    | none => none).eraseDups
  us.foldl (fun x u => x.countUnit t u) s

/-- A number put into a sorted list. -/
def insertNat : List Nat → Nat → List Nat
  | [], a => [a]
  | b :: l, a => if a ≤ b then a :: b :: l else b :: insertNat l a

def sortNat (l : List Nat) : List Nat := l.foldl insertNat []

/-- FRAME_SEND: the destination bytes of a job that wrote the aperture leave as one frame, in address order (R429). -/
def State.sendFrame (s : State) (t : Tile) (j : Job) (writes : List (Nat × Nat × Nat)) : State :=
  let ws := writes.filterMap fun w =>
    match s.jobLoc t j w.1 with
    | some (.aperture a) => some (a, w.2)
    | _ => none
  match ws with
  | [] => s
  | (a, _) :: _ =>
    let q := apertureQueue a
    let addrs := sortNat (ws.map Prod.fst).eraseDups
    let bytes := addrs.map fun x => BitVec.ofNat 8 ((ws.filter fun w => decide (w.1 = x)).foldl
      (fun old w => (old &&& (255 - w.2.2)) ||| (w.2.1 &&& w.2.2)) 0)
    { s with dev := { s.dev with txFrames := s.dev.txFrames ++ [⟨q.1, q.2, bytes⟩] } }

/-- The bytes a job writes, as (virtual address, value, mask), in enumeration order. -/
def State.jobWrites (s : State) (t : Tile) (j : Job) (c : Card) (frame : List Byte) : List (Nat × Nat × Nat) :=
  let idx := t.indexList c
  (List.range c.elems).flatMap fun p => c.dstWrites (s.jobByte t j frame) idx (c.index p)

/-! ### What a job sends to other devices (R241, R340) -/

/-- The device that holds the byte at an address of a job, where it is another. -/
def State.devOf (s : State) (t : Tile) (j : Job) (va : Nat) : Option Nat :=
  match s.jobLoc t j va with
  | some (.remote d _) => some d
  | _ => none

/-- The request tag of a job: of a tile's, its context, logical tile, slot and number, which it keeps on another tile; of a
COPY command, which stands in the place of a tile beyond the tiles, its queue and sequence number. -/
def Tile.tag (t : Tile) (j : Job) : Nat :=
  if t.phys < 512 then ((t.ctx % 64 * 512 + t.ltile % 512) * 128 + j.slot % 128) * 256 + j.sq % 256
  else 2 ^ 31 + j.slot % 2 ^ 11 * 2 ^ 20 + j.sq % 2 ^ 20

/-- The command of a job or fabric operation of a tile: its PASID and its tag. -/
def Tile.command (t : Tile) (j : Job) (op : Nat) : Command := ⟨op, 0, 0, t.pasid.toNat, 0, 0, 0, 0, t.tag j, 0⟩

/-- The source elements of a reduce-add, each in the low bits of its destination element, by address, in enumeration
order. -/
def State.addends (s : State) (t : Tile) (j : Job) (c : Card) : List Host.Cell :=
  let idx := t.indexList c
  (List.range c.elems).flatMap fun p =>
    let ix := c.index p
    let db := (c.dstBytes idx ix).1
    db.zip (bytesOfNat db.length (c.srcVal (s.jobByte t j []) idx ix))

/-- The addresses among some of a job's that lie on a device. -/
def State.onDev (s : State) (t : Tile) (j : Job) (d : Nat) (vas : List Nat) : List Nat :=
  vas.filter fun va => decide (s.devOf t j va = some d)

/-- The read requests that a job sends to a device for the source bytes at some addresses. -/
def State.readBodies (s : State) (t : Tile) (j : Job) (vas : List Nat) (d : Nat) : List FlitBody :=
  readCommands (t.command j 1) (runsOf ((s.onDev t j d vas).map fun va => (va, 0)))

/-- The data that a job sends to a device for some addresses of its destination, `s1` being the state once it has been written; or the
addends of a reduce-add. -/
def State.writeBodies (s s1 : State) (t : Tile) (j : Job) (c : Card) (vas : List Nat) (d : Nat) : List FlitBody :=
  let here := s.onDev t j d vas
  let wr := if c.kind = 4 then (s.addends t j c).filter fun x => here.contains x.1
    else here.map fun va => (va, s1.jobByte t j [] va)
  dataCommands { t.command j (if c.kind = 4 then 7 else 0) with fmt := if c.kind = 4 then c.sf % 16 + c.df % 16 * 16 else 0 }
    (runsOf wr)

/-- The devices that hold bytes at some addresses of a job. -/
def State.devsOf (s : State) (t : Tile) (j : Job) (vas : List Nat) : List Nat := (vas.filterMap (s.devOf t j)).eraseDups

/-- The addresses among some of a job's that lie on other devices and that it has not exchanged. -/
def State.farVas (s : State) (t : Tile) (j : Job) (vas old : List Nat) : List Nat :=
  vas.eraseDups.filter fun va => (s.devOf t j va).isSome && !old.contains va

/-- A flag or counter increase sent to its home (R340, R352). -/
def Tile.increase (t : Tile) (j : Job) (va n : Nat) : List FlitBody := [{ t.command j 8 with va := va, len := 8, opa := n }.body]

/-- Flits sent to several devices; the answers to await. -/
def State.sendAll (s : State) (l : List (Nat × List FlitBody)) : State × List (Nat × Nat) :=
  (l.foldl (fun s x => s.sendFlits x.1 x.2) s, l.flatMap fun x => answersOf x.1 x.2)

/-! ### The end of a copy job (R234, R241) -/

/-- Where a running copy job stands: it waits, it has sent flits whose answers it awaits, as the new job says, or it is done with a
status. -/
inductive CopyEnd where
  | wait
  | send (s : State) (j : Job)
  | done (s : State) (status : Nat)

/-- The data of a job moved, with what else a success does before its completion actions. -/
def State.moveData (s : State) (t : Tile) (j : Job) (c : Card) : State :=
  let frame := j.frame.getD []
  let ws := if (s.aperture t j true).isEmpty then [] else s.jobWrites t j c frame
  let s1 := s.undefOverlap ((s.moveElems s t j c frame).clearLocs t.ctx t.ltile (s.wholeLocs t j)) t j
  s1.sendFrame t j ws

/-- What a job leaves at its destination when it ends with a status (R234 step 1, R235): status 9 leaves everything as it was, and so
does a job that ended as it was released. -/
def State.leaveData (s : State) (t : Tile) (j : Job) (c : Card) (st : Nat) : State :=
  if st = 0 then s.moveData t j c
  else if j.early ≠ 0 ∨ st = 9 ∨ (c.kind = 4 ∧ st = 2) then s else s.undefDest t j

/-- Whether a job that ends with a status performs its counter increase and its barrier step (R234). -/
def Job.acts (j : Job) (st : Nat) : Bool := decide (j.early = 0) && decide (st ≠ 9)

/-- The device to which a job that ends with a status has still to send its counter increase. -/
def State.owesCounter (s : State) (t : Tile) (j : Job) (c : Card) (st : Nat) : Option Nat :=
  if j.acts st then (s.counterDev t j c).filter s.reachable else none

/-- A job whose data is settled sends its counter increase to another device, or ends (R234). -/
def State.endCopy (s : State) (t : Tile) (j : Job) (c : Card) (st : Nat) : CopyEnd :=
  let s1 := s.leaveData t j c st
  match s.owesCounter t j c st with
  | some d =>
    let r := s1.sendAll [(d, t.increase j c.cntva c.cntinc)]
    .send (r.1.countForwarded t { j with asked := [], sent := [] } [c.cntva]) { j with acks := r.2, phase := 2, status := st }
  | none => .done (if j.acts st then s1.completionActs t j c c.destBytes else s1) st

/-- The next thing that a running copy job of tile t does, once every address of it is translated: it asks other devices for its
sources there, then, with their answers, sends its data to the devices of its destination, then it writes what is here, then it sends
its counter increase, and then it ends. A page that has moved to another device meanwhile is asked for or sent to then (R242). -/
def State.copyEnd (s : State) (t : Tile) (j : Job) (c : Card) : CopyEnd :=
  if !j.acks.isEmpty then .wait
  else if j.phase = 2 then
    .done ((if j.status = 8 then s.undefDest t j else s).completionActs t j c c.destBytes) j.status
  else
    let st := if j.status ≠ 0 then j.status else s.jobStatus t j c
    if st ≠ 0 then s.endCopy t j c st
    else match s.takeFrame t j with
      | none => .wait
      | some (s, j) =>
        let rs := s.farVas t j (t.sourceVas j) j.asked
        let ws := s.farVas t j (t.destVas j) j.sent
        if rs ≠ [] then
          let r := s.sendAll ((s.devsOf t j rs).map fun d => (d, s.readBodies t j rs d))
          .send (r.1.countForwarded t j rs) { j with acks := r.2, phase := 1, asked := j.asked ++ rs }
        else if ws ≠ [] then
          let s1 := s.moveElems s t j c (j.frame.getD [])
          let r := s.sendAll ((s.devsOf t j ws).map fun d => (d, s.writeBodies s1 t j c ws d))
          .send (r.1.countForwarded t j ws) { j with acks := r.2, phase := 1, sent := j.sent ++ ws }
        else s.endCopy t j c 0

/-- The status of a fence that runs: its own, the denial of a step, an unreachable counter or one that cannot be read, or that of
the jobs before it. -/
def State.fenceEnd (s : State) (t : Tile) (j : Job) (c : Card) : Nat :=
  if j.status ≠ 0 then j.status
  else if (c.cen && s.counterDenied t j c.cntva) || (c.ben && s.barDenied t j.sup c.bar) then 2
  else if (s.counterDev t j c).any fun d => !s.reachable d then 8
  else if s.counterBad t j c then 4
  else t.fenceStatus j.sq

/-- A fence reaches DONE (R229): one refused at its release makes no step. -/
def State.completeFence (s : State) (phys : Nat) (j : Job) : State :=
  let t := s.getTile phys
  match j.early, j.card with
  | 0, some l =>
    let c := Card.ofWords l
    if !j.acks.isEmpty then s
    else match if j.phase < 2 then s.counterDev t j c else none with
      | some d =>
        if s.reachable d then
          let r := s.sendAll [(d, t.increase j c.cntva c.cntinc)]
          (r.1.countForwarded t j [c.cntva]).modTile phys (·.setJob { j with acks := r.2, phase := 2 })
        else (s.completionActs t j c 0).freeJob phys j (s.fenceEnd t j c)
      | none => (s.completionActs t j c 0).freeJob phys j (s.fenceEnd t j c)
  | 0, none => s.freeJob phys j (if j.status ≠ 0 then j.status else t.fenceStatus j.sq)
  | _, _ => s.freeJob phys j j.status

/-- A translation fault parks the job and raises event 0x10 (R240, R406, R414). -/
def State.parkJob (s : State) (phys : Nat) (j : Job) (va : Nat) (wr : Bool) : State :=
  let t := (s.getTile phys).setJob { j with state := .parked, parkVa := va, parkWr := wr }
  let cardField := match j.kind with
    | .xst _ _ _ _ => 0
    | .xatom _ _ _ _ => 0
    | _ => j.cardAddr / 16 % 2 ^ 17
  (s.putTile t).tileEvent t 0x10
    [nat32 (va % 2 ^ 32), nat32 (va / 2 ^ 32 % 2 ^ 25 + if wr then 2 ^ 31 else 0),
     nat32 (t.pasid.toNat + t.ltile * 2 ^ 20), nat32 (j.slot + cardField * 2 ^ 8)]

end Sys2Proof.Machine
end

