-- ==== Sys2Proof/Machine/Votes.lean ====
section
/-! DEFINITION. Queues and the completion of commands (R397 to R399), and the voted machines of Mynyx, whose outputs take effect when
their copies agree (R19, R393). -/

namespace Sys2Proof.Machine

/-! ### Queues -/

def State.queue? (s : State) (q : Nat) : Option Queue := s.dev.queues.find? fun x => decide (x.num = q)

/-- The PASID that a queue's commands use: 0 for queue 0, else that of its context (R397, R402). -/
def State.queuePasid (s : State) (x : Queue) : Nat :=
  if x.num = 0 then 0 else ((s.ctx? x.ctx).map (·.pasid)).getD 0

def QState.code : QState → Nat
  | .active => 0
  | .faulted => 1
  | .preempted => 2
  | .dead => 3

/-- The status word (R398). -/
def Queue.status (x : Queue) : Nat :=
  x.state.code + x.rung % 4 * 2 ^ 8 + x.fcause % 256 * 2 ^ 16 + x.head % 2 ^ 32 * 2 ^ 32

/-- A queue's new fields: its status word is written when it changes (R398). -/
def State.putQueue (s : State) (x : Queue) : State :=
  let old := (s.queue? x.num).map Queue.status
  let s' := { s with dev := { s.dev with queues := s.dev.queues.map fun y => if y.num = x.num then x else y } }
  if old = some x.status then s' else s'.cmdStore8 (s.queuePasid x) x.statVa x.status

def State.modQueue (s : State) (q : Nat) (f : Queue → Queue) : State :=
  match s.queue? q with
  | some x => s.putQueue (f x)
  | none => s

/-- A field of a command at a byte offset (R399). -/
def Cmd.word (c : Cmd) (off : Nat) : Nat := (c.w.getD (off / 4) 0).toNat
def Cmd.dword (c : Cmd) (off : Nat) : Nat := c.word off + 2 ^ 32 * c.word (off + 4)

def State.cmd? (s : State) (q sq : Nat) : Option Cmd := (s.queue? q).bind fun x => x.cmds.find? fun c => decide (c.sq = sq)

def State.putCmd (s : State) (q : Nat) (c : Cmd) : State :=
  s.modQueue q fun x => { x with cmds := x.cmds.map fun d => if d.sq = c.sq then c else d }

/-- A command completes: the release of R399. -/
def State.completeCmd (s : State) (q sq status : Nat) : State :=
  match s.queue? q, s.cmd? q sq with
  | some x, some c =>
    if c.state = .done then s
    else
      let s1 := s.putCmd q { c with state := .done, status := status }
      if c.word 0 / 2 ^ 8 % 2 = 1 then
        s1.cmdStore8 (s.queuePasid x) (c.dword 8) (status % 256 * 2 ^ 56 + sq % 2 ^ 56)
      else s1
  | _, _ => s

/-- A queue becomes FAULTED, with the latest cause (R393, R405): event 0x23 where the fault is the queue's own. -/
def State.faultQueue (s : State) (q cause : Nat) : State :=
  s.modQueue q fun x => if x.state = .active ∨ x.state = .faulted then { x with state := .faulted, fcause := cause } else x

/-! ### Voted machines (R19, R393) -/

/-- The source id of firmware's records; 0x3F stands for no context (R412, R413). -/
def noCtx : Nat := 0x3F

/-- A machine by number; one that no list holds is in its initial state. -/
def Device.machine (d : Device) (m : Nat) : Machine :=
  (d.machines.find? fun x => decide (x.num = m)).getD ⟨m, .triplex, 0, Config.machineQueues m⟩

def State.setMachine (s : State) (x : Machine) : State :=
  { s with dev := { s.dev with machines := x :: s.dev.machines.filter fun y => decide (y.num ≠ x.num) } }

/-- MACHINE_STOPPED: every queue it serves is FAULTED with FCAUSE 3, event 0x22. -/
def State.stopMachine (s : State) (x : Machine) : State :=
  let hit := x.queues.filter fun q => ((s.queue? q).map fun y => decide (y.state = .active) || decide (y.state = .faulted)).getD false
  let s := s.setMachine { x with state := .stopped, struck := 0 }
  let s : State := { s with dev := { s.dev with vstop := s.dev.vstop + 1 } }
  (hit.foldl (fun s q => s.faultQueue q 3) s).fwEvent 0x22 noCtx [nat32 x.num, nat32 hit.length]

/-- A voted output on which all three copies agree is counted (R379, R393). -/
def State.counted (s : State) : State := { s with dev := { s.dev with votes := s.dev.votes + 1 } }

/-- An output of a machine is voted; whether it is applied. -/
def State.vote (s : State) (x : Machine) : State × Bool :=
  match x.state, x.struck with
  | .triplex, 0 => (s.counted, true)
  | .triplex, 1 =>
    let s := s.setMachine { x with state := .resync, struck := 0 }
    (({ s with dev := { s.dev with vdis := s.dev.vdis + 1 } } : State).fwEvent 0x21 noCtx [nat32 x.num, 0], true)
  | .triplex, _ => (s.stopMachine x, false)
  | .resync, 0 => (s, true)
  | .resync, _ => (s.stopMachine x, false)
  | .stopped, _ => (s, false)

/-- The voted machines of Mynyx (R19), the walkers by cluster and the command processors by queue. -/
inductive Voted where
  | walker (cluster : Nat)
  | layers
  | refill
  | processor (q : Nat)
  | firmware
  | migration
  | dispatch
deriving DecidableEq, Repr

/-- Class and index under which `Config.machineNumber` numbers a machine: those of R413, and 8 for the dispatch slot table. -/
def Voted.key : Voted → Nat × Nat
  | .walker c => (2, c)
  | .layers => (3, 0)
  | .refill => (4, 0)
  | .processor q => (5, q)
  | .firmware => (6, 0)
  | .migration => (7, 0)
  | .dispatch => (8, 0)

/-- The machine that gives an output: for a command processor one that is known to serve its queue, if there is one. -/
def Device.votedBy (d : Device) (v : Voted) : Machine :=
  let m := d.machine (Config.machineNumber v.key.1 v.key.2)
  match v with
  | .processor q => (d.machines.find? fun m => m.queues.contains q).getD { m with queues := q :: m.queues.filter fun x => decide (x ≠ q) }
  | _ => m

/-- An output of a voted machine takes effect when its copies agree on it; the work waits while the machine is stopped (R19,
R393). -/
def State.applied (s : State) (v : Voted) (go : State → State) : State :=
  let r := s.vote (s.dev.votedBy v)
  if r.2 then go r.1 else r.1

end Sys2Proof.Machine
end

