-- ==== Sys2Proof/Machine/Fabric.lean ====
section
/-! DEFINITION. Fabric operations in their job slots: the checks of their release (R351), their effect at the home or the
page's executor (R348, R352, R353), and the landing of their results. -/

namespace Sys2Proof.Machine

/-! ### Landing of scoreboarded results -/

/-- A scoreboarded value is delivered (R53). -/
def Tile.landLoad (t : Tile) (l : PLoad) (v : List Word) : Tile :=
  match l.dst with
  | .none => t
  | .sreg r => { t with core := t.core.setReg r (v.getD 0 0) }
  | .lat els =>
    t.putAll ((els.zip v).map fun p => (.lat p.1, p.2))
  | .port q => if (t.core.port q).bound then t.pushVec q (Vector.ofFn fun i => v.getD i.val 0) else t
  | .buffer u =>
    { t with loadBuf := t.loadBuf.map fun e => if e.1 = u then (u, some (v.flatMap fun w => bytesOfNat 4 w.toNat)) else e }

/-- The logged result of an operation of the interval (R140): what a rerun, or the tile to which the task has moved, takes in
place of the operation. -/
def Tile.logged (t : Tile) (word : Nat) (hi : Bool) : Option Word :=
  (t.recov.log.find? fun e => decide (e.word = word) && decide (e.hi = hi)).map (·.v)

/-- A result of a checkpointing operation is logged when it lands, once (R140). -/
def Tile.logResult (t : Tile) (word : Nat) (hi : Bool) (v : Word) : Tile :=
  match t.logged word hi with
  | some _ => t
  | none => { t with recov := { t.recov with log := t.recov.log ++ [⟨word, hi, v⟩] } }

/-- Results that wait for an engine land when it is done (R325, R353). -/
def Tile.landWaiting (t : Tile) (src : LoadSrc) (hi : Bool) (v : Word) : Tile :=
  (t.loads.filter fun l => decide (l.src = src)).foldl (fun u l => (u.landLoad l [v]).logResult l.word hi v)
    { t with loads := t.loads.filter fun l => decide (l.src ≠ src) }

/-! ### Atomic operations (R191, R353) -/

/-- The new value of a word under an atomic, if it changes. -/
def AtomOp.apply (op : AtomOp) (old v e : Word) : Word :=
  match op with
  | .add => old + v
  | .incb => if old.toNat < v.toNat then old + 1 else old
  | .cas => if old = e then v else old

/-! ### Checks at release (R351) -/

/-- Row 1 of R351. -/
def JobKind.fabricMalformed : JobKind → Bool
  | .xst dva fva src len =>
    len = 0 || decide (4096 < len.toNat) || len.toNat % 4 ≠ 0 || dva % 4 ≠ 0 || src.toNat % 4 ≠ 0 || fva % 8 ≠ 0 ||
      decide (2 ^ 57 ≤ dva) || decide (2 ^ 57 ≤ fva)
  | .xatom _ va _ _ => va % 4 ≠ 0 || decide (2 ^ 57 ≤ va)
  | _ => false

/-- Row 2 of R351: the source of `xst` as one read in one region. -/
def State.xstSourceOk (s : State) (t : Tile) (sup : Bool) : JobKind → Bool
  | .xst _ _ src len => s.accessOk t sup src.toNat len.toNat false
  | _ => true

/-- A fabric operation leaves the commit queue, or issues as a returning atomic: rows 1 and 2, footprints, edges. -/
def State.releaseFabric (s : State) (t : Tile) (j : Job) : Job :=
  if j.kind.fabricMalformed then t.endWith j 9
  else if !s.xstSourceOk t j.sup j.kind then t.endWith j 2
  else
    let j := match j.kind with
      | .xst dva fva src len =>
        { j with
          state := .waiting
          reads := [(apertureVa src.toNat, apertureVa src.toNat + len.toNat)]
          writes := [(dva, dva + len.toNat), (fva, fva + 8)] }
      | .xatom _ va _ _ => { j with state := .waiting, reads := [(va, va + 4)], writes := [(va, va + 4)] }
      | _ => { j with state := .waiting }
    { j with edges := t.edgesFor j }

/-! ### Effect -/

/-- The device that holds a location: none for this one. -/
def Loc.home : Loc → Option Nat
  | .remote d _ => some d
  | _ => none

/-- Rows 4 to 6 of R351, once every page is translated, and an uncorrectable word of the source, of the flag or of the atomic's word
(R142, R179, R428). The scale-out aperture serves no fabric operation (R16). -/
def State.fabricStatus (s : State) (t : Tile) (j : Job) : Nat :=
  let ts := t.jobTouches j
  let denied := ts.any fun p => match s.tlbFind t j p.1 with
    | some e => !(s.locOk t j.sup e p.1 p.2 && (e.loc p.1).isMemory)
    | none => true
  let homes := ts.filterMap fun p => (s.jobLoc t j p.1).map Loc.home
  let dataHomes := match j.kind with
    | .xst _ _ _ len => homes.take len.toNat
    | _ => homes
  let badAt (va n : Nat) : Bool := (List.range n).any fun i => ((s.jobLoc t j (va + i)).map (s.locBad t)).getD false
  let bad := match j.kind with
    | .xst _ fva src len => ((List.range len.toNat).any fun i => s.locBad t (.chip (src.toNat + i))) || badAt fva 8
    | .xatom _ va _ _ => badAt va 4
    | _ => false
  if denied then 2
  else if dataHomes.any fun h => decide (some h ≠ dataHomes.head?) then 9
  else if homes.any fun h => match h with
      | some d => !s.reachable d
      | none => false then 8
  else if bad then 4
  else 0

/-! ### Migration (R242, R243) -/

/-- The memory of a class that pages migrate between, and an address in it. -/
def Device.classMem (d : Device) (cls dev a : Nat) : Option (Mem × Nat) :=
  match cls with
  | 0 => if a < lpddrBytes then some (d.lpddr, a) else none
  | 1 => some (d.remote, remoteAddr dev a)
  | 2 => some (d.hostMem, a)
  | _ => none

def Device.setClassMem (d : Device) (cls : Nat) (m : Mem) : Device :=
  match cls with
  | 0 => { d with lpddr := m }
  | 1 => { d with remote := m }
  | _ => { d with hostMem := m }

/-- The table at level `lv` that serves an address, from a table at level `level`. -/
def tableGo (mem : Mem) (pasid va lv : Nat) : Nat → Nat → Option Nat
  | level, table =>
    if level = lv then some table
    else
      match decodePte pasid va level (mem.readNat (table + 8 * (va / 2 ^ (12 + 9 * level) % 512)) 8), level with
      | .table b, l + 1 => tableGo mem pasid va lv l b
      | _, _ => none

/-- The bits of a leaf (R238, R239). -/
def TlbEntry.pte (e : TlbEntry) : Nat :=
  3 + e.cls % 4 * 4 + (if e.rd then 16 else 0) + (if e.w then 32 else 0) + (if e.cnt then 64 else 0) +
    (e.base / 2 ^ 11 + 2 ^ e.t - 1) % 2 ^ 40 * 2 ^ 12 + (if e.cls = 1 then e.dev % 4096 * 2 ^ 52 else 0)

/-- Every replica of a leaf rewritten. -/
def rewriteLeaf (mem : Mem) (table : Nat) (e : TlbEntry) : Mem :=
  let lv := e.t / 9
  let n := 2 ^ (e.t - 9 * lv)
  let first := e.va / 2 ^ (12 + 9 * lv) % 512
  (List.range n).foldl (fun m i => m.writeNat (table + 8 * (first + i)) 8 e.pte) mem

def TlbEntry.meets (e : TlbEntry) (pasid lo hi : Nat) : Bool :=
  decide (e.pasid = pasid) && decide (e.va < hi) && decide (lo < e.va + 2 ^ (12 + e.t))

/-- Every translator of the device drops its entries of a PASID over [lo, hi) (R243). -/
def State.invalidate (s : State) (pasid lo hi : Nat) : State :=
  let keep (l : List TlbEntry) : List TlbEntry := l.filter fun e => !e.meets pasid lo hi
  let tile (t : Tile) : Tile :=
    { t with tlb := keep t.tlb, jobs := t.jobs.map fun (j : Job) => { j with xl := keep j.xl } }
  { s with
    tile := tile s.tile
    others := s.others.map tile
    dev := { s.dev with
      l2tlb := s.dev.l2tlb.filter fun p => !p.2.meets pasid lo hi
      xtlb := keep s.dev.xtlb } }

/-- The page that holds an address moves (R242): its bytes, the leaves rewritten, and every translator drops it. None where no
leaf maps the address, or where the new place cannot hold the page. -/
def State.migrate (s : State) (pasid va cls dev base : Nat) : Option State :=
  match s.walk pasid va, s.ptroot pasid with
  | some e, some root =>
    let n := 2 ^ (12 + e.t)
    if base % n ≠ 0 ∨ 2 < cls ∨ 2 ^ 51 < base + n ∨ (cls = 0 ∧ lpddrBytes < base + n) then none
    else
      match s.dev.classMem e.cls e.dev e.base, s.dev.classMem cls dev base, tableGo s.dev.lpddr pasid va (e.t / 9) 4 root with
      | some (src, lo), some (dst, dest), some table =>
        let d := s.dev.setClassMem cls (dst.move src lo dest n)
        let leaf := { e with base := base, cls := cls, dev := dev }
        some ({ s with dev := { d with lpddr := rewriteLeaf d.lpddr table leaf } }.invalidate pasid e.va (e.va + n))
      | _, _, _ => none
  | _, _ => none

/-! ### Remote atomics and page ownership (R348) -/

/-- The record of a page; one that no list holds is in HOME mode and has met no atomic. -/
def State.pageMode (s : State) (pasid page home : Nat) : PageMode :=
  (s.dev.pages.find? fun p => decide (p.pasid = pasid) && decide (p.page = page)).getD ⟨pasid, page, home, none, 0xFFFF, 0, 0⟩

def State.putPage (s : State) (p : PageMode) : State :=
  { s with dev := { s.dev with
    pages := p :: s.dev.pages.filter fun q => !(decide (q.pasid = p.pasid) && decide (q.page = p.page)) } }

/-- A change of mode: the page moves to a device, with event 0x34 (R242, R347, R348). -/
def State.changeMode (s : State) (p : PageMode) (mode dev : Nat) : Option State :=
  (s.migrate p.pasid p.page 1 dev (Config.pagePlace p.pasid p.page dev)).map fun s =>
    (s.putPage p).srcEvent 0x7000 0x34 (s.ctxOfPasid p.pasid)
      [nat32 (mode + (p.owner.getD s.dev.devid.toNat) * 2 ^ 16), nat32 (p.page / 2 ^ 25)]

/-- A change of mode as the migration engine makes it, once its copies agree (R19); nothing where the page cannot move. -/
def State.moveMode (s : State) (p : PageMode) (mode dev : Nat) : State :=
  if (s.changeMode p mode dev).isSome then s.applied .migration fun s => (s.changeMode p mode dev).getD s else s

/-- The counters of the page that a remote atomic reaches, once this device, its executor, has performed an atomic that `d`
issued: at the page's home (HOME), or as its owner. -/
def State.pageAtomic (s : State) (pasid page d : Nat) : State :=
  let own := s.dev.devid.toNat
  let p := s.pageMode pasid page own
  if p.home = own then
    let run0 := if p.owner.isSome then 0 else p.run
    let run := if d = p.last then run0 + 1 else 1
    let q := { p with owner := none, last := d, run := run }
    if s.dev.xrun.toNat % 2 ^ 16 ≤ run ∧ d ≠ own ∧ s.dev.xrun.toNat % 2 ^ 16 ≠ 0 then
      (s.putPage q).moveMode { q with owner := some d, cont := 0 } 1 d
    else s.putPage q
  else if d = own then s.putPage { p with owner := some own, cont := p.cont - 1 }
  else
    let q := { p with owner := some own, cont := p.cont + 1 }
    if max 1 (s.dev.xcont.toNat % 2 ^ 16) ≤ q.cont then
      (s.putPage q).moveMode { q with owner := none, run := 0, cont := 0 } 0 p.home
    else s.putPage q

/-- A page whose atomics another device performs: its home, which that device or another may be, is remembered, so that the page is
known as owned should it come here. -/
def State.pageElsewhere (s : State) (pasid page dev : Nat) : State :=
  s.putPage (s.pageMode pasid page (Config.pageHome pasid page dev))

/-- A 32-bit word at four translated bytes. -/
def State.jobWord (s : State) (t : Tile) (j : Job) (va : Nat) : Word :=
  BitVec.ofNat 32 (natOfBytes ((List.range 4).map fun i => s.jobByte t j [] (va + i)))

def State.jobPutNat (s : State) (t : Tile) (j : Job) (va n v : Nat) : State :=
  (List.range n).foldl (fun s i => s.jobPut t j (va + i) (v / 256 ^ i % 256) 255) s

/-- What an `xst` sends: its data with the flag to another home, else an increase of a flag with another home. -/
def State.xstBodies (s : State) (t : Tile) (j : Job) (dva fva : Nat) (bytes : List Byte) : Option (Nat × List FlitBody) :=
  match s.devOf t j dva, s.devOf t j fva with
  | some d, _ => some (d, withData { t.command j 0 with flag := fva } dva bytes)
  | none, some d => some (d, t.increase j fva 1)
  | none, none => none

/-- The data of an `xst` written. -/
def State.putXst (s : State) (t : Tile) (j : Job) (dva : Nat) (bytes : List Byte) : State :=
  bytes.zipIdx.foldl (fun s b => s.jobPut t j (dva + b.2) b.1.toNat 255) s

/-- The flag of an `xst` increased. -/
def State.raiseFlag (s : State) (t : Tile) (j : Job) (fva : Nat) : State :=
  s.jobPutNat t j fva 8 ((natOfBytes ((List.range 8).map fun i => s.jobByte t j [] (fva + i)) + 1) % 2 ^ 64)

/-- `xst` goes on or reaches its end (R352): its data, then the flag increment, then the status. Data that is here is written
before the increment of a flag elsewhere is sent; where the data is elsewhere, its home increments the flag, and does so here by a
command of its own when the flag is here. -/
def State.completeXst (s : State) (phys : Nat) (j : Job) (dva fva : Nat) (src len : Word) : State :=
  let t := s.getTile phys
  let bytes := (List.range len.toNat).map fun i => s.mapByte t.ctx t.ltile (src.toNat + i)
  let far := (s.devOf t j dva).isSome
  if j.phase = 0 then
    let st := s.fabricStatus t j
    if st ≠ 0 then s.freeJob phys j st
    else
      let s1 := if far then s else s.putXst t j dva bytes
      match s.xstBodies t j dva fva bytes with
      | some x =>
        let r := s1.sendAll [x]
        r.1.modTile phys (·.setJob { j with acks := r.2, phase := 1 })
      | none => (s1.raiseFlag t j fva).freeJob phys j 0
  else if !j.acks.isEmpty then s
  else
    let s1 := if far then s.putXst t j dva bytes else s
    (if (s.devOf t j fva).isSome then s1.raiseFlag t j fva else s1).freeJob phys j 0

/-- A returning atomic's results land (R353). -/
def State.landAtomic (s : State) (phys : Nat) (j : Job) (old : Word) (status : Nat) : State :=
  let t := s.getTile phys
  s.putTile ((t.landWaiting (.xold j.sq) false (if status = 0 then old else 0)).landWaiting (.xstatus j.sq) true
    (nat32 status))

/-- The command of a remote atomic (R340). -/
def Tile.atomCommand (t : Tile) (j : Job) (op : AtomOp) (va : Nat) (v e : Word) : List FlitBody :=
  let c := { t.command j (match op with
    | .add => 3
    | .incb => 4
    | .cas => 5) with va := va, len := 4 }
  [(if op = AtomOp.cas then { c with opa := e.toNat, opb := v.toNat } else { c with opa := v.toNat }).body]

/-- A returning atomic's status lands in its register and nowhere else; one that returns nothing shows a non-zero status in event
0x11 (R353). -/
def State.endAtomic (s : State) (phys : Nat) (j : Job) (old : Word) (status : Nat) : State :=
  let returns := (s.getTile phys).loads.any fun l => decide (l.src = .xold j.sq)
  (s.landAtomic phys j old status).freeJob phys (if returns then { j with tok := some 0 } else j) status

/-- A remote atomic acts once at its executor (R348, R353). -/
def State.completeXatom (s : State) (phys : Nat) (j : Job) (op : AtomOp) (va : Nat) (v e : Word) : State :=
  let t := s.getTile phys
  let pasid := t.pasid.toNat
  let page := ((s.tlbFind t j va).map (·.va)).getD va
  let old := s.jobWord t j va
  let act : State := s.jobPutNat t j va 4 (op.apply old v e).toNat
  if j.phase = 0 then
    let st := s.fabricStatus t j
    if st ≠ 0 then s.endAtomic phys j 0 st
    else match s.devOf t j va with
      | some d =>
        let r := s.sendAll [(d, t.atomCommand j op va v e)]
        (r.1.pageElsewhere pasid page d).modTile phys (·.setJob { j with acks := r.2, phase := 1 })
      | none => (act.pageAtomic pasid page s.dev.devid.toNat).endAtomic phys j old 0
  else if !j.acks.isEmpty then s
  else act.endAtomic phys j old 0

end Sys2Proof.Machine
end

