-- ==== Sys2Proof/Machine/Trees.lean ====
section
/-! DEFINITION. Hydin trees as data (R305 to R316, R320 to R327): descriptors and their checks, child order, combining,
posts at release, delivery, and freeing. -/

namespace Sys2Proof.Machine

/-! ### Segment indices (R312) -/

/-- b follows a in serial-number order. -/
def follows (b a : Nat) : Bool :=
  let d := (b + 2 ^ 32 - a % 2 ^ 32) % 2 ^ 32
  decide (1 ≤ d) && decide (d < 2 ^ 31)

/-! ### Formats (R310) -/

/-- Bytes of an input element. -/
def tInSize (oper tfmt : Nat) : Nat :=
  if oper = 3 then 1 else match tfmt with
    | 0 => 4
    | 1 => 2
    | 2 => 2
    | 3 => 4
    | 4 => 1
    | _ => 2

def tOutSize (oper tfmt : Nat) : Nat :=
  if oper = 3 then 1 else match tfmt with
    | 1 => 2
    | 2 => 2
    | _ => 4

/-- The carry size of R328. -/
def tCarrySize (tfmt : Nat) : Nat :=
  match tfmt with
  | 0 => 4
  | 1 => 2
  | 2 => 4
  | _ => 8

/-- An input element converted exactly to the carry: float carries as bit patterns, exact carries as integers. -/
def tToCarry (oper tfmt x : Nat) : Int :=
  if oper = 3 then x else match tfmt with
    | 2 => (x * 65536 : Nat)
    | 3 => sextN 32 x
    | 4 => sextN 8 x
    | 5 => sextN 16 x
    | _ => x

def tCarryFmt (tfmt : Nat) : Option FFmt :=
  match tfmt with
  | 0 => some .f32
  | 1 => some .bf16
  | 2 => some .f32
  | _ => none

/-- `combine(v, x)` of R311. -/
def tCombine (oper tfmt : Nat) (v x : Int) : Int :=
  match oper, tCarryFmt tfmt with
  | 1, some f => (f.minmax true v.toNat x.toNat).bits
  | 5, some f => (f.minmax true v.toNat x.toNat).bits
  | 2, some f => (f.minmax false v.toNat x.toNat).bits
  | 1, none => max v x
  | 5, none => max v x
  | 2, none => min v x
  | _, some f => (f.add .rne v.toNat x.toNat).bits
  | _, none => v + x

/-- `out(v)` of R311, as the bits of an output element: NaN outputs are canonical. -/
def tOut (oper tfmt : Nat) (v : Int) : Nat :=
  if oper = 3 then v.toNat else match tfmt with
    | 2 => (FFmt.f32.convert .bf16 .rne false v.toNat).bits
    | 0 => canonNan .f32 v.toNat
    | 1 => canonNan .bf16 v.toNat
    | _ => lowBits 32 (satI 32 v).1

/-- Elementwise combination; positions that one side lacks come from the other alone (R311, R312). -/
def tMerge (oper tfmt : Nat) : List Int → List Int → List Int
  | [], ys => ys
  | xs, [] => xs
  | x :: xs, y :: ys => tCombine oper tfmt x y :: tMerge oper tfmt xs ys

/-! ### Structure (R307, R308) -/

/-- A child of a node: a member (by its place in the member array) or a node. -/
inductive TChild where
  | leaf (i : Nat)
  | inner (k : Nat)
deriving DecidableEq, Repr

/-- The nodes below a node, itself included. -/
def TreeDesc.below (d : TreeDesc) : Nat → Nat → List Nat
  | 0, n => [n]
  | fuel + 1, n =>
    n :: ((List.range d.nodes.length).filter fun k => decide (d.nodes.getD k 0 = n)).flatMap fun k => d.below fuel k

/-- The members under a node. -/
def TreeDesc.leaves (d : TreeDesc) (n : Nat) : List Member :=
  let ns := d.below d.nodes.length n
  d.members.filter fun m => ns.contains m.parent

def minRank (l : List Member) : Nat := l.foldl (fun a m => min a m.rank) 0x10000

/-- An element put into a list sorted by key. -/
def insertKey {α : Type} (key : α → Nat) : List α → α → List α
  | [], a => [a]
  | b :: l, a => if key a ≤ key b then a :: b :: l else b :: insertKey key l a

/-- The children of a node in child order (R308). -/
def TreeDesc.children (d : TreeDesc) (n : Nat) : List TChild :=
  let ls := (List.range d.members.length).filterMap fun i =>
    match d.members[i]? with
    | some m => if m.parent = n then some (m.rank, TChild.leaf i) else none
    | none => none
  let ks := (List.range d.nodes.length).filterMap fun k =>
    if d.nodes.getD k 0 = n then some (minRank (d.leaves k), TChild.inner k) else none
  ((ls ++ ks).foldl (insertKey Prod.fst) []).map Prod.snd

def TreeDesc.top (d : TreeDesc) : Nat := d.nodes.findIdx fun p => decide (p = 0xFFFF)

/-- Whether every node reaches the top. -/
def TreeDesc.acyclic (d : TreeDesc) : Bool :=
  let reached := d.below d.nodes.length d.top
  (List.range d.nodes.length).all reached.contains

/-- The conditions of R307. -/
def TreeDesc.valid (d : TreeDesc) : Bool :=
  let n := d.members.length
  let ranks := d.members.map (·.rank)
  decide (1 ≤ n) && decide (n ≤ 65536) && decide (1 ≤ d.nodes.length) && decide (d.nodes.length ≤ 32768) &&
  (List.range n).all ranks.contains && decide ((d.members.map fun m => (m.dev, m.tile)).eraseDups.length = n) &&
  decide (d.root < n) && d.members.all (fun m => decide (m.parent < d.nodes.length)) &&
  d.nodes.all (fun p => decide (p < d.nodes.length) || decide (p = 0xFFFF)) &&
  decide ((d.nodes.filter fun p => decide (p = 0xFFFF)).length = 1) && d.acyclic &&
  (List.range d.nodes.length).all fun k =>
    let c := (d.children k).length
    decide (1 ≤ c) && decide (c ≤ 64)

/-- A descriptor as read from memory (R306). -/
structure TreeHead where
  oper : Nat
  tfmt : Nat
  seglog : Nat
  nmem : Nat
  nnode : Nat
  root : Nat
  mema : Nat
  nodea : Nat
  eff : Nat
deriving DecidableEq, Repr

def TreeHead.ofBytes (bs : List Byte) : TreeHead :=
  let w (i : Nat) : Nat := natOfBytes ((bs.drop (4 * i)).take 4)
  { oper := w 0 % 16, tfmt := w 0 / 256 % 8, seglog := w 0 / 65536 % 32, nmem := w 1, nnode := w 2, root := w 3, mema := w 4,
    nodea := w 5, eff := w 6 }

/-- The ranges of R306, and the operators a format accepts (R310). -/
def TreeHead.valid (h : TreeHead) : Bool :=
  decide (h.oper < 6) && decide (h.tfmt < 6) && decide (6 ≤ h.seglog) && decide (h.seglog ≤ 16) && decide (1 ≤ h.nmem) &&
  decide (h.nmem ≤ 65536) && decide (1 ≤ h.nnode) && decide (h.nnode ≤ 32768) &&
  !((h.oper = 1 || h.oper = 2 || h.oper = 5) && h.tfmt = 2) && h.mema % 8 = 0 && h.nodea % 8 = 0

/-- The arrays of a descriptor (R307), read through `rd`. -/
def TreeHead.desc (h : TreeHead) (rd : Nat → Byte) : TreeDesc :=
  let w (a : Nat) : Nat := natOfBytes ((List.range 4).map fun i => rd (a + i))
  { eff := 0
    root := h.root
    members := (List.range h.nmem).map fun i =>
      let w0 := w (h.mema + 8 * i)
      let w1 := w (h.mema + 8 * i + 4)
      ⟨w0 % 4096, w0 / 4096 % 512, w1 % 65536, w1 / 65536⟩
    nodes := (List.range h.nnode).map fun k => w (h.nodea + 8 * k) % 65536 }

/-! ### Live trees and handles (R305) -/

def State.tree? (s : State) (idx : Nat) : Option Tree := s.dev.trees.find? fun t => decide (t.idx = idx)

/-- The generation of a table entry: 1 until it is first freed. -/
def State.gen (s : State) (idx : Nat) : Nat := ((s.dev.gens.find? fun p => decide (p.1 = idx)).map Prod.snd).getD 1

def State.handle (s : State) (idx : Nat) : Word := nat32 (idx + s.gen idx * 2 ^ 12)

/-- The live tree of a handle for a context (R305). -/
def State.liveTree (s : State) (ctx : Nat) (h : Word) : Option Tree :=
  match s.tree? (h.toNat % 4096) with
  | some t => if t.ctx = ctx ∧ s.gen t.idx = h.toNat / 4096 then some t else none
  | none => none

def State.setTree (s : State) (t : Tree) : State :=
  { s with dev := { s.dev with trees := s.dev.trees.map fun x => if x.idx = t.idx then t else x } }

/-- The descriptor in force for a segment (R324): the newest whose EFF it has reached, else the oldest. -/
def Tree.descFor (t : Tree) (seg : Nat) : TreeDesc :=
  (t.descs.reverse.find? fun d => decide (d.eff ≤ seg)).getD (t.descs.headD ⟨0, 0, [], []⟩)

/-- Data of a segment below b is still on its way, at a node, or to be sent or delivered. -/
def Tree.busyBelow (t : Tree) (b : Nat) : Bool :=
  t.flight.any (fun f => decide (f.seg < b)) || t.posts.any (fun p => decide (p.seg < b)) ||
  t.empties.any (fun e => decide (e.2.2 < b)) ||
  t.nodes.any fun x => x.segs.any (fun g => decide (g.seg < b)) || x.held.any fun f => decide (f.seg < b)

/-- The index nearest to a base in serial order, without wrapping (R312). -/
def unwrap (base seg : Nat) : Nat :=
  let d := (seg + 2 ^ 32 - base % 2 ^ 32) % 2 ^ 32
  if d < 2 ^ 31 then base + d else base + d - 2 ^ 32

def Member.is (m : Member) (dev tile : Nat) : Bool := decide (m.dev = dev) && decide (m.tile = tile)

/-- The previous index of a member that has released no post, 0xFFFF_FFFF, without wrapping: the one nearest to where the first
descriptor with that member comes into force (R312, R324). -/
def Tree.firstPrev (t : Tree) (dev tile : Nat) : Nat :=
  max 0xFFFFFFFF (((t.descs.find? fun d => d.members.any (·.is dev tile)).map fun d => unwrap d.eff 0xFFFFFFFF).getD 0)

/-- The previous index of a member, without wrapping (R312). -/
def Tree.prevOf (t : Tree) (dev tile : Nat) : Nat :=
  ((t.prev.find? fun p => decide (p.1 = (dev, tile))).map Prod.snd).getD (t.firstPrev dev tile)

def Tree.setPrev (t : Tree) (dev tile seg : Nat) : Tree :=
  { t with prev := ((dev, tile), seg) :: t.prev.filter fun p => decide (p.1 ≠ (dev, tile)) }

/-- The segment that a member's post names. -/
def Tree.segOf (t : Tree) (dev tile seg : Nat) : Nat := unwrap (t.prevOf dev tile) seg

/-- Every segment of a descriptor below the EFF of the next has left the top node: its records may go (R324). -/
def Tree.oldDone (t : Tree) (d next : TreeDesc) : Bool :=
  !t.busyBelow next.eff && d.members.all fun m => decide (next.eff ≤ t.prevOf m.dev m.tile + 1)

/-- Whether the records of the descriptor with this EFF may go. -/
def Tree.effDone (t : Tree) (eff : Nat) : Bool :=
  (t.descs.zip (t.descs.drop 1)).any fun p => decide (p.1.eff = eff) && t.oldDone p.1 p.2

/-- The records of descriptors whose segments have all left the top node go. -/
def Tree.pruneNodes (t : Tree) : Tree := { t with nodes := t.nodes.filter fun x => !t.effDone x.eff }

/-! ### Placement and slots (R308, R315) -/

/-- The number of a router: L1 by tile, L2 by cluster, the L3 spine router and the port combiner that Mynyx chooses. -/
def routerL2 (cluster : Nat) : Nat := 512 + cluster
def routerL3 : Nat := 544
def routerPort : Nat := 552

/-- In the place of a router of another device, which holds the node (R308). -/
def routerRemote : Nat := 1024

def routerCap (r : Nat) : Nat :=
  if r < 512 then 64 else if r < 544 then 256 else if r < 552 then 1024 else if r < routerRemote then 256 else 2 ^ 32

/-- The router of a node (R308). -/
def State.placeNode (s : State) (ctx : Nat) (d : TreeDesc) (n : Nat) : Nat :=
  let ms := d.leaves n
  let phys (m : Member) : Nat := ((s.logical ctx m.tile).map (·.phys)).getD 0
  let low := ms.foldl (fun a m => if m.rank < a.rank then m else a) (ms.headD ⟨0, 0, 0, 0⟩)
  if low.dev ≠ s.dev.devid.toNat then routerRemote
  else if ms.any fun m => decide (m.dev ≠ low.dev) then routerPort
  else if ms.all fun m => decide (phys m / 16 = phys low / 16) then phys low
  else if ms.all fun m => decide (phys m / 256 = phys low / 256) then routerL2 (phys low / 16)
  else routerL3

/-- The record of a node of the descriptor with an EFF (R324). -/
def Tree.node (t : Tree) (eff n : Nat) : NodeState :=
  (t.nodes.find? fun x => decide (x.node = n) && decide (x.eff = eff)).getD ⟨n, eff, 0, false, false, 0, [], []⟩

def Tree.setNode (t : Tree) (x : NodeState) : Tree :=
  { t with nodes := x :: t.nodes.filter fun y => !(decide (y.node = x.node) && decide (y.eff = x.eff)) }

/-- The record of the node that data is on its way to. -/
def Tree.nodeFor (t : Tree) (d : TreeData) : NodeState := t.node (t.descFor d.seg).eff d.node

/-- The records present at a router, with the index of their tree. -/
def State.present (s : State) (r : Nat) : List (Nat × NodeState) :=
  s.dev.trees.flatMap fun t => t.nodes.filterMap fun x =>
    if x.present = true ∧ x.router = r then some (t.idx, x) else none

/-- Room for one more record at a router: the least recently used idle slot is evicted, else the least recently used node's
state is spilled to the table entry, where it stays with the tree (R315). -/
def State.makeRoom (s : State) (r : Nat) : State :=
  let ps := s.present r
  if ps.length < routerCap r then s
  else
    let pick := (ps.filter fun p => p.2.segs.isEmpty)
    let cand := if pick.isEmpty then ps else pick
    match cand.foldl (insertKey fun p => p.2.used) [] with
    | [] => s
    | v :: _ =>
      match s.tree? v.1 with
      | some t => s.setTree (t.setNode { v.2 with present := false })
      | none => s

def Tree.descAt (t : Tree) (eff : Nat) : TreeDesc := (t.descs.find? fun d => decide (d.eff = eff)).getD ⟨0, 0, [], []⟩

/-- A node's record is installed in its router (R315). -/
def State.installNode (s : State) (idx eff n : Nat) : State :=
  match s.tree? idx with
  | none => s
  | some t =>
    let r := s.placeNode t.ctx (t.descAt eff) n
    let s := s.makeRoom r
    match s.tree? idx with
    | none => s
    | some t =>
      let s := s.setTree (t.setNode { t.node eff n with router := r, present := true, missing := false, used := s.dev.stamp })
      { s with dev := { s.dev with stamp := s.dev.stamp + 1 } }

/-! ### Combining (R311, R313, R314) -/

/-- Whether any data of a segment is at or on its way to these nodes. -/
def Tree.busyAt (t : Tree) (ns : List Nat) (seg : Nat) : Bool :=
  t.flight.any (fun f => ns.contains f.node && decide (f.seg = seg)) ||
  t.nodes.any fun x => ns.contains x.node &&
    (x.segs.any (fun g => decide (g.seg = seg)) || x.held.any fun f => decide (f.seg = seg))

/-- Whether a member has passed a segment without data for it still to come: an empty contribution (R312). -/
def Tree.passed (t : Tree) (m : Member) (seg : Nat) : Bool :=
  decide (seg ≤ t.prevOf m.dev m.tile) && !t.empties.contains (m.dev, m.tile, seg) &&
  !(t.posts.any fun p => decide (p.dev = m.dev) && decide (p.tile = m.tile) && decide (p.seg = seg) && !p.read)

/-- Whether child c (its place in child order being i) of node n supplies nothing to a segment. -/
def Tree.childEmpty (t : Tree) (d : TreeDesc) (n i : Nat) (c : TChild) (seg : Nat) : Bool :=
  let coming := t.flight.any (fun f => decide (f.node = n) && decide (f.child = i) && decide (f.seg = seg)) ||
    (t.node d.eff n).held.any fun f => decide (f.child = i) && decide (f.seg = seg)
  !coming &&
  match c with
  | .leaf k => match d.members[k]? with
    | some m => t.passed m seg
    | none => true
  | .inner k => (d.leaves k).all (fun m => t.passed m seg) && !t.busyAt (d.below d.nodes.length k) seg

/-- Whether data of a segment before `seg` is at a node of its descriptor, below it, or still to be sent by a member under it: segments
leave a node in index order (R313); those of another descriptor have nodes of their own (R324). -/
def Tree.earlierComing (t : Tree) (n seg : Nat) : Bool :=
  let d := t.descFor seg
  let before (g : Nat) : Bool := decide (g < seg) && decide ((t.descFor g).eff = d.eff)
  let under (k : Nat) : Bool := (d.below d.nodes.length n).contains k
  let member (dev tile : Nat) : Bool := (d.leaves n).any (·.is dev tile)
  t.flight.any (fun f => before f.seg && under f.node) ||
  (t.nodes.any fun x => x.segs.any (fun g => before g.seg && under x.node) || x.held.any fun f => before f.seg && under f.node) ||
  t.empties.any (fun e => before e.2.2 && member e.1 e.2.1) ||
  t.posts.any fun p => !p.read && before p.seg && member p.dev p.tile

/-- One step of one node: a child taken in its turn, or the value passed on in index order. None when it must wait. -/
def Tree.nodeStep (t : Tree) (x : NodeState) (g : SegState) : Option Tree :=
  let d := t.descFor g.seg
  let cs := d.children x.node
  let put (g' : SegState) : Tree :=
    t.setNode { x with segs := x.segs.map fun h => if h.seg = g.seg then g' else h }
  match cs[g.taken]? with
  | some c =>
    match g.raw.find? fun r => decide (r.1 = g.taken) with
    | some r => some (put { g with
        taken := g.taken + 1
        part := tMerge t.oper t.tfmt g.part r.2
        raw := g.raw.filter fun q => decide (q.1 ≠ g.taken)
        kept := g.kept ++ [r] })
    | none => if t.childEmpty d x.node g.taken c g.seg then some (put { g with taken := g.taken + 1 }) else none
  | none =>
    if !t.earlierComing x.node g.seg then
      let t := t.setNode { x with segs := x.segs.filter fun h => decide (h.seg ≠ g.seg) }
      let up := d.nodes.getD x.node 0xFFFF
      if up = 0xFFFF then some { t with results := t.results ++ [(g.seg, g.part)] }
      else
        let ci := (d.children up).findIdx fun c => decide (c = .inner x.node)
        some { t with flight := t.flight ++ [⟨up, ci, g.seg, g.part⟩] }
    else none

/-- The first step that some node present in its router can take. -/
def Tree.step1 (t : Tree) : Option Tree :=
  t.nodes.findSome? fun x =>
    if x.present = true then
      x.segs.findSome? fun g => t.nodeStep x g
    else none

/-- Every node takes the steps it can. -/
def Tree.settleGo : Nat → Tree → Tree
  | 0, t => t
  | n + 1, t =>
    match t.step1 with
    | some t' => Tree.settleGo n t'
    | none => t

/-- A bound on the steps that are possible without new data. -/
def Tree.work (t : Tree) : Nat := (t.nodes.foldl (fun a x => a + 66 * (x.segs.length + 1)) 0) + 4 * t.flight.length

/-- Frozen, or being frozen: no combine takes place (R325). -/
def Tree.still (t : Tree) : Bool := t.frozen || t.freezing.isSome

def Tree.settle (t : Tree) : Tree := if t.still then t else Tree.settleGo t.work t

/-- The flits of a segment that leaves its node for the child routers' outputs again. -/
def SegState.flits (g : SegState) (n : Nat) : List TreeData := (g.kept ++ g.raw).map fun r => ⟨n, r.1, g.seg, r.2⟩

/-- Data reaches a node whose record is present: held as raw child data until its turn. A fifth segment waits at the child's
output (R313): of the five the one with the highest index, since an earlier one must leave the node before it. -/
def Tree.accept (t : Tree) (f : TreeData) : Option Tree :=
  let x := t.nodeFor f
  let new : SegState := ⟨f.seg, 0, [], [(f.child, f.data)], []⟩
  if x.segs.any fun g => decide (g.seg = f.seg) then
    some (t.setNode { x with segs := x.segs.map fun g =>
      if g.seg = f.seg then { g with raw := g.raw ++ [(f.child, f.data)] } else g })
  else if x.segs.length < 4 then some (t.setNode { x with segs := x.segs ++ [new] })
  else
    let last := x.segs.foldl (fun a g => max a g.seg) 0
    if last < f.seg then none
    else
      let out := (x.segs.filter fun g => decide (g.seg = last)).flatMap fun g => g.flits x.node
      some { t.setNode { x with segs := x.segs.filter (fun g => decide (g.seg ≠ last)) ++ [new] } with flight := t.flight ++ out }

/-- Held flits replayed in their order of arrival; one that a node cannot take yet waits as a flit again. -/
def replayGo : List TreeData → Tree → Tree
  | [], t => t
  | d :: l, t =>
    match t.accept d with
    | some t' => replayGo l t'.settle
    | none => replayGo l { t with flight := t.flight ++ [d] }

/-- A node's record installed, with the flits that waited for it. -/
def State.refillNode (s : State) (idx eff n : Nat) : State :=
  let s := s.installNode idx eff n
  match s.tree? idx with
  | none => s
  | some t =>
    let held := (t.node eff n).held
    s.setTree (replayGo held (t.setNode { t.node eff n with held := [] }).settle)

/-- Every node of the descriptors of a tree that are still in use is placed, and the flits that waited for it are replayed (R308,
R315, R316). -/
def State.placeAll (s : State) (idx : Nat) : State :=
  match s.tree? idx with
  | none => s
  | some t =>
    (t.descs.filter fun d => !t.effDone d.eff).foldl (fun s d =>
      (List.range d.nodes.length).foldl (fun s k => s.refillNode idx d.eff k) s) s

/-- The trees of a context are placed again, since its mapping of logical to physical tiles has changed (R308, R24); a frozen one
is placed when it is thawed. -/
def State.placeTrees (s : State) (ctx : Nat) : State :=
  (s.dev.trees.filter fun t => decide (t.ctx = ctx) && !t.still).foldl (fun s t => s.placeAll t.idx) s

/-! ### Posts (R309, R318 to R321) -/

/-- A captured post card (R318). -/
structure PostCard where
  seg : Nat
  src : Nat
  rcv : Nat
  len : Nat
  bar : Nat
deriving DecidableEq, Repr

def PostCard.ofWords (l : List Word) : PostCard :=
  let w (i : Nat) : Nat := (l.getD i 0).toNat
  ⟨w 0, w 1, w 2, w 3, w 4⟩

def Tree.isRoot (t : Tree) (seg dev tile : Nat) : Bool :=
  let d := t.descFor seg
  d.members.any fun m => m.is dev tile && decide (m.rank = d.root)

def Tree.contributes (t : Tree) (seg dev tile : Nat) : Bool := t.oper ≠ 3 || t.isRoot seg dev tile

/-- Whether a member receives the result of its post (R309). -/
def Tree.receives (t : Tree) (seg dev tile rcv : Nat) : Bool :=
  rcv ≠ 0 && (t.oper = 3 || t.oper = 4 || t.oper = 5 || t.isRoot seg dev tile)

/-- The largest result a segment can have (R320). -/
def Tree.maxResult (t : Tree) : Nat := 2 ^ t.seglog / tInSize t.oper t.tfmt * tOutSize t.oper t.tfmt

/-- Bytes of memory, not of a register region, in the domain and the declared scratchpad (R320 row 7). -/
def State.postRange (s : State) (t : Tile) (sup : Bool) (a n : Nat) (write : Bool) : Bool :=
  s.accessOk t sup a n write && inMemory t.ltile a

/-- What a post sends besides its status (R320). -/
inductive PostSend where
  | nothing
  | empty
  | accepted
deriving DecidableEq, Repr

/-- The checks of R320, in order. -/
def State.postCheck (s : State) (t : Tile) (sup : Bool) (h : Word) (cardAddr : Nat) (card : Option (List Word)) : Nat × PostSend :=
  let dev := s.dev.devid.toNat
  match s.liveTree t.ctx h, card with
  | none, _ => (6, .nothing)
  | some tr, card =>
    if cardAddr % 16 ≠ 0 then (9, .nothing)
    else match card with
    | none => (2, .nothing)
    | some l =>
      let c := PostCard.ofWords l
      let tin := tInSize tr.oper tr.tfmt
      let seg := tr.segOf dev t.ltile c.seg
      let contrib := tr.contributes seg dev t.ltile
      let recv := tr.receives seg dev t.ltile c.rcv
      if !((tr.descFor seg).members.any fun m => decide (m.dev = dev) && decide (m.tile = t.ltile)) then (7, .nothing)
      else if !follows c.seg (tr.prevOf dev t.ltile) then (9, .nothing)
      else if (contrib && (c.len = 0 || decide (2 ^ tr.seglog < c.len) || c.len % tin ≠ 0 || c.src % tin ≠ 0)) ||
          (recv && c.rcv % tOutSize tr.oper tr.tfmt ≠ 0) then (9, .empty)
      else if (contrib && !s.postRange t sup c.src c.len false) || (recv && !s.postRange t sup c.rcv tr.maxResult true) ||
          (c.bar ≠ 0 && !(c.bar % 16 = 0 && s.postRange t sup c.bar 16 true && t.barrierRegionOk sup c.bar)) then
        (2, .empty)
      else (0, .accepted)

/-- The place of a member in the child order of its node. -/
def TreeDesc.memberAt (d : TreeDesc) (dev tile : Nat) : Option (Nat × Nat) :=
  let i := d.members.findIdx (·.is dev tile)
  (d.members[i]?).map fun m => (m.parent, (d.children m.parent).findIdx fun c => decide (c = .leaf i))

/-- A member's data leaves for its node. -/
def Tree.send (t : Tree) (dev tile seg : Nat) (data : List Int) : Tree :=
  match (t.descFor seg).memberAt dev tile with
  | some (n, i) => { t with flight := t.flight ++ [⟨n, i, seg, data⟩] }
  | none => t

/-- A member's post with an index below `seg` has still to be sent. -/
def Tree.unsent (t : Tree) (dev tile seg : Nat) : Bool :=
  t.posts.any fun p => decide (p.dev = dev) && decide (p.tile = tile) && !p.read && decide (p.seg < seg)

/-- An empty contribution leaves for its node, behind the member's earlier posts (R319, R320). -/
def Tree.sendEmpty (t : Tree) (dev tile seg : Nat) : Tree :=
  if t.unsent dev tile seg then { t with empties := t.empties ++ [(dev, tile, seg)] } else t.send dev tile seg []

/-- The empty contributions that no earlier post holds back any more leave. -/
def Tree.sendEmpties (t : Tree) : Tree :=
  let go := t.empties.filter fun e => !t.unsent e.1 e.2.1 e.2.2
  go.foldl (fun t e => t.send e.1 e.2.1 e.2.2 []) { t with empties := t.empties.filter fun e => !go.contains e }

/-- A post leaves the commit queue (R319, R320): its checks, its footprints and edges, and its place in the tree. -/
def State.releasePost (s : State) (phys : Nat) (j : Job) (h : Word) : State :=
  let t := s.getTile phys
  let dev := s.dev.devid.toNat
  match s.postCheck t j.sup h j.cardAddr j.card with
  | (st, .nothing) => s.putTile (t.setJob (t.endWith j st))
  | (st, send) =>
    let c := PostCard.ofWords (j.card.getD [])
    match s.liveTree t.ctx h with
    | none => s
    | some tr =>
      let seg := tr.segOf dev t.ltile c.seg
      let tr := tr.setPrev dev t.ltile seg
      if send = .empty then (s.setTree (tr.sendEmpty dev t.ltile seg).settle).putTile (t.setJob (t.endWith j st))
      else
        let recv := tr.receives seg dev t.ltile c.rcv
        let contrib := tr.contributes seg dev t.ltile
        let j := { j with
          state := .waiting
          reads := if contrib then [(apertureVa c.src, apertureVa c.src + c.len)] else []
          writes := if recv then [(apertureVa c.rcv, apertureVa c.rcv + tr.maxResult)] else [] }
        let j := { j with edges := t.edgesFor j }
        let p : Post := ⟨j.slot, dev, t.ltile, seg, c.src, if contrib then c.len else 0, if recv then c.rcv else 0,
          if recv then c.bar else 0, false, true⟩
        (s.setTree { tr with posts := tr.posts ++ [p] }.settle).putTile (t.setJob j)

/-- A contribution's elements in the carry. -/
def tElems (oper tfmt : Nat) (bs : List Byte) : List Int :=
  let n := tInSize oper tfmt
  (List.range (bs.length / n)).map fun i => tToCarry oper tfmt (natOfBytes ((bs.drop (n * i)).take n))

/-- The bytes of a result. -/
def tBytes (oper tfmt : Nat) (vs : List Int) : List Byte := vs.flatMap fun v => bytesOfNat (tOutSize oper tfmt) (tOut oper tfmt v)

/-- The post of a logical tile's job slot. -/
def Post.isIn (p : Post) (tile slot : Nat) : Bool := decide (p.tile = tile) && decide (p.slot = slot)

/-- The post of a tile's job slot that waits in some tree of its context. -/
def State.postOf (s : State) (u : Tile) (slot : Nat) : Option (Tree × Post) :=
  (s.dev.trees.filter fun t => decide (t.ctx = u.ctx)).findSome? fun t => (t.posts.find? (·.isIn u.ltile slot)).map fun p => (t, p)

/-- A saved tile's post has ended: its token lands once the tile is restored (R330). -/
def Tile.endSaved (u : Tile) (tile slot status : Nat) : Tile :=
  if u.ltile = tile then
    match u.job? slot with
    | some j => u.setJob (u.endWith j status)
    | none => u
  else u

/-- A post's token lands and its slot is freed (R321). -/
def State.endPost (s : State) (ctx tile slot status : Nat) : State :=
  match s.logical ctx tile with
  | none => s.modCtx ctx fun c => { c with saved := c.saved.map fun u => u.endSaved tile slot status }
  | some u => match u.job? slot with
    | some j => s.freeJob u.phys j status
    | none => s

/-- Results that no outstanding or future post of a receiver still needs are dropped. -/
def Tree.dropResults (t : Tree) : Tree :=
  { t.pruneNodes with results := t.results.filter fun r =>
      (t.posts.any fun p => decide (p.seg = r.1)) ||
      (t.descFor r.1).members.any fun m => decide (t.prevOf m.dev m.tile < r.1) }

/-- The index of an entry is given up: every post that has not ended ends with a status, and the generation advances
(R305, R327). -/
def State.freeTree (s : State) (idx status : Nat) : State :=
  match s.tree? idx with
  | none => s
  | some t =>
    let s := t.posts.foldl (fun s p => s.endPost t.ctx p.tile p.slot status) s
    let g := s.gen idx
    let g' := if g = 2 ^ 20 - 1 then 1 else g + 1
    { s with dev := { s.dev with
      trees := s.dev.trees.filter fun x => decide (x.idx ≠ idx)
      gens := (idx, g') :: s.dev.gens.filter fun p => decide (p.1 ≠ idx) } }

/-- The bound on a frozen image (R328 selector 3). -/
def Tree.bound (t : Tree) : Nat :=
  let d := t.descs.getLastD ⟨0, 0, [], []⟩
  let c := if t.oper = 3 then 2 ^ t.seglog else 2 ^ t.seglog * tCarrySize t.tfmt / tInSize t.oper t.tfmt
  256 + 16 * d.members.length +
    ((List.range d.nodes.length).foldl (fun a n => a + 4 * (64 + c * ((d.children n).length + 1))) 0)

/-- The tree's scope: device when every member is on one device (R321). -/
def Tree.oneDevice (t : Tree) : Bool :=
  let d := t.descs.getLastD ⟨0, 0, [], []⟩
  d.members.all fun m => decide (m.dev = (d.members.headD ⟨0, 0, 0, 0⟩).dev)

end Sys2Proof.Machine
end

