-- ==== Sys2Proof/Machine/Layers.lean ====
section
/-! DEFINITION. Context objects and the layer manager's data (R356 to R367): the residency word, stamps, requests, pins, room
and evictions. -/

namespace Sys2Proof.Machine

def State.obj? (s : State) (num : Nat) : Option Obj := s.dev.objs.find? fun o => decide (o.num = num)

/-! ### Object and entry fields (R357, R358, R360) -/

def State.objWord (s : State) (o : Obj) (i : Nat) : Nat := s.dev.near.readNat (o.addr + 4 * i) 4
def State.objPrio (s : State) (o : Obj) : Nat := s.objWord o 1 / 2 ^ 16 % 8
def State.objLa (s : State) (o : Obj) : Nat := s.objWord o 3 % 2048

def State.setNear (s : State) (a n v : Nat) : State := { s with dev := { s.dev with near := s.dev.near.writeNat a n v } }

/-- A counter of the header goes up by one, modulo 2^32 (R357). -/
def State.bumpObj (s : State) (o : Obj) (i : Nat) : State := s.setNear (o.addr + 4 * i) 4 ((s.objWord o i + 1) % 2 ^ 32)

def State.res (s : State) (o : Obj) (layer : Nat) : Nat := s.dev.near.readNat (entryAddr o layer + 0x30) 8

def resState (w : Nat) : Nat := w % 4
def resGen (w : Nat) : Nat := w / 2 ^ 8 % 2 ^ 24
def resPins (w : Nat) : Nat := w / 2 ^ 32 % 2 ^ 16

/-- A residency word from its fields, the reserved bits zero (R5). -/
def resWord (st gen pins : Nat) : Nat := st % 4 + gen % 2 ^ 24 * 2 ^ 8 + pins % 2 ^ 16 * 2 ^ 32

def State.setRes (s : State) (o : Obj) (layer st gen pins : Nat) : State :=
  s.setNear (entryAddr o layer + 0x30) 8 (resWord st gen pins)

def State.setLayerState (s : State) (o : Obj) (layer st : Nat) : State :=
  let w := s.res o layer
  s.setRes o layer st (resGen w) (resPins w)

def State.stampOf (s : State) (o : Obj) (layer : Nat) : Nat := s.dev.near.readNat (entryAddr o layer + 0x38) 8

/-- STAMP takes the next value of the device-wide sequence (R364). -/
def State.putStamp (s : State) (o : Obj) (layer : Nat) : State :=
  let s := s.setNear (entryAddr o layer + 0x38) 8 (s.dev.stamp % 2 ^ 64)
  { s with dev := { s.dev with stamp := s.dev.stamp + 1 } }

/-! ### Ranges -/

/-- The near store that Mynyx reserves (R392), and the relay and reorder region in it. -/
def reserveLo : Nat := 0xE0000000
def relayHi : Nat := 0xF0000000

/-- Whether [lo, hi) meets a range. -/
def meets (lo hi : Nat) (r : Nat × Nat) : Bool := decide (lo < r.2) && decide (r.1 < hi)

/-- Whether [lo, hi) meets a registered object or a staging range. -/
def State.meetsShale (s : State) (lo hi : Nat) : Bool := s.shaleRanges.any (meets lo hi)

/-- The allocation ranges of a context (R402). -/
def Ctx.allocRanges (c : Ctx) : List (Nat × Nat) := c.alloc.toList.map fun g => (g.1, g.1 + g.2)

/-- The ranges of its grant table, whatever their rights (R391). -/
def Ctx.grantRanges (c : Ctx) : List (Nat × Nat) := c.grants.toList.map fun g => (g.base, g.base + g.len)

/-! ### Requests and pins (R365, R367) -/

/-- A request: no effect for a layer that is queued, LOADING or RESIDENT (R365); a demand for a queued layer is one
request still. -/
def State.requestLayer (s : State) (o : Obj) (layer : Nat) (demand : Bool) : State :=
  if s.layerState o layer = 0 ∧
      (s.dev.reqs.any fun r => decide (r.obj = o.num) && decide (r.layer = layer)) = false then
    { s with dev := { s.dev with reqs := s.dev.reqs ++ [⟨o.num, layer, demand, 0⟩] } }
  else s

/-- A pin is added at the home (R367). -/
def State.pinLayer (s : State) (o : Obj) (layer : Nat) : State :=
  let w := s.res o layer
  s.setRes o layer (resState w) (resGen w) (resPins w + 1)

/-- A pin leaves: the stamp is set when the last one does (R364, R367). -/
def State.unpinLayer (s : State) (num layer : Nat) : State :=
  match s.obj? num with
  | none => s
  | some o =>
    let w := s.res o layer
    let s := s.setRes o layer (resState w) (resGen w) (resPins w - 1)
    if resPins w = 1 then s.putStamp o layer else s

/-! ### Room (R364) -/

/-- A layer that is LOADING or RESIDENT. -/
structure Staged where
  obj : Obj
  layer : Nat
  lo : Nat
  hi : Nat
  prio : Nat
  stamp : Nat
  pins : Nat
  resident : Bool
deriving DecidableEq, Repr

def State.staged (s : State) : List Staged :=
  s.dev.objs.flatMap fun o => (List.range (s.objLayers o)).filterMap fun i =>
    let w := s.res o i
    if resState w = 1 ∨ resState w = 2 then
      some ⟨o, i, s.layerStage o i, s.layerStage o i + s.layerSize o i, s.objPrio o, s.stampOf o i, resPins w,
        decide (resState w = 2)⟩
    else none

/-- The order in which candidates go: priority, stamp, object, layer (R364). -/
def Staged.before (a b : Staged) : Bool :=
  decide (a.prio < b.prio) || (a.prio = b.prio && (decide (a.stamp < b.stamp) || (a.stamp = b.stamp &&
    (decide (a.obj.num < b.obj.num) || (a.obj.num = b.obj.num && decide (a.layer < b.layer))))))

def firstStaged : List Staged → Option Staged
  | [] => none
  | a :: l => match firstStaged l with
    | none => some a
    | some b => if b.before a then some b else some a

def stagedBytes (l : List Staged) : Nat := l.foldl (fun a x => a + (x.hi - x.lo)) 0

/-- Step 2 of R364: further evictions until the bytes fit; none when they cannot. -/
def budgetGo (prio need budget : Nat) : Nat → List Staged → List Staged → Option (List Staged)
  | 0, live, out => if stagedBytes live + need ≤ budget then some out else none
  | n + 1, live, out =>
    if stagedBytes live + need ≤ budget then some out
    else match firstStaged (live.filter fun x => x.resident && x.pins = 0 && decide (x.prio ≤ prio)) with
      | none => none
      | some v =>
        budgetGo prio need budget n (live.filter fun x => !(decide (x.obj.num = v.obj.num) && decide (x.layer = v.layer)))
          (out ++ [v])

/-- Whether a staged layer overlaps [lo, hi). -/
def Staged.meets (x : Staged) (lo hi : Nat) : Bool := decide (x.lo < hi) && decide (lo < x.hi)

/-- Step 1 of R364: the layers that overlap the staging range of a layer; none when one of them cannot be evicted. -/
def State.rangeRoom (s : State) (o : Obj) (layer : Nat) : Option (List Staged) :=
  let lo := s.layerStage o layer
  let met := s.staged.filter fun x => x.meets lo (lo + s.layerSize o layer)
  if met.any fun x => !x.resident || x.pins ≠ 0 || decide (s.objPrio o < x.prio) then none else some met

/-- The evictions that make room for a layer; none when they cannot all be made (R364). -/
def State.room (s : State) (o : Obj) (layer : Nat) : Option (List Staged) :=
  let lo := s.layerStage o layer
  let n := s.layerSize o layer
  (s.rangeRoom o layer).bind fun met =>
    let live := s.staged.filter fun x => !x.meets lo (lo + n)
    budgetGo (s.objPrio o) n (s.dev.lbud.toNat % 65536 * 65536) live.length live met

/-- LAYER_EVICT: the staging grant is withdrawn with the state; NEVICT + 1 (R362, R364). -/
def State.evict (s : State) (v : Staged) : State := (s.setLayerState v.obj v.layer 0).bumpObj v.obj 5

/-- The pins that a tile holds at their homes: those of its set, those it has given up since the checkpoint, and those it made
since, which a rollback takes out of the set until the rerun puts them back (R367, R370). -/
def Tile.homePins (t : Tile) : List (Nat × Nat) :=
  let ps := t.core.pins.map fun p => (p.obj, p.layer)
  ps ++ t.unpins ++ t.freshPins.filter fun p => !(ps ++ t.unpins).contains p

/-- A context's pins leave every residency word (R375). -/
def State.dropPins (s : State) (t : Tile) : State := t.homePins.foldl (fun s p => s.unpinLayer p.1 p.2) s

/-- A context's LOADING layers are abandoned: the bytes copied so far, of one whose copy has begun, are undefined (R362, R375). -/
def State.dropLoads (s : State) (ctx : Nat) : State :=
  s.dev.objs.foldl (fun s o =>
    if o.ctx = ctx then
      let began (i : Nat) : Bool := s.dev.loading.any fun q => decide (q.obj = o.num) && decide (q.layer = i) && decide (q.cause = 0)
      let s : State := { s with dev := { s.dev with
        reqs := s.dev.reqs.filter fun r => decide (r.obj ≠ o.num)
        loading := s.dev.loading.filter fun r => decide (r.obj ≠ o.num) } }
      (List.range (s.objLayers o)).foldl (fun s i =>
        if s.layerState o i = 1 then
          let lo := s.layerStage o i
          let s := s.setLayerState o i 0
          if !began i then s
          else { s with
            dev := { s.dev with near := s.dev.near.undefine lo (lo + s.layerSize o i) s.free }
            free := s.free + 1 }
        else s) s
    else s) s

end Sys2Proof.Machine
end

