-- ==== Sys2Proof/Machine/Control.lean ====
section
/-! DEFINITION. What tiles and Mynyx share: launches (R394, R400), the start and the end of a task (R118, R133, R135), the ladder's
end of Drain and what a save holds (R407), and the killing of a context (R410). -/

namespace Sys2Proof.Machine

/-! ### Launches -/

def State.launch? (s : State) (q sq : Nat) : Option Launch :=
  s.dev.launches.find? fun l => decide (l.q = q) && decide (l.sq = sq)

def State.setLaunch (s : State) (l : Launch) : State :=
  { s with dev := { s.dev with launches := s.dev.launches.map fun m => if m.q = l.q ∧ m.sq = l.sq then l else m } }

/-- The launch sequence of a launch's bind records: 32 bits that are not those of any launch (R394). -/
def Launch.recSeq (l : Launch) : Nat := l.lseq % (2 ^ 32 - 1)

/-- A launch is gone, and its bind records with it (R394). -/
def State.dropLaunch (s : State) (l : Launch) : State :=
  { s with dev := { s.dev with
    launches := s.dev.launches.filter fun m => !(decide (m.q = l.q) && decide (m.sq = l.sq))
    binds := s.dev.binds.filter fun b => decide (b.ctx ≠ l.ctx) || decide (b.lseq ≠ l.recSeq) } }

/-- Every task of a launch, spawned tasks included, has halted (R400). -/
def Launch.over (l : Launch) : Bool := l.started && decide (l.next = l.n) && decide (l.live = 0)

/-- A launch that is over completes, by the command processor that serves its queue (R19, R400). -/
def State.checkLaunch (s : State) (q sq : Nat) : State :=
  match s.launch? q sq with
  | none => s
  | some l => if l.over then s.applied (.processor q) fun s => (s.dropLaunch l).completeCmd q sq 0 else s

/-- Every logical tile that a launch may bind. -/
def Launch.allTiles (l : Launch) : List Nat := l.list.flatMap fun b => (List.range l.task.rlen).map (b + ·)

/-- A tile that the dispatcher may bind. -/
def State.isIdle (s : State) (t : Tile) : Bool := decide (t.stat = .idle) && (s.ribbonOf t.phys).isNone

/-- The positions of a launch's list that a tile has made idle, it being the last of them: they are the last to have become so
(R394). -/
def State.idlePositions (s : State) (l : Launch) (ltile : Nat) : List Nat :=
  (List.range l.list.length).filter fun i =>
    let b := l.list.getD i 0
    decide (b ≤ ltile) && decide (ltile < b + l.task.rlen) && (List.range l.task.rlen).all fun k =>
      ((s.logical l.ctx (b + k)).map s.isIdle).getD false

/-- A tile has become idle: every launch of its context notes the positions of its list that are idle with it. -/
def State.noteIdle (s : State) (phys : Nat) : State :=
  let t := s.getTile phys
  { s with dev := { s.dev with launches := s.dev.launches.map fun (l : Launch) =>
      let is := if l.ctx = t.ctx then s.idlePositions l t.ltile else []
      if is.isEmpty then l else { l with freed := (l.freed.filter fun i => !is.contains i) ++ is } } }

/-- What stands in a ribbon in the place of a rank whose task has ended: no tile has this number. -/
def endedRank : Nat := 512

/-- A rank's task has ended: its tile runs no more in the ribbon, which is gone once every rank has ended (R125, R135). -/
def State.leaveRibbon (s : State) (phys : Nat) : State :=
  let leave (r : Ribbon) : Ribbon := { r with tiles := r.tiles.map fun p => if p = phys then endedRank else p }
  let left := (s.dev.ribbons.map leave).filter fun r => r.tiles.any fun p => decide (p ≠ endedRank)
  { s with dev := { s.dev with ribbons := left } }

/-- An identifier's task has triggered or halted; in a ribbon the identifier counts once every rank has (R125, R136). -/
def State.deliverTrigger (s : State) (phys : Nat) : State :=
  let t := s.getTile phys
  if t.task.trigDone = true ∨ t.task.spawned = true then s
  else
    let s := s.putTile { t with task := { t.task with trigDone := true } }
    let all := match s.ribbonOf phys with
      | some r => r.tiles.all fun p => decide (p = endedRank) || (s.getTile p).task.trigDone
      | none => true
    match s.launch? t.task.q t.task.sq with
    | some l => if all then s.setLaunch { l with met := l.met + 1 } else s
    | none => s

/-! ### The start of a task (R118, R270, R294) -/

/-- Registers undefined at the start of a task, from number `n` of the free words on. -/
def Core.startFree (c : Core) (n : Nat) : Core :=
  { c with
    lat := Vector.ofFn fun i => Config.freeWord (n + i.val)
    flint := {
      fst := 0
      sg := Vector.ofFn fun i => Config.freeWord (n + 256 + i.val)
      map := Vector.ofFn fun i => (Config.freeWord (n + 512 + i.val)).setWidth 8
      lead := Vector.ofFn fun i => (Config.freeWord (n + 768 + i.val)).setWidth 8
      cnt := Vector.ofFn fun i => (Config.freeWord (n + 1024 + i.val)).setWidth 9 } }

/-- Free numbers that the start of a task uses. -/
def startFrees : Nat := 1281

/-- s48 to s55 of a spawned task; zero registers otherwise. -/
def startRegs (regs : List Word) : Vector Word 64 :=
  Vector.ofFn fun i => if 48 ≤ i.val ∧ i.val < 56 then regs.getD (i.val - 48) 0 else 0

/-- The accumulators, as a checkpoint copies them (R292). -/
def Tile.accImage (t : Tile) : Mem := Mem.empty.copyRange t.win 0x1A0000 0x1E0000

/-- The state in which a task starts on an idle tile; its start is its first checkpoint (R118, R137). -/
def Tile.start (t : Tile) (task : Task) (entry : BitVec 20) (regs : List Word) (free : Nat) : Tile :=
  let win := t.win.undefine 0x180000 0x1E0000 free
  let core : Core := { t.core.startFree (free + 1) with
    pc := entry
    s := startRegs regs
    p := 1
    flags := 0
    fpctl := 0
    lwlim := 0
    sup := task.supLaunch
    inHandler := false
    ports := Vector.replicate 12 Port.unbound
    bindings := 0
    tokPend := []
    tokDone := []
    tcfg := Vector.replicate 8 0
    wbCfg0 := 0
    wbCfg1 := 0
    latBuf := false
    latValid := false
    noteDue := 0
    pins := [] }
  let t := { t with
    stat := .running
    task := task
    core := core
    ck := core
    win := { win with bad := win.bad.filter fun w => decide (w < 0x180000) }
    latBad := []
    pend := []
    loads := []
    jobs := []
    jobFails := []
    cq := []
    released := []
    rb := []
    extWr := []
    flintBad := []
    loadBuf := []
    mq := []
    poison := []
    ckPoison := []
    unpins := []
    notes := []
    recov := Recov.idle
    ckFresh := true
    ckDue := false
    haltDue := false
    lwCount := 0
    lwOn := none
    freshPins := []
    issued := 0 }
  { t with shadow := t.accImage, ckWb0 := t.wb0, ckWb1 := t.wb1 }

def State.startTask (s : State) (phys : Nat) (task : Task) (entry : BitVec 20) (regs : List Word) : State :=
  { s.putTile ((s.getTile phys).start task entry regs s.free) with free := s.free + startFrees }

/-- A released spawn starts the task on the reserved sibling (R135). -/
def State.startSpawn (s : State) (phys tgt entry : Nat) (regs : List Word) : State :=
  let t := s.getTile phys
  match s.logical t.ctx tgt with
  | none => s
  | some u =>
    let task := { t.task with spawned := true, rank := 0, rlen := 1, skew := 0, trigDone := false }
    let s := s.startTask u.phys task (BitVec.ofNat 20 entry) regs
    match s.launch? t.task.q t.task.sq with
    | some l => s.setLaunch { l with live := l.live + 1 }
    | none => s

/-! ### The ladder and the end of a context -/

def State.tilesOf (s : State) (ctx : Nat) : List Tile := s.tiles.filter fun t => t.boundTo ctx

/-- A tile of the pool: in its reset state, its window undefined to whoever binds it next (R3, R118), its cycle count going on
(R117). One whose reruns disagreed is out of the pool for good (R24). -/
def Tile.pool (t : Tile) (free : Nat) : Tile :=
  { Tile.reset t.phys with
    stat := if t.doomed then .retired else .unbound
    win := { Mem.empty.undefine 0 0x1E0000 free with bad := t.win.bad }
    cyc := t.cyc }

/-- The tiles of a context return to the pool. -/
def State.freeTiles (s : State) (ctx : Nat) : State :=
  (s.tilesOf ctx).foldl (fun s t => { s.putTile (t.pool s.free) with free := s.free + 1 }) s

/-- The queues that a context owns, the dead ones of an earlier context with its number left out. -/
def State.queuesOf (s : State) (ctx : Nat) : List Queue :=
  s.dev.queues.filter fun x => decide (x.ctx = ctx) && decide (x.num ≠ 0) && decide (x.state ≠ .dead)

/-- Every queue of a context changes. -/
def State.modQueuesOf (s : State) (ctx : Nat) (f : Queue → Queue) : State :=
  (s.queuesOf ctx).foldl (fun s x => s.modQueue x.num f) s

/-- The commands that waited for the ladder complete (R407). -/
def State.answerWaiters (s : State) (ctx : Nat) (status : Nat) : State :=
  match s.ctx? ctx with
  | none => s
  | some c =>
    let s := c.waiters.foldl (fun s w => s.completeCmd w.1 w.2 status) s
    s.modCtx ctx fun c => { c with waiters := [] }

/-- The memory that a location lies in, and its address there, where a save area may lie. -/
def Device.locMem (d : Device) : Loc → Option (Mem × Nat)
  | .lpddr a => some (d.lpddr, a)
  | .host a => some (d.hostMem, a)
  | .remote v a => some (d.remote, remoteAddr v a)
  | _ => none

def Device.setLocMem (d : Device) (l : Loc) (m : Mem) : Device :=
  match l with
  | .lpddr _ => { d with lpddr := m }
  | .host _ => { d with hostMem := m }
  | .remote _ _ => { d with remote := m }
  | _ => d

/-- The bytes that a save of a context with some trees needs (R407). -/
def Ctx.saveBytes (c : Ctx) (trees : List Tree) : Nat :=
  0x200000 * c.ntile + (trees.foldl (fun a t => if t.ctx = c.num then a + t.bound else a) 0) +
    c.grants.toList.foldl (fun a g => a + g.len) 0 + 0x10000

def State.saveNeed (s : State) (c : Ctx) : Nat := c.saveBytes s.dev.trees

/-- The pages of n bytes from a page boundary on. -/
def pagesFrom (va n : Nat) : List Nat := (List.range ((n + 4095) / 4096)).map fun i => va + 4096 * i

/-- Where a page of a save area lies, if it is writable memory. -/
def State.savePage (s : State) (pasid va : Nat) : Option Loc :=
  match s.cmdLoc pasid va true with
  | .ok l => (s.dev.locMem l).map fun _ => l
  | .error _ => none

/-- The save area is large enough, and writable. -/
def State.saveFits (s : State) (c : Ctx) : Bool :=
  decide (s.saveNeed c ≤ c.saveSz) && (pagesFrom c.saveVa (s.saveNeed c)).all fun va => (s.savePage c.savePasid va).isSome

/-- The physical addresses of the pages of a save area. -/
def State.saveAddrs (s : State) (c : Ctx) (n : Nat) : List Nat :=
  (pagesFrom c.saveVa n).map fun va => (((s.savePage c.savePasid va).bind s.dev.locMem).map (·.2)).getD 0

/-- The save image of n bytes: of no stated layout, numbered `seed`. -/
def State.writeSave (s : State) (c : Ctx) (n seed : Nat) : State :=
  (pagesFrom c.saveVa n).foldl (fun s va =>
    match s.savePage c.savePasid va with
    | none => s
    | some l =>
      match s.dev.locMem l with
      | none => s
      | some (m, a) => { s with dev := s.dev.setLocMem l (m.undefine a (a + 4096) seed) }) s

/-- The near store that a context's grants cover, as it stands. -/
def State.nearImage (s : State) (c : Ctx) : Mem :=
  c.grants.toList.foldl (fun m g => if g.rights = 0 then m else m.copyRange s.dev.near g.base (g.base + g.len)) Mem.empty

/-- The code images of a context, as base and size in packets, with the tiles in whose clusters they stand: its handler's in those of
all its tiles, a launch's in those of the tiles that it may bind (R29, R119, R378). -/
def State.imagesOf (s : State) (ctx : Nat) : List ((Nat × Nat) × List Nat) :=
  (((s.ctx? ctx).map fun c => ((c.hBase, c.hSize), List.range c.ntile)).toList) ++
    (s.dev.launches.filter fun l => decide (l.ctx = ctx)).map fun l => ((l.task.imgBase, l.task.imgSize), l.allTiles)

/-- Byte offset in `dev.code` of the code store of a cluster: 1 MiB each (R29). -/
def codeStore (cluster : Nat) : Nat := cluster * 2 ^ 20

/-- The packets of a context's code images, at their bases. -/
def State.codeImage (s : State) (ctx : Nat) : Mem :=
  (s.imagesOf ctx).foldl (fun m g =>
    match g.2.findSome? (s.logical ctx) with
    | some t => m.move s.dev.code (codeStore (t.phys / 16) + 12 * g.1.1) (12 * g.1.1) (12 * g.1.2)
    | none => m) Mem.empty

/-- What the image of a context that is saved as `c` holds. -/
def State.savedImage (s : State) (c : Ctx) : SavedImage where
  ctx := c
  launches := s.dev.launches.filter fun l => decide (l.ctx = c.num)
  queues := (s.queuesOf c.num).map fun (x : Queue) => { x with cmds := x.cmds.map fun (k : Cmd) => { k with asked := [] } }
  trees := s.dev.trees.filter fun t => decide (t.ctx = c.num)
  objs := s.dev.objs.filter fun o => decide (o.ctx = c.num)
  near := (s.dev.objs.filter fun o => decide (o.ctx = c.num)).foldl (fun m o =>
    m.copyRange s.dev.near o.addr (o.addr + 64 * (s.objLayers o + 1))) Mem.empty
  code := s.codeImage c.num
  gens := (s.dev.trees.filter fun t => decide (t.ctx = c.num)).map fun t => (t.idx, s.gen t.idx)
  frozen := s.dev.images.filter fun x => decide (x.2.2.ctx = c.num)

/-- The context is PREEMPTED: its tiles and its granted near store are in the save area, its tiles back in the pool (R407,
R408); its trees stand still, as frozen, until it runs again (R330). -/
def State.preempted (s : State) (ctx rung : Nat) : State :=
  match s.ctx? ctx with
  | none => s
  | some c =>
    let saved := s.tilesOf ctx
    let mine (r : Ribbon) : Bool := r.tiles.any fun p => saved.any fun t => decide (t.phys = p)
    let c' : Ctx := { c with
      state := .preempted
      rung := rung
      saveSeed := s.free
      savePages := s.saveAddrs c (s.saveNeed c)
      saved := saved
      savedRibs := s.dev.ribbons.filter mine
      savedNear := s.nearImage c }
    let image := s.savedImage c'
    let s := { s.writeSave c (s.saveNeed c) s.free with free := s.free + 1 }.modCtx ctx fun _ => c'
    let s := { s with dev := { s.dev with
      brought := s.dev.brought ++ [image]
      ribbons := s.dev.ribbons.filter fun r => !mine r
      binds := s.dev.binds.filter fun b => decide (b.ctx ≠ ctx) } }
    let s := s.freeTiles ctx
    let s := s.modQueuesOf ctx fun x => { x with state := .preempted, rung := rung }
    s.answerWaiters ctx 0

/-- The COPY commands of a context that have started. -/
def State.copiesOf (s : State) (ctx : Nat) : List (Queue × Cmd) :=
  (s.queuesOf ctx).flatMap fun x =>
    (x.cmds.filter fun c => decide (c.state = .started) && decide (c.word 0 % 256 = 2)).map fun c => (x, c)

/-- No answer of another device to a COPY of a context is on its way. -/
def State.copiesQuiet (s : State) (ctx : Nat) : Bool := (s.copiesOf ctx).all fun p => p.2.acks.isEmpty

/-- At Drain, the context is PREEMPTED by the firmware once every task has halted and no answer to one of its COPYs is
on its way (R19, R245, R407); one that is to end is not saved any more. -/
def State.checkDrain (s : State) (ctx : Nat) : State :=
  match s.ctx? ctx with
  | some c =>
    if c.state = .drain ∧ c.doom = none ∧ (s.tilesOf ctx).all (fun t => decide (t.stat = TileStat.idle)) = true ∧
        s.copiesQuiet ctx = true ∧ s.saveFits c = true then
      s.applied .firmware (·.preempted ctx 1)
    else s
  | none => s

/-- The migration engine as an agent of a context: no window of its own, its translations the device's (R17, R413). -/
def State.migrator (s : State) (c : Ctx) : Tile :=
  { Tile.reset 0x7000 with
    ctx := c.num
    ltile := 0x1FF + 1
    ntile := c.ntile
    pasid := BitVec.ofNat 20 c.pasid
    tlb := s.dev.xtlb
    cyc := (Config.freeWord s.free).toNat + (Config.freeWord (s.free + 1)).toNat * 2 ^ 32 }

/-- The job of a COPY command: its card with BAR ignored. -/
def migrationJob (q : Nat) (c : Cmd) (card : List Word) : Job where
  slot := q
  sq := c.sq
  kind := .cpy
  state := .running
  tok := none
  cardAddr := 0
  card := some (card.zipIdx.map fun p => if p.2 = 0 then p.1 &&& ~~~(0x02000000 : Word) else p.1)
  early := 0
  status := c.early
  edges := []
  reads := []
  writes := []
  xl := []
  parkVa := 0
  parkWr := false
  acks := c.acks
  phase := c.phase
  scan := false
  sup := false
  frame := c.frame
  asked := c.asked
  sent := c.sent

/-- A started COPY is aborted with its context: its destination is undefined (R235, R410). -/
def State.abortCopy (s : State) (ctx : Ctx) (p : Queue × Cmd) : State :=
  match s.cmdRead ctx.pasid (p.2.dword 0x10) 128 with
  | .error _ => s
  | .ok bs => s.undefDest (s.migrator ctx) (migrationJob p.1.num p.2 ((List.range 32).map fun i =>
      BitVec.ofNat 32 (natOfBytes ((bs.drop (4 * i)).take 4))))

/-- Whether flits of a context may be among those of a pair that are not acknowledged: a command of its PASID, or data whose command has
been acknowledged. -/
def Pair.carriesFor (p : Pair) (pasid : Nat) : Bool :=
  let fs := p.unacked ++ p.unsent
  (fs.any fun f => decide (f.type = 0) && decide (f.pasid = pasid)) || (fs.head?.map fun f => decide (f.type = 1)).getD false

/-- The last flits not acknowledged of a context's pairs, by device and sequence number: the pairs that carry flits of it and those from
which its jobs and COPY commands await answers (R355). -/
def State.awaitedFlits (s : State) (c : Ctx) (l : List Tile) : List (Nat × Nat) :=
  ((s.dev.pairs.filter fun p => p.carriesFor c.pasid).map (·.dev) ++
    ((l.flatMap fun t => t.jobs.flatMap fun j => j.acks) ++ (s.copiesOf c.num).flatMap fun p => p.2.acks).map
      Prod.fst).eraseDups.filterMap fun d =>
    ((s.pair d).unacked ++ (s.pair d).unsent).getLast?.map fun f => (d, f.sq)

/-- A tile of an ending context: reset (R408), its cycle count with it (R117), and stopped, bound until the end. -/
def State.stopTile (s : State) (p : Nat) : State :=
  let t := s.getTile p
  let u : Tile := { t.pool s.free with
    stat := .stopped
    doomed := t.doomed
    cyc := 0
    ctx := t.ctx
    ltile := t.ltile
    ntile := t.ntile
    ctxn := t.ctxn
    pasid := t.pasid
    tvec := t.tvec }
  { s.putTile u with free := s.free + 1 }

/-- What a job leaves that the end of its context has cancelled (R235, R352): an undefined destination, unless it had ended as it
was released. -/
def State.undefCancelled (s : State) (t : Tile) (j : Job) : State :=
  match j.kind with
  | .post _ => s
  | .cfence => s
  | .xst dva _ _ len => if j.early ≠ 0 then s else s.undefVas t j ((List.range len.toNat).map (dva + ·))
  | .xatom _ va _ _ => if j.phase = 0 then s else s.undefVas t j ((List.range 4).map (va + ·))
  | _ => if j.early ≠ 0 then s else s.undefDest t j

def Tile.releasedJobs (t : Tile) : List Job := t.jobs.filter fun j => decide (j.state ≠ .held)

/-- Every job, post and fabric operation of a tile that has been released ends with status 5 (R207, R321, R351, R355, R410). -/
def State.cancelJobs (s : State) (phys : Nat) : State :=
  let t := s.getTile phys
  t.releasedJobs.foldl (fun s j =>
    let s := s.undefCancelled t j
    match j.kind with
    | .xatom _ _ _ _ => s.endAtomic phys j 0 5
    | _ => s.freeJob phys j 5) s

/-- The Reset rung: RUNG 3 in the status word of every queue of a context that has not ended yet (R386, R407). -/
def State.resetRung (s : State) (ctx : Nat) : State :=
  match s.ctx? ctx with
  | none => s
  | some c =>
    if c.state = .dead ∨ c.state = .reset then s
    else (s.modQueuesOf ctx fun x => { x with rung := 3 }).modCtx ctx fun c => { c with rung := 3 }

/-- R410 steps 1 and 2: dispatch stops, every tile of the context is reset and every engine aborts. The rest follows once
every slot has acknowledged (CONTEXT_QUIESCED). -/
def State.killContext (s : State) (ctx fcause : Nat) : State :=
  match s.ctx? ctx with
  | none => s
  | some c =>
    if c.state = .dead ∨ c.state = .reset then s
    else
      let ts := s.tilesOf ctx
      let all := ts ++ c.saved
      let s := s.modCtx ctx fun c => { c with
        state := .reset
        endCause := fcause
        saved := []
        savedRibs := []
        flits := s.awaitedFlits c all
        doom := none }
      let s := (all.foldl State.dropPins s).dropLoads ctx
      let phys := ts.map (·.phys)
      let s := c.saved.foldl (fun s t => t.releasedJobs.foldl (fun s j => s.undefCancelled t j) s) (phys.foldl State.cancelJobs s)
      let s := (s.copiesOf ctx).foldl (fun s p => s.abortCopy c p) s
      let s := { s with dev := { s.dev with
        ribbons := s.dev.ribbons.filter fun r => !(r.tiles.any phys.contains)
        trees := s.dev.trees.map fun (t : Tree) => if t.ctx = ctx then { t with posts := [] } else t } }
      phys.foldl State.stopTile s

/-- The end that waits for the firmware comes, once its copies agree on it (R386, R390, R393). -/
def State.killDoomed (s : State) (ctx : Nat) : State :=
  match (s.ctx? ctx).bind (·.doom) with
  | none => s
  | some d => s.applied .firmware fun s => (if d.2 then s.resetRung ctx else s).killContext ctx d.1

/-- A context is to end with an FCAUSE, at the Reset rung or not: an output of the firmware, for which the end waits while that machine
is stopped (R19, R393). -/
def State.doomContext (s : State) (ctx fcause : Nat) (rung : Bool) : State :=
  match s.ctx? ctx with
  | none => s
  | some c =>
    if c.state = .dead ∨ c.state = .reset ∨ c.doom ≠ none then s
    else (s.modCtx ctx fun c => { c with doom := some (fcause, rung) }).killDoomed ctx

/-! ### The end of a task (R133) -/

/-- Whether everything that `halt` waits for has happened. -/
def Tile.haltReady (t : Tile) : Bool :=
  t.stat = .halting && t.jobs.isEmpty && t.cq.isEmpty && t.released.isEmpty &&
    ((List.range 12).all fun q => !t.outPending q)

/-- The tile becomes idle: ports unbound, the trigger given, the launch counted. -/
def State.finishHalt (s : State) (phys : Nat) : State :=
  let t := s.getTile phys
  if t.haltReady then
    let s := s.deliverTrigger phys
    let t := s.getTile phys
    let core := { t.core with ports := Vector.replicate 12 Port.unbound, sup := false, inHandler := false }
    let s := s.putTile { t with stat := .idle, core := core, ck := core, jobFails := [] }
    let s := s.leaveRibbon phys
    let s := match s.launch? t.task.q t.task.sq with
      | some l => s.setLaunch { l with live := l.live - 1 }
      | none => s
    ((s.noteIdle phys).checkLaunch t.task.q t.task.sq).checkDrain t.ctx
  else s

end Sys2Proof.Machine
end

