-- ==== Sys2Proof/Machine/Fetch.lean ====
section
/-! DEFINITION. Fetching a bundle from the code store (R29 to R33) and its validity (R44, R45). -/

namespace Sys2Proof.Machine

/-! ### The code store -/

/-- The current image of a tile: image base and size in packets (R29, R378). -/
def State.image (s : State) (t : Tile) : Nat × Nat :=
  if t.core.inHandler then ((s.ctx? t.ctx).map fun c => (c.hBase, c.hSize)).getD (0, 0)
  else (t.task.imgBase, t.task.imgSize)

/-- Word k after the first word of packet idx of the current image; none outside the image (R29). -/
def State.codeWord (s : State) (t : Tile) (idx k : Nat) : Option Word :=
  let img := s.image t
  if idx + k / 3 < img.2 then
    some (s.dev.code.word (codeStore (t.phys / 16) + 12 * (img.1 + idx) + 4 * k))
  else none

/-! ### Framing (R30) -/

/-- What the search for the last operation word finds. -/
inductive Scan where
  | outside
  | endless
  | ops (l : List Word)
deriving DecidableEq, Repr

def scanOps : List (Option Word) → Scan
  | [] => .endless
  | none :: _ => .outside
  | some w :: l =>
    if chainOf w then
      match scanOps l with
      | .ops r => .ops (w :: r)
      | x => x
    else .ops [w]

/-- A fetched bundle: operation words, pool words and length in packets. -/
structure Bundle where
  ops : List Word
  pool : List Word
  len : Nat
deriving DecidableEq, Repr

/-- Outcome of fetching: outside the image, an invalid bundle with its length, or a bundle. -/
inductive Fetched where
  | outside
  | illegal (len : Nat)
  | bundle (b : Bundle)
deriving DecidableEq, Repr

def opcodeOf (w : Word) : Nat := w.toNat / 2 ^ 23 % 256

def isLpx (w : Word) : Bool := opcodeOf w = 1

/-- The N fields of the `lpx` words (R33). -/
def lpxCounts (ops : List Word) : List Nat := (ops.filter isLpx).map fun w => w.toNat % 4

/-- The pipe of an opcode (R58). -/
inductive Pipe where
  | none
  | b
  | s
  | v
  | m
  | e
  | x
deriving DecidableEq, Repr

/-- The opcodes of pipe E, by their first and last (R58): streams, synchronisation, jobs, posts, fabric and layers. -/
def pipeE : List (Nat × Nat) := [(0x80, 0x83), (0x88, 0x8C), (0x90, 0x95), (0xA8, 0xAE), (0xB0, 0xB3), (0xB8, 0xBA)]

def pipeOf (op : Nat) : Pipe :=
  if op < 0x02 then .none
  else if op < 0x0C then .b
  else if op < 0x10 then .none
  else if op < 0x2A then .s
  else if op < 0x30 then .none
  else if op < 0x3B then .s
  else if op < 0x6A then .v
  else if op < 0x70 then .none
  else if op < 0x7F then .m
  else if pipeE.any (fun r => decide (r.1 ≤ op) && decide (op ≤ r.2)) then .e
  else if 0x98 ≤ op ∧ op < 0xA7 then .x
  else if 0xC0 ≤ op ∧ op < 0xC5 then .b
  else .none

def countPipe (p : Pipe) (ops : List Word) : Nat := (ops.filter fun w => decide (pipeOf (opcodeOf w) = p)).length

/-- R44: at most one operation each for B, M, X and E, two scalar and two vector operations. -/
def pipesOk (ops : List Word) : Bool :=
  decide (countPipe .b ops ≤ 1) && decide (countPipe .m ops ≤ 1) && decide (countPipe .x ops ≤ 1) &&
    decide (countPipe .e ops ≤ 1) && decide (countPipe .s ops ≤ 2) && decide (countPipe .v ops ≤ 2)

/-- The opcodes of formats F-S, F-C and F-X whose instruction has a B operand selected by M (R35, R57). -/
def takesB (op : Nat) : Bool :=
  [0x04, 0x07, 0x08, 0x0B, 0x1E, 0x1F, 0x30, 0x31, 0x32, 0x37, 0x38, 0x39, 0x3A, 0x7B, 0x7C, 0x7D, 0x7E, 0x80, 0x83,
    0x88, 0x89, 0x8A, 0x8B].contains op ||
  [0x90, 0x91, 0x92, 0x93, 0x94, 0x99, 0x9A, 0x9B, 0x9D, 0x9E, 0x9F, 0xA1, 0xA3, 0xA4, 0xA5, 0xA6, 0xA8, 0xA9, 0xAA,
    0xAB, 0xAC, 0xAE, 0xB1, 0xB2, 0xB3, 0xBA, 0xC0, 0xC1, 0xC2, 0xC3, 0xC4].contains op ||
  (decide (0x10 ≤ op) && decide (op ≤ 0x1B)) || (decide (0x20 ≤ op) && decide (op ≤ 0x29))

/-- The pool index that an operation word names (R35, R45), whatever else is wrong with the word, since illegal-bundle comes
first (R56). An index of 12 or more makes the word itself illegal (R35). -/
def poolIndex (w : Word) : Option Nat :=
  let b := w.toNat / 4 % 64
  if takesB (opcodeOf w) ∧ w.toNat % 4 = 1 ∧ b < 12 then some b else none

/-- The rest of R45, once the operation words and the length are known. -/
def bundleOk (ops : List Word) (pool : Nat) : Bool :=
  pipesOk ops && ops.all fun w => match poolIndex w with
    | some i => decide (i < pool)
    | none => true

/-- The bundle whose first packet is idx (R30, R45, R47). -/
def State.fetchAt (s : State) (t : Tile) (idx : Nat) : Fetched :=
  match scanOps ((List.range 12).map (s.codeWord t idx)) with
  | .outside => .outside
  | .endless => .illegal 4
  | .ops ops =>
    let p := (ops.length + 2) / 3
    let ns := lpxCounts ops
    let len := p + ns.foldl (· + ·) 0
    if 1 < ns.length ∨ ns.contains 0 = true ∨ 4 < len then .illegal (min len 4)
    else if (s.image t).2 < idx + len then .outside
    else
      let pool := (List.range (3 * len - ops.length)).map fun i => (s.codeWord t idx (ops.length + i)).getD 0
      if bundleOk ops pool.length then .bundle ⟨ops, pool, len⟩ else .illegal len

/-- The length in packets of the bundle at a packet index, for LEN of cr.ecause (R383). -/
def State.lengthAt (s : State) (t : Tile) (idx : Nat) : Nat :=
  match s.fetchAt t idx with
  | .outside => 1
  | .illegal n => n
  | .bundle b => b.len

end Sys2Proof.Machine
end

