-- ==== Sys2Proof/Machine/Release.lean ====
section
/-! DEFINITION. The commit queue at a checkpoint (R139, R188): each entry leaves for its engine in queue order, and the
releases act afterwards (R193, R205, R255, R258, R136). A store to a barrier object that is in use leaves undefined words
(R250). -/

namespace Sys2Proof.Machine

/-! ### Barrier objects in use (R250) -/

/-- A number for each byte of the on-chip memories of a context: the physical place of a window byte, or the near-store
address. -/
def State.chipKey (s : State) (ctx own a : Nat) : Option Nat :=
  match placeOf own a with
  | .win l off => (s.logical ctx l).map fun t => t.phys * 0x200000 + off
  | .near n => some n
  | .hole => none

/-- The barrier object that a queued action steps. -/
def Held.bar? : Held → Option Nat
  | .barv _ a _ _ => some a
  | .bartx _ a _ _ => some a
  | .streamDone bar _ => some bar
  | _ => none

/-- The barrier object that an engine action in a job slot names: of a copy job or fence, or of a post. -/
def Job.bar? (j : Job) : Option Nat :=
  match j.kind, j.card with
  | .post _, some l => if l.getD 4 0 = 0 then none else some (l.getD 4 0).toNat
  | _, some l => if (Card.ofWords l).ben then some (Card.ofWords l).bar else none
  | _, none => none

/-- The barrier objects of output streams, among the first `n` bindings, that have not made their completion arrival. -/
def Tile.streamBars (t : Tile) (n : Nat) : List Nat :=
  t.core.ports.toList.filterMap fun p =>
    if p.bound && p.out && !p.done && decide (p.bar ≠ 0) && decide (p.num < n) then some p.bar else none

/-- The barrier object that the next bundle of a running tile waits for, and whether its guard is true. -/
def State.awaitedBar (s : State) (t : Tile) : List Nat :=
  if t.stat ≠ .running then []
  else match s.fetchAt t t.core.pc.toNat with
    | .bundle b => b.ops.filterMap fun w => match decodeWord w with
      | .ok (.barw o) => if t.core.pred o.g then some (t.core.reg o.a).toNat else none
      | _ => none
    | _ => []

/-- The barrier objects that a tile's outstanding steps, waits and engine actions name. Against a write of its own, which stands in
program order after so many jobs and bindings of streams, only those count: its earlier steps on the object have acted, and its later
ones follow the write. -/
def State.barsOf (s : State) (t : Tile) (own : Option (Nat × Nat)) : List Nat :=
  match own with
  | some n => (t.jobs.filter fun j => decide (j.sq < n.1)).filterMap Job.bar? ++ t.streamBars n.2
  | none => t.released.filterMap Held.bar? ++ t.jobs.filterMap Job.bar? ++ t.cq.filterMap Held.bar? ++
      t.streamBars t.core.bindings ++ s.awaitedBar t

/-- The barrier objects in use, by key and as an address of their tile; `me` is the tile whose own write is performed, with its place in
program order. -/
def State.barsInUse (s : State) (me : Option (Nat × Nat × Nat)) : List (Nat × Tile × Nat) :=
  s.tiles.flatMap fun t =>
    (s.barsOf t (me.bind fun m => if m.1 = t.phys then some m.2 else none)).filterMap fun a =>
      (s.chipKey t.ctx t.ltile a).map fun k => (k, t, a)

/-- n bytes of the on-chip map of a context become undefined (R3). -/
def State.mapUndef (s : State) (ctx own a n : Nat) : State :=
  { s with free := s.free + 1 }.mapWrite ctx own a ((List.range n).map fun i => Config.freeByte s.free (a + i))

/-- Bytes with these keys have been written by a store or a copy job while the barrier objects of a list were in use: the words
of each object that the write touches are undefined (R250, R3). -/
def State.spoil (s : State) (bars : List (Nat × Tile × Nat)) (keys : List Nat) : State :=
  bars.foldl (fun s b =>
    if keys.any fun k => decide (b.1 ≤ k) && decide (k < b.1 + 16) then s.mapUndef b.2.1.ctx b.2.1.ltile b.2.2 16 else s) s

/-- The on-chip bytes, by key, at some addresses of a job. -/
def State.jobKeys (s : State) (t : Tile) (j : Job) (vas : List Nat) : List Nat :=
  vas.filterMap fun va => match s.jobLoc t j va with
    | some (.chip a) => s.chipKey t.ctx t.ltile a
    | _ => none

/-- What a copy job that has written its destination leaves of the barrier objects in use (R250). -/
def State.spoilCopy (s s1 : State) (t : Tile) (j : Job) : State := s1.spoil (s.barsInUse none) (s.jobKeys t j (t.destVas j))

/-- What an `xst` that has ended leaves of them. -/
def State.spoilXst (s s1 : State) (t : Tile) (j : Job) : State :=
  if ((s1.getTile t.phys).job? j.slot).isNone then
    s1.spoil (s.barsInUse none) (s.jobKeys t j (((t.jobTouches j).filter (·.2)).map Prod.fst))
  else s1

/-- A store writes through to the filled entries of its tile's load buffer that hold the bytes (R189). -/
def Tile.writeThrough (t : Tile) (cells : List Host.Cell) : Tile :=
  { t with loadBuf := t.loadBuf.map fun e =>
      (e.1, e.2.map fun bs => cells.foldl (fun l c => if c.1 / 64 * 64 = e.1 then l.set (c.1 % 64) c.2 else l) bs) }

/-- A held store reaches memory. -/
def State.applyStore (s : State) (phys : Nat) (cells : List Host.Cell) : State :=
  let t := s.getTile phys
  ((runsOf cells).foldl (fun s r => s.mapWrite t.ctx t.ltile r.1 r.2) s).modTile phys (·.writeThrough cells)

/-- A released store instruction, or a tile register stored, reaches memory (R250: a stream vector is no store). -/
def State.applyStoreOp (s : State) (phys : Nat) (cells : List Host.Cell) (before : Nat × Nat) : State :=
  let t := s.getTile phys
  (s.applyStore phys cells).spoil (s.barsInUse (some (phys, before))) (cells.filterMap fun c => s.chipKey t.ctx t.ltile c.1)

/-- The 32-bit word at an on-chip address, as the context of a tile reaches it. -/
def State.mapWord (s : State) (t : Tile) (a : Nat) : Word := BitVec.ofNat 32 (s.mapNat t.ctx t.ltile a 4)

def State.mapSetWord (s : State) (t : Tile) (a : Nat) (w : Word) : State :=
  s.mapWrite t.ctx t.ltile a (bytesOfNat 4 w.toNat)

/-- An atomic acts at its home; the old value (R191). -/
def State.homeAtomic (s : State) (t : Tile) (op : AtomOp) (a : Nat) (v e : Word) : Word × State :=
  let old := s.mapWord t a
  let new := op.apply old v e
  (old, if new = old then s else (s.mapSetWord t a new).modTile t.phys (·.writeThrough (cellsOf a (bytesOfNat 4 new.toNat))))

/-- A store, matrix store or atomic that leaves the queue acts at once. -/
def State.applyWrite (s : State) (phys : Nat) (h : Held) : State :=
  match h with
  | .store cells before => s.applyStoreOp phys cells before
  | .tst _ cells before => s.applyStoreOp phys cells before
  | .vec _ cells => s.applyStore phys cells
  | .atomic op a v e => (s.homeAtomic (s.getTile phys) op a v e).2
  | _ => s

def Held.isWrite : Held → Bool
  | .store _ _ => true
  | .tst _ _ _ => true
  | .vec _ _ => true
  | .atomic _ _ _ _ => true
  | _ => false

def Held.isTrig : Held → Bool
  | .trig _ => true
  | _ => false

def Tile.addReleased (t : Tile) (h : Held) : Tile := { t with released := t.released ++ [h] }

/-- A job leaves the commit queue in its slot (R227, R319, R351). -/
def State.releaseJob (s : State) (phys slot : Nat) : State :=
  let t := s.getTile phys
  match t.job? slot with
  | none => s
  | some j =>
    match j.kind with
    | .post h => s.releasePost phys j h
    | .xst _ _ _ _ => s.putTile (t.setJob (s.releaseFabric t j))
    | .xatom _ _ _ _ => s.putTile (t.setJob (s.releaseFabric t j))
    | _ => s.putTile (t.setJob (t.releaseCopy j))

/-- A `sev` at its release (R390). -/
def State.releaseSev (s : State) (phys code : Nat) (kill : Bool) (p : List Word) : State :=
  let t := s.getTile phys
  let s := s.tileEvent t code p
  if kill then s.doomContext t.ctx 6 false else s

/-- A write leaves the queue: it acts at once, unless it waits behind an earlier entry. -/
def State.releaseWrite (s : State) (phys : Nat) (h : Held) : State :=
  let t := s.getTile phys
  if t.released.any (h.behind t) then s.modTile phys (·.addReleased h) else s.applyWrite phys h

/-- One entry leaves the queue. -/
def State.release1 (s : State) (phys : Nat) (h : Held) : State :=
  match h with
  | .job slot => s.releaseJob phys slot
  | .spawn tgt entry regs => s.startSpawn phys tgt entry regs
  | .sev code kill p => s.releaseSev phys code kill p
  | .store _ _ => s.releaseWrite phys h
  | .tst _ _ _ => s.releaseWrite phys h
  | .vec _ _ => s.releaseWrite phys h
  | .atomic _ _ _ _ => s.releaseWrite phys h
  | .trig _ => s.modTile phys (·.addReleased h)
  | .barv _ _ _ _ => s.modTile phys (·.addReleased h)
  | .bartx _ _ _ _ => s.modTile phys (·.addReleased h)
  | .cadd _ _ _ => s.modTile phys (·.addReleased h)
  | .phaseRel _ => s.modTile phys (·.addReleased h)
  | .stf _ _ _ => s.modTile phys (·.addReleased h)
  | .streamDone _ _ => s.modTile phys (·.addReleased h)

/-- The whole queue leaves, in order. -/
def State.releaseAll (s : State) (phys : Nat) (hs : List Held) : State := hs.foldl (fun s h => s.release1 phys h) s

/-! ### Releases that act -/

/-- Whether the i-th released action can act: it carries every earlier write of the tile, those of earlier releases among them,
so each of them acts first (R193, R205, R255, R258, R264, R265, R136); a trigger makes no write. The completion arrival of a
stream follows every vector of the stream, all of which stand before it in the queue, a trigger every earlier job. -/
def Tile.canPerform (t : Tile) (i : Nat) : Bool :=
  (t.released.take i).all Held.isTrig &&
  match t.released[i]? with
  | none => false
  | some (.streamDone _ num) => !(t.core.ports.any fun p => p.bound && decide (p.num = num) && !p.fifo.isEmpty)
  | some (.trig sq) => !(t.jobs.any fun j => decide (j.sq < sq))
  | some h => !h.isWrite

/-- The i-th released action is done. -/
def Tile.dropReleased (t : Tile) (i : Nat) : Tile := { t with released := t.released.eraseIdx i }

/-- The writes that wait behind an entry that has acted leave; `kept` are the entries that stay. -/
def State.flushGo (phys : Nat) : List Held → List Held → State → List Held × State
  | kept, [], s => (kept, s)
  | kept, h :: l, s =>
    if h.isWrite && !kept.any (h.behind (s.getTile phys)) then State.flushGo phys kept l (s.applyWrite phys h)
    else State.flushGo phys (kept ++ [h]) l s

def State.flushWrites (s : State) (phys : Nat) : State :=
  let r := State.flushGo phys [] (s.getTile phys).released s
  r.2.modTile phys fun t => { t with released := r.1 }

/-- The effect of a release of R255 and R258, and of a trigger (R136). -/
def State.performRelease (s : State) (phys i : Nat) : State :=
  let t := s.getTile phys
  if t.canPerform i then
    let s1 := s.putTile (t.dropReleased i)
    match t.released[i]? with
    | some (.barv _ a n f) => (s1.barStep t.ctx t.ltile a n 0 f.toNat).flushWrites phys
    | some (.bartx _ a n bytes) => (s1.barStep t.ctx t.ltile a n bytes.toInt 0).flushWrites phys
    | some (.cadd _ a inc) =>
      (s1.mapWrite t.ctx t.ltile a (bytesOfNat 8 ((s.mapNat t.ctx t.ltile a 8 + inc.toNat) % 2 ^ 64))).flushWrites phys
    | some (.phaseRel _) => s1.flushWrites phys
    | some (.trig _) => s1.deliverTrigger phys
    | _ => s
  else s

/-- `stf` acts: its data, then the increment of its flag (R193). -/
def State.performStf (s : State) (phys i : Nat) : State :=
  let t := s.getTile phys
  match t.released[i]? with
  | some (.stf cells flag before) =>
    if t.canPerform i then
      let s := (s.putTile (t.dropReleased i)).applyStoreOp phys cells before
      let t := s.getTile phys
      (s.applyStoreOp phys (cellsOf flag (bytesOfNat 4 (s.mapWord t flag + 1).toNat)) before).flushWrites phys
    else s
  | _ => s

/-- The stream of a binding, where a port still has it, is done (R203). -/
def Core.markDone (c : Core) (num : Nat) : Core :=
  { c with ports := c.ports.map fun p => if p.bound = true ∧ p.out = true ∧ p.num = num then { p with done := true } else p }

/-- The completion arrival of an output stream (R205). -/
def State.performStreamDone (s : State) (phys i : Nat) : State :=
  let t := s.getTile phys
  match t.released[i]? with
  | some (.streamDone bar num) =>
    if t.canPerform i then
      let t := t.dropReleased i
      ((s.putTile { t with core := t.core.markDone num, ck := t.ck.markDone num }).barStep t.ctx t.ltile bar 1 0 0).flushWrites phys
    else s
  | _ => s

end Sys2Proof.Machine
end

