-- ==== Sys2Proof/Machine/Ops.lean ====
section
/-! DEFINITION. The shared operations of a tile's life: loads returning (R185, R188, R191), landing (R55), the checkpoint
(R137, R292, R367), the taking of a trap or notification (R382 to R386) and the return from one (R388), and the frame in
which every operation of a bundle runs (R46, R53, R56). -/

namespace Sys2Proof.Machine

/-! ### The ribbon as one unit (R126, R145) -/

/-- The tiles that the focused tile runs with: the ranks of its ribbon whose task has not ended, in rank order, or itself. -/
def State.ranks (s : State) : List Nat :=
  match s.ribbonOf s.tile.phys with
  | some r => if s.tile.stat = .running then r.tiles.filter fun p => decide ((s.getTile p).stat = .running) else [s.tile.phys]
  | none => [s.tile.phys]

/-- The clock of the ribbon that a tile runs in changes. -/
def State.modClock (s : State) (phys : Nat) (f : Ribbon → Ribbon) : State :=
  { s with dev := { s.dev with ribbons := s.dev.ribbons.map fun r => if r.tiles.contains phys then f r else r } }

/-- A handler starts at ribbon time 0 of its own, and the program's time stands still (R128, R385). -/
def RClock.enter (k : RClock) : RClock :=
  match k.outer with
  | none => ⟨0, [], some (k.time, k.dec), k.skip⟩
  | some _ => k

/-- An operation done by every rank in turn, the focus left where it was. -/
def State.eachRank (s : State) (f : State → State) : State :=
  (s.ranks.foldl (fun x p => f (x.focus p)) s).focus s.tile.phys

/-! ### Loads returning -/

/-- Words of 32 bits from bytes, the last one zero-extended (R185). -/
def wordsOfBytes : Nat → List Byte → List Word
  | 0, _ => []
  | _, [] => []
  | n + 1, bs => BitVec.ofNat 32 (natOfBytes (bs.take 4)) :: wordsOfBytes n (bs.drop 4)

/-- The bytes of a load: those known at issue, else from the load buffer, else as they stand now (R188, R189). -/
def State.loadBytes (s : State) (l : List (Nat × Option Byte)) : List Byte :=
  l.map fun e => (e.2.orElse fun _ => s.tile.buffered e.1).getD (s.mapByte s.tile.ctx s.tile.ltile e.1)

/-- The words that a load, a fill or an atomic reads when it returns. -/
def PLoad.words (l : PLoad) : List Nat :=
  match l.src with
  | .bytes bs => bs.filterMap fun e => if e.2.isNone then some (e.1 / 4) else none
  | .atomic _ a _ _ => [a / 4]
  | _ => []

/-- Whether some result waits for another engine (R325, R353). -/
def PLoad.waits (l : PLoad) : Bool :=
  match l.src with
  | .bytes _ => false
  | .atomic _ _ _ _ => false
  | .xold _ => true
  | .xstatus _ => true
  | .tree _ => true

/-- Whether the i-th load can return: reads of one word return in program order (R266), and so a load that falls in an entry
still filling waits for the fill (R189). -/
def Tile.loadReady (t : Tile) (i : Nat) : Bool :=
  match t.loads[i]? with
  | none => false
  | some l => !l.waits && !(t.loads.take i).any fun k => k.words.any l.words.contains

/-- The i-th load or atomic of the focused tile returns; nothing where it cannot. -/
def State.returnLoad (s : State) (i : Nat) : State :=
  match s.tile.loads[i]? with
  | none => s
  | some l =>
    if s.tile.loadReady i then
      let t := { s.tile with loads := s.tile.loads.eraseIdx i }
      match l.src with
      | .bytes bs => { s with tile := t.landLoad l (wordsOfBytes 16 (s.loadBytes bs)) }
      | .atomic op a v e =>
        let r := { s with tile := t }.homeAtomic t op a v e
        { r.2 with tile := (r.2.tile.landLoad l [r.1]).logResult l.word false r.1 }
      | .xold _ => s
      | .xstatus _ => s
      | .tree _ => s
    else s

def Tile.waitsEngine (t : Tile) : Bool := t.loads.any PLoad.waits

/-- The first load that can return. -/
def State.firstReady (s : State) : Option Nat := (List.range s.tile.loads.length).find? s.tile.loadReady

def returnLoadsGo : Nat → State → State
  | 0, s => s
  | n + 1, s =>
    match s.firstReady with
    | some i => returnLoadsGo n (s.returnLoad i)
    | none => s

/-- Every load that can return does. -/
def State.returnLoads (s : State) : State := returnLoadsGo s.tile.loads.length s

/-- The oldest queued X-pipe operation completes (R273); a tile register that it stores over a barrier object in use leaves its
words undefined (R250). -/
def State.runHead (s : State) : State :=
  let t := s.tile
  let s1 := s.finishHead
  if t.headStores.isEmpty then s1
  else s1.spoil (s.barsInUse none) (t.headStores.filterMap (s.chipKey t.ctx t.ltile))

def runQueueGo : Nat → State → State
  | 0, s => s
  | n + 1, s => if s.tile.mq.isEmpty then s else runQueueGo n s.runHead

/-- Every queued X-pipe operation completes, in program order (R137, R273). -/
def State.runQueue (s : State) : State := runQueueGo s.tile.mq.length s

/-- Every operation of an earlier bundle of the focused tile lands (R55, R137). -/
def State.land1 (s : State) : State :=
  let s := s.runQueue.returnLoads
  { s with tile := s.tile.landAll.landOutputs }

def State.drain (s : State) : State := s.eachRank State.land1

/-! ### The checkpoint (R137) -/

/-- What a checkpoint leaves of the log: that of an interval which has still to run again, once no handler runs (R140, R384). -/
def Recov.committed (r : Recov) (handler : Bool) : Recov :=
  if handler then { r with log := [] } else { r with log := r.kept, kept := [] }

/-- What a checkpoint commits: registers, accumulators, weight buffers, poison and an empty rollback store. -/
def Tile.commit (t : Tile) : Tile :=
  { t with
    ck := t.core
    shadow := t.accImage
    ckWb0 := t.wb0
    ckWb1 := t.wb1
    ckPoison := t.poison
    rb := []
    extWr := []
    loadBuf := []
    cq := []
    unpins := []
    freshPins := if t.recov.kept.isEmpty then [] else t.freshPins
    recov := t.recov.committed t.core.inHandler
    ckFresh := true
    ckDue := false
    haltDue := false }

/-- The pins of the set, as unpins of a halting task (R367). -/
def Core.pinList (c : Core) : List (Nat × Nat) := c.pins.map fun p => (p.obj, p.layer)

/-- The focused tile's checkpoint, once its operations have landed: commit, release of the queue in order, unpins, and the
end of a task whose `halt` took it (R133, R137, R367). -/
def State.commit1 (s : State) : State :=
  let t := s.tile
  let phys := t.phys
  let t1 := if t.haltDue then { t with core := { t.core with pins := [] } } else t
  let unpins := t.unpins ++ (if t.haltDue then t.core.pinList else [])
  let s := (({ s with tile := t1.commit }.modClock phys fun r => { r with ck := r.clock }).releaseAll phys t.cq)
  let s := unpins.foldl (fun s p => s.unpinLayer p.1 p.2) s
  if t.haltDue then
    let s := s.modTile phys fun u => if u.stat = .running then { u with stat := .halting } else u
    s.finishHalt phys
  else s

/-- Whether a rank has a data error that the recovery sequence has still to handle (R142, R146). -/
def State.errorPending (s : State) : Bool := s.ranks.any fun p => decide ((s.getTile p).recov.phase = .stop)

/-- A data error in one rank stops the whole ribbon (R145). -/
def State.spreadError (s : State) : State :=
  if s.errorPending then s.eachRank fun x => { x with tile := { x.tile with recov := x.tile.recov.detect } } else s

/-- A checkpoint of the focused tile, or of its whole ribbon (R145). Operations that land in a data error leave it to the
recovery sequence instead (R137, R146). -/
def State.takeCheckpoint (s : State) : State :=
  let s := s.drain
  if s.errorPending then s.spreadError else s.eachRank State.commit1

/-! ### Traps and notifications (R382 to R386) -/

/-- The cause code (R384). -/
def Cause.code : Cause → Nat
  | .illegalInstruction => 0x01
  | .illegalBundle => 0x02
  | .illegalOperand => 0x03
  | .misaligned => 0x04
  | .accessFault => 0x05
  | .bankConflict => 0x06
  | .spawnBusy => 0x07
  | .ribbonUniformity => 0x08
  | .tileRetired => 0x09
  | .swapFault => 0x0A
  | .swapTimeout => 0x0B
  | .streamFault => 0x0C
  | .softwareTrap => 0x0D
  | .privilege => 0x0E
  | .preempt => 0x0F

/-- The bits of cr.ecause beside CAUSE, WORD and LEN (R383). -/
def fetchBit : Nat := 2 ^ 6
def poisBit : Nat := 2 ^ 7
def uncBit : Nat := 2 ^ 8
def compBit : Nat := 2 ^ 9

/-- The cause word (R383). -/
def ecauseWord (c : Cause) (bits word len code : Nat) : Word :=
  nat32 (c.code + bits + (len - 1) % 4 * 2 ^ 10 + word % 16 * 2 ^ 12 + code % 2 ^ 16 * 2 ^ 16)

/-- No handler (R379). -/
def noHandler : BitVec 20 := 0xFFFFF

/-- A handler that starts before a restored interval has run again keeps its log for it; an interval that has run is at its
checkpoint (R137, R140). -/
def Tile.keepLog (t : Tile) : Recov :=
  if t.ckDue || t.core.inHandler then t.recov else { t.recov with log := [], kept := t.recov.kept ++ t.recov.log }

/-- Steps 2 to 4 of R382 on one tile: saved pc, cause, detail, supervisor mode, fetch at cr.tvec. -/
def Tile.enter (t : Tile) (epc : BitVec 20) (ecause einfo : Word) : Tile :=
  { t with
    lwCount := 0
    lwOn := none
    recov := t.keepLog
    core := { t.core with
      epc := epc
      ecause := ecause
      einfo := einfo
      sup := true
      inHandler := true
      noteDue := 0
      pc := t.tvec } }

/-- A notification, not a trap (R384). -/
def Cause.isNote : Cause → Bool
  | .tileRetired => true
  | .preempt => true
  | _ => false

/-- Why an entry is fatal, as an FCAUSE: a trap in supervisor mode, or no handler (R386). -/
def Tile.fatalCause (t : Tile) (c : Cause) : Option Nat :=
  if t.tvec = noHandler then some 4 else if t.core.sup && !c.isNote then some 5 else none

/-- The tile stops and its context ends (R386). -/
def State.fatal1 (s : State) (phys fcause : Nat) : State :=
  let t := s.getTile phys
  let s := s.tileEvent t 0x27 [t.core.ecause, nat32 t.core.epc.toNat]
  let s := s.putTile { t with stat := .stopped }
  s.doomContext t.ctx fcause true

/-- Another rank stops between bundles (R128, R385): its own next bundle, COMP and the same cause; R385 gives cr.einfo no
value there. -/
def State.enterComp (s : State) (phys : Nat) (c : Cause) : State :=
  let t := s.getTile phys
  let (w, s) := s.fresh
  s.putTile (t.enter t.core.pc (ecauseWord c compBit 0 (s.lengthAt t t.core.pc.toNat) 0) w)

/-- A rerun ends at a trap as at a checkpoint point (R143). -/
def Tile.inRerun (t : Tile) : Bool :=
  match t.recov.phase with
  | .run => false
  | .stop => false
  | _ => true

/-- An entry at a point where every operation has landed: the checkpoint is taken with the entry's registers as its state, and the
next bundle is at cr.tvec (R382, R385, R386). -/
def State.enterCause (s : State) (c : Cause) (epc : BitVec 20) (info : Word) (bits word len code : Nat) : State :=
  let me := s.tile
  let others := s.ranks.filter fun p => decide (p ≠ me.phys)
  let fatal := me.fatalCause c
  let s := { s with tile := me.enter epc (ecauseWord c bits word len code) info }.modClock me.phys fun r =>
    { r with clock := r.clock.enter }
  let s := others.foldl (fun s p => s.enterComp p c) s
  if me.inRerun then
    s.eachRank fun s => { s with tile := { s.tile with recov := { s.tile.recov with ended := true, fatal := fatal.isSome } } }
  else
    let s := s.eachRank State.commit1
    match fatal with
    | some f => s.fatal1 me.phys f
    | none => s

/-- A rank with a poisoned register, and its poison. -/
def State.rankPoison (s : State) : Option (Nat × Poison) :=
  s.ranks.findSome? fun p => ((s.getTile p).poison.head?).map fun x => (p, x)

/-- A poisoned register at a checkpoint point raises access-fault at the following bundle of its tile (R280). -/
def State.poisonTrap (s : State) (p : Nat × Poison) : State :=
  let s1 := s.focus p.1
  let pc := s1.tile.core.pc
  (s1.enterCause .accessFault pc (nat32 p.2.pc.toNat) (uncBit + poisBit) 0 (s1.lengthAt s1.tile pc.toNat) 0).focus s.tile.phys

/-- THE ONE TAKING OF A TRAP OR NOTIFICATION (R382): operations land, then the entry. `epc` names the bundle; `bits` are UNC, POIS
and FETCH. An error that the landing operations show is handled first (R146), and the entry is a checkpoint point, at which a
poisoned register raises access-fault instead (R280). -/
def State.enterTrap (s : State) (c : Cause) (epc : BitVec 20) (info : Word) (bits word len code : Nat) : State :=
  let s := s.drain
  if s.errorPending then s.spreadError
  else if bits / poisBit % 2 = 1 then s.enterCause c epc info bits word len code
  else
    match s.rankPoison with
    | some p => s.poisonTrap p
    | none => s.enterCause c epc info bits word len code

/-- A trap of the bundle being issued, which has not issued: it is the next bundle of its tile again (R55). -/
def State.takeTrap (s : State) (c : Cause) (info : Word) (bits code : Nat) : State :=
  { s with tile := { s.tile with core := { s.tile.core with pc := s.iss.pc } } }.enterTrap c s.iss.pc info bits s.iss.word s.iss.len code

/-- The next packet index, and the mode, that `eret` leaves (R388), from cr.epc and cr.ecause as `c` holds them: in a launch
with SUP = 1 only the program counter changes. -/
def Tile.returned (t : Tile) (c : Core) (next : Bool) : Tile :=
  let len := c.ecause.toNat / 2 ^ 10 % 4 + 1
  let pc := if next then c.epc + BitVec.ofNat 20 len else c.epc
  if t.task.supLaunch then { t with core := { t.core with pc := pc, inHandler := false, noteDue := t.notes.length } }
  else { t with core := { t.core with pc := pc, sup := false, inHandler := false } }

/-! ### The frame of an operation -/

/-- What the body of an operation answers: its effect, a trap of its own execution, a wait, a wait of `lwait` with the request
it has made (R370), or the need of a checkpoint first. -/
inductive Body where
  | ok (s : State)
  | trap (c : Cause) (info : Word) (bits code : Nat)
  | stall
  | waiting (s : State)
  | ckpt

/-- The checks and waits of an operation, before its body: the decode check (R46, R56 step 2), its operands (R53), whether
it is a checkpointing operation (R137), whether something else holds its bundle, and its guard. -/
structure Gate where
  chk : Option Cause
  uses : Uses
  ckop : Bool
  wait : Bool
  g : Bool

def State.setStatus (s : State) (x : IssueStatus) : State := { s with iss := { s.iss with status := x } }

/-- A trap taken for the bundle, marked with the step of R56 at which it was found. -/
def State.trapAt (s : State) (c : Cause) (info : Word) (bits code : Nat) (x : IssueStatus) : State :=
  (s.takeTrap c info bits code).setStatus x

/-- A bundle with a checkpointing operation is an interval of its own (R137). -/
def State.markDue (s : State) (b : Bool) : State := if b then { s with tile := { s.tile with ckDue := true } } else s

/-- The input streams that an operation names advance when its guard is true (R48). -/
def State.popUses (s : State) (u : Uses) : State := s.popPorts u.vecs

/-- One operation: decode check, checkpoint before it, waits, guard, execution (R46, R53, R55, R56, R137). -/
def State.runOp (s : State) (x : Gate) (body : State → Body) : Host.Outcome State Fault Refusal :=
  match x.chk with
  | some c => .next (s.trapAt c s.iss.raw 0 0 .trapDecode)
  | none =>
    if (x.ckop && !s.src.ckFresh) || s.tokenCheckpoint x.uses then .next (s.setStatus .ckpt)
    else if x.wait || s.waits x.uses then .next (s.setStatus .stall)
    else
      let due := x.ckop || s.readsToken x.uses
      if x.g then
        match s.streamFault x.uses.vecs x.uses.dvecs with
        | some q => .next (s.trapAt .streamFault (nat32 q) 0 0 .trapExec)
        | none =>
          match body (s.popUses x.uses) with
          | .ok s' => .next (s'.markDue due)
          | .trap c info bits code => .next (s.trapAt c info bits code .trapExec)
          | .stall => .next (s.setStatus .stall)
          | .waiting s' => .next (s'.setStatus .stall)
          | .ckpt => .next (s.setStatus .ckpt)
      else .next (s.markDue due)

/-- A plain gate: a decode check, operands and a guard. -/
def State.gate (s : State) (g : Guard) (chk : Option Cause) (u : Uses) : Gate := ⟨chk, u, false, false, s.guard g⟩

def usesRegs (l : List Reg) (d : List Reg) : Uses := ⟨l, [], d, []⟩

end Sys2Proof.Machine
end

