-- ==== Sys2Proof/Machine/Recover.lean ====
section
/-! DEFINITION. Recovery from a data error (R142 to R146, R206, R292): restoring, the signature of a rerun, its comparison, and
the retirement of a tile (R144, R395). -/

namespace Sys2Proof.Machine

/-! ### Restoring -/

/-- A discarded entry of the queue frees its reservation or its job slot (R135, R139, R355). -/
def State.discard1 (s : State) (phys : Nat) (h : Held) : State :=
  let t := s.getTile phys
  match h with
  | .job slot => s.putTile { t with jobs := t.jobs.filter fun j => decide (j.slot ≠ slot) }
  | .spawn tgt _ _ =>
    match s.logical t.ctx tgt with
    | some u => if u.stat = .reserved then (s.putTile { u with stat := .idle }).noteIdle u.phys else s
    | none => s
  | _ => s

/-- Every port returns to its binding and position, its FIFO empty (R206). -/
def Core.emptyFifos (c : Core) : Core :=
  { c with ports := Vector.ofFn fun (i : Fin 12) => { c.ports[i] with fifo := [] } }

/-- A weight buffer put back; a word that has turned uncorrectable stays so. -/
def Mem.rolled (ck m : Mem) : Mem := { ck with bad := ck.bad ++ m.bad.filter fun w => !ck.bad.contains w }

/-- RESTORE-A and RESTORE-B on one tile: units, accumulators, weight buffers, registers (R142, R269). -/
def Tile.restore (t : Tile) : Tile :=
  let win := t.rb.foldl Mem.putUnit t.win
  { t with
    recov := if t.ck.inHandler then t.recov else { t.recov with log := t.recov.kept ++ t.recov.log, kept := [] }
    core := t.ck.emptyFifos
    win := win.copyRange t.shadow 0x1A0000 0x1E0000
    wb0 := t.ckWb0.rolled t.wb0
    wb1 := t.ckWb1.rolled t.wb1
    latBad := []
    flintBad := []
    pend := []
    loads := []
    cq := []
    rb := []
    loadBuf := []
    mq := []
    poison := t.ckPoison
    unpins := []
    ckFresh := true
    ckDue := false
    haltDue := false
    lwCount := 0
    lwOn := none }

/-- The units that a rollback cannot restore, since another agent has written them too: of the scratchpad and the tile file
those the program wrote as well, of the accumulators all (R138, R274). -/
def Tile.sharedUnits (t : Tile) : List Nat :=
  t.extWr.filter fun u => decide (0x1A0000 ≤ u) || t.rb.any fun r => decide (r.unit = u)

/-- Units of 64 bytes of the window become undefined (R3). -/
def Tile.undefUnits (t : Tile) (us : List Nat) (seed : Nat) : Tile :=
  { t with win := us.foldl (fun m u => m.undefine u (u + 64) seed) t.win }

/-- The focused tile discards its queue and is restored, its ribbon at the common time of the checkpoint (R145). -/
def State.restore1 (s : State) : State :=
  let s := s.tile.cq.foldl (fun x h => x.discard1 s.tile.phys h) s
  let us := s.tile.sharedUnits
  { s with
    tile := s.tile.restore.undefUnits us s.free
    free := if us.isEmpty then s.free else s.free + 1 }.modClock s.tile.phys fun r => { r with clock := r.ck }

def RPhase.next : RPhase → RPhase
  | .stop => .rerunA
  | .restoreB => .rerunB
  | p => p

def Recov.restored (r : Recov) : Recov := { r with phase := r.phase.next, ended := false, fatal := false, retired := 0 }

/-- RECOVERY_RESTORE of the focused tile or ribbon, once issued operations have landed (R142, R145). -/
def State.recoveryRestore (s : State) : State :=
  let s := s.spreadError
  if s.ranks.all fun p =>
      let t := s.getTile p
      (decide (t.recov.phase = .stop) || decide (t.recov.phase = .restoreB)) && !t.waitsEngine then
    s.eachRank fun x =>
      let x := x.land1.restore1
      { x with tile := { x.tile with recov := x.tile.recov.restored } }
  else s

/-! ### The signature (R143) -/

/-- One bit of CRC-32C, in the reflected form of its polynomial 0x1EDC_6F41. -/
def crcBit (c : Nat) : Nat := if c % 2 = 1 then (c / 2) ^^^ 0x82F63B78 else c / 2

def crcByte (c : Nat) (b : Byte) : Nat := crcBit (crcBit (crcBit (crcBit (crcBit (crcBit (crcBit (crcBit (c ^^^ b.toNat))))))))

/-- CRC-32C: initial value all ones, final complement. -/
def crc32c (bs : List Byte) : Nat := (bs.foldl crcByte 0xFFFFFFFF) ^^^ 0xFFFFFFFF

def natsBytes (l : List Nat) : List Byte := l.flatMap (bytesOfNat 8)
def wordsNats (l : List Word) : List Nat := l.map BitVec.toNat
def cellNats (l : List Host.Cell) : List Nat := l.flatMap fun c => [c.1, c.2.toNat]

def AtomOp.number : AtomOp → Nat
  | .add => 0
  | .incb => 1
  | .cas => 2

/-- What a job is, and its operands. -/
def JobKind.nats : JobKind → List Nat
  | .cpy => [0]
  | .cpf => [1]
  | .cgat => [2]
  | .cscat => [3]
  | .cfence => [4]
  | .post h => [5, h.toNat]
  | .xst dva fva src len => [6, dva, fva, src.toNat, len.toNat]
  | .xatom op va v e => [7, op.number, va, v.toNat, e.toNat]

/-- An entry of the queue as the numbers the signature covers; a job stands for its slot, token register, kind, operands and
card. -/
def Held.nats (t : Tile) : Held → List Nat
  | .store cells _ => 1 :: cellNats cells
  | .tst _ cells _ => 2 :: cellNats cells
  | .atomic op a v e => [3, op.number, a, v.toNat, e.toNat]
  | .job slot =>
    match t.job? slot with
    | none => [4, slot]
    | some j =>
      [4, slot, (j.tok.getD 0).toNat, j.cardAddr] ++ j.kind.nats ++ wordsNats (j.card.getD [])
  | .spawn tgt entry regs => [5, tgt, entry] ++ wordsNats regs
  | .trig _ => [6]
  | .barv sc a n f => [7, sc, a, n, f.toNat]
  | .bartx sc a n b => [8, sc, a, n, b.toNat]
  | .cadd sc a inc => [9, sc, a, inc.toNat]
  | .phaseRel sc => [10, sc]
  | .stf cells flag _ => 11 :: flag :: cellNats cells
  | .vec q cells => 14 :: q :: cellNats cells
  | .streamDone bar q => [12, bar, q]
  | .sev code kill p => [13, code, if kill then 1 else 0] ++ wordsNats p

def Port.nats (p : Port) : List Nat :=
  [if p.bound then 1 else 0, if p.out then 1 else 0, p.total, p.pos] ++ wordsNats p.desc

/-- The registers of a list, in their order. -/
def regNats (l : List Reg) : List Nat := (List.range 64).filter fun n => l.contains (BitVec.ofNat 6 n)

/-- The register image that a checkpoint commits, token states among it (R137). -/
def Core.nats (c : Core) : List Nat :=
  [c.pc.toNat, c.p.toNat, c.flags.toNat, c.fpctl.toNat, c.lwlim.toNat, c.epc.toNat, c.ecause.toNat, c.einfo.toNat,
    c.ntmask.toNat, if c.sup then 1 else 0, c.wbCfg0.toNat, c.wbCfg1.toNat, if c.latBuf then 1 else 0,
    if c.latValid then 1 else 0, c.flint.fst.toNat] ++
  wordsNats c.s.toList ++ wordsNats c.lat.toList ++ wordsNats c.ss.toList ++ wordsNats c.tcfg.toList ++
  wordsNats c.flint.sg.toList ++ c.flint.map.toList.map BitVec.toNat ++ c.flint.lead.toList.map BitVec.toNat ++
  c.flint.cnt.toList.map BitVec.toNat ++ c.ports.toList.flatMap Port.nats ++
  regNats (c.tokPend.map (·.reg)) ++ 64 :: regNats c.tokDone ++ 64 :: c.pins.flatMap fun p => [p.obj, p.layer, p.depth]

/-- A saved unit put into a list in ascending order of address. -/
def insertUnit : List Nat → Nat → List Nat
  | [], u => [u]
  | v :: l, u => if u ≤ v then u :: v :: l else v :: insertUnit l u

/-- The signature of a rerun: queue entries, saved units with their new contents, the register image and the
accumulators (R143). -/
def Tile.signature (t : Tile) : Word :=
  nat32 (crc32c (natsBytes (t.cq.flatMap (Held.nats t)) ++
    ((t.rb.map (·.unit)).foldl insertUnit []).flatMap (fun u => bytesOfNat 8 u ++ t.win.read u 64) ++
    natsBytes t.core.nats ++ t.win.read 0x1A0000 0x40000))

/-- The recovery sequence is over; the log stays until the interval has committed (R140). -/
def Recov.over (r : Recov) : Recov := { Recov.idle with log := r.log, kept := r.kept }

/-! ### Retirement (R144, R395) -/

/-- The distance classes of R395: same cluster, same die, same device. -/
def near0 (a b : Nat) : Bool := decide (a / 16 = b / 16)
def near1 (a b : Nat) : Bool := decide (a / 256 = b / 256)

/-- The first of a list in the order of R395 from tile `from`. -/
def closest (l : List Nat) (origin : Nat) : Option Nat :=
  match l.find? (near0 · origin) with
  | some p => some p
  | none => match l.find? (near1 · origin) with
    | some p => some p
    | none => l.head?

/-- The free tiles of the device pool, lowest first (R395). -/
def State.poolTiles (s : State) : List Nat :=
  (List.range 512).filter fun p => decide ((s.getTile p).stat = .unbound)

def State.idleTiles (s : State) (ctx : Nat) : List Nat :=
  (List.range 512).filter fun p =>
    let t := s.getTile p
    t.boundTo ctx && decide (t.stat = .idle) && (s.ribbonOf p).isNone

/-- Runs of n consecutive tiles of one cluster among some tiles (R24). -/
def runsAmong (l : List Nat) (n : Nat) : List (List Nat) :=
  l.filterMap fun p =>
    let r := (List.range n).map (p + ·)
    if r.all (fun x => l.contains x && near0 x p) then some r else none

/-- Everything a tile holds but its physical number and its cycle count (R117), taken over by the tile `u`. -/
def Tile.moveTo (t u : Tile) : Tile := { t with phys := u.phys, cyc := u.cyc, tlb := [], doomed := false }

/-- A tile that no context uses any more: back in the pool or, once its reruns have disagreed, out of it for good (R24). -/
def State.vacate (s : State) (p : Nat) (bad : Bool) : State :=
  let t := s.getTile p
  { s.putTile ({ t with doomed := t.doomed || bad }.pool s.free) with free := s.free + 1 }

/-- Ribbons and binds name the new physical tile, and the trees of its context are placed again. -/
def State.renumber (s : State) (old new : Nat) : State :=
  let s1 : State := { s with dev := { s.dev with
    binds := s.dev.binds.map fun b => if b.ptile = old then { b with ptile := new } else b
    ribbons := s.dev.ribbons.map fun (r : Ribbon) =>
      { r with tiles := r.tiles.map fun p => if p = old then new else p } } }
  s1.placeTrees (s.getTile new).ctx

/-- The images that a tile may run stand in the code store of the cluster of its new place: its handler's, and those of the launches
that may bind it or whose task it runs (R21, R119). -/
def State.carryImages (s : State) (t : Tile) (old new : Nat) : State :=
  if old / 16 = new / 16 then s
  else
    let mine := if t.stat = .running ∨ t.stat = .halting then [(t.task.imgBase, t.task.imgSize)] else []
    let gs := ((s.imagesOf t.ctx).filter fun g => g.2.contains t.ltile).map Prod.fst ++ mine
    { s with dev := { s.dev with code := gs.foldl (fun m g =>
        m.move m (codeStore (old / 16) + 12 * g.1) (codeStore (new / 16) + 12 * g.1) (12 * g.2)) s.dev.code } }

/-- The displaced number of an idle tile moves to a free tile of the pool outside `avoid`, window and all (R395); unchanged where no
tile is free. -/
def State.displace (avoid : List Nat) (s : State) (p : Nat) : State :=
  match closest (s.poolTiles.filter fun x => !avoid.contains x) p with
  | none => s
  | some q =>
    let t := s.getTile p
    (((s.putTile (t.moveTo (s.getTile q))).vacate p false).renumber p q).carryImages t p q

/-- The tiles that can replace a run of n tiles that `origin` is one of and that has the tiles `own`: idle tiles of the context nearest
first, else free tiles of the pool; with whether their numbers are displaced. None when no replacement exists. -/
def State.replacement (s : State) (ctx origin n : Nat) (own : List Nat) : Option (List Nat × Bool) :=
  let pick (l : List Nat) : Option (List Nat) :=
    let rs := runsAmong l n
    (closest (rs.filterMap List.head?) origin).map fun p => (List.range n).map (p + ·)
  let pool := s.poolTiles
  match pick ((s.idleTiles ctx).filter fun p => !own.contains p) with
  | some r => if n ≤ pool.length then some (r, true) else none
  | none => (pick pool).map fun r => (r, false)

/-- A context goes to the Save rung (R395, R407). -/
def State.enterSave (s : State) (ctx : Nat) : State :=
  let s := s.modCtx ctx fun c => { c with state := .save, rung := 2 }
  s.modQueuesOf ctx fun x => { x with rung := 2 }

/-- One tile of a retiring unit moves: the disagreeing one leaves the pool for good, a healthy one returns to it. -/
def State.moveTile (s : State) (old new : Nat) (bad : Bool) : State :=
  let t := s.getTile old
  let notes := if bad then t.notes ++ [.retired old] else t.notes
  let s := s.putTile { t.moveTo (s.getTile new) with notes := notes, recov := t.recov.over }
  let s := ((s.vacate old bad).renumber old new).carryImages t old new
  if bad then s.tileEvent (s.getTile new) 0x20 [nat32 (old + new * 2 ^ 16)] else s

/-- A tile of a retiring unit that has no replacement: it goes to the save area as it was restored, a disagreeing one with its
notification, and leaves the pool when it is saved (R24, R395). -/
def Tile.await (t : Tile) (bad : Bool) : Tile :=
  { t with
    recov := t.recov.over
    doomed := t.doomed || bad
    notes := if bad then t.notes ++ [.retired t.phys] else t.notes }

/-- The tiles of the focused tile's unit, by rank: a ribbon has one for every rank, that of an ended task as long as it is idle (R145). -/
def State.unitTiles (s : State) : List (Option Nat) :=
  let me := s.tile
  match s.ribbonOf me.phys with
  | none => [some me.phys]
  | some r => r.tiles.zipIdx.map fun p =>
      if p.1 ≠ endedRank then some p.1
      else ((s.logical me.ctx (me.ltile - me.task.rank + p.2)).filter s.isIdle).map (·.phys)

/-- TILE_RETIRE: the restored unit moves to its replacement, every rank to its place there; without one the context is pre-empted from
the Save rung with FCAUSE 7 (R145, R395). The focus follows the unit. -/
def State.retire (s : State) (bad : List Nat) : State :=
  let me := s.tile.phys
  let unit := s.unitTiles
  let ctx := s.tile.ctx
  match s.replacement ctx me unit.length (unit.filterMap id) with
  | none =>
    let s := s.eachRank fun x => { x with tile := x.tile.await (bad.contains x.tile.phys) }
    (s.enterSave ctx).modQueuesOf ctx fun x => { x with fcause := 7 }
  | some (r, displaced) =>
    let s := if displaced then r.foldl (State.displace r) s else s
    let moves := (unit.zip r).filterMap fun p => p.1.map fun old => (old, p.2)
    let s := moves.foldl (fun x p => x.moveTile p.1 p.2 (bad.contains p.1)) s
    s.focus ((moves.find? fun p => decide (p.1 = me)).map Prod.snd |>.getD me)

/-! ### A checkpoint point (R137, R142, R280) -/

/-- The focused tile or ribbon is at a checkpoint point: a poisoned register raises its access-fault there (R280); a rerun ends
there; otherwise the checkpoint is taken, once no result waits for another engine. -/
def State.checkpointPoint (s : State) : State :=
  if s.tile.stat ≠ .running ∨ s.errorPending = true ∨ (s.ranks.any fun p => (s.getTile p).waitsEngine) = true then s
  else
    let s := s.drain
    if s.errorPending then s.spreadError
    else
      match s.rankPoison with
      | some p => s.poisonTrap p
      | none =>
        if s.tile.inRerun then s.eachRank fun x => { x with tile := { x.tile with recov := { x.tile.recov with ended := true } } }
        else s.eachRank State.commit1

/-! ### The end of a rerun (R142) -/

/-- Whether a rank's second rerun agrees with its first. -/
def Tile.agrees (t : Tile) : Bool :=
  !t.recov.err && decide (t.recov.retired = t.recov.countA) && decide (t.signature = t.recov.sigA)

def Recov.recordA (r : Recov) (sg : Word) : Recov :=
  { r with phase := .restoreB, countA := r.retired, sigA := sg, ended := false, fatal := false }

/-- RERUN_END of the focused tile or ribbon: after the first rerun, count and signature are recorded; after the second, the
state commits, or a disagreeing tile retires (R142, R145). -/
def State.rerunEnd (s : State) : State :=
  let ready := s.ranks.all fun p =>
    let t := s.getTile p
    t.inRerun && decide (t.recov.phase ≠ .restoreB) && !t.waitsEngine
  let ended := s.ranks.any fun p => (s.getTile p).recov.ended
  if ready && ended then
    let s := s.drain
    if s.ranks.all fun p => decide ((s.getTile p).recov.phase = .rerunA) then
      s.eachRank fun x => { x with tile := { x.tile with recov := x.tile.recov.recordA x.tile.signature } }
    else
      let bad := s.ranks.filter fun p => !(s.getTile p).agrees
      if bad.isEmpty then
        let fatal := s.ranks.find? fun p => (s.getTile p).recov.fatal
        let s := s.eachRank fun x => { x with tile := { x.tile with recov := x.tile.recov.over } }
        let s := s.eachRank State.commit1
        match fatal with
        | some p => s.fatal1 p (if (s.getTile p).tvec = noHandler then 4 else 5)
        | none => s
      else s.applied .firmware fun s => (s.eachRank State.restore1).retire bad
  else s

end Sys2Proof.Machine
end

