-- ==== Sys2Proof/Machine/Scalar.lean ====
section
/-! DEFINITION. Bundle framing (R32, R33) and the scalar, compare and predicate instructions (R94 to R117). -/

namespace Sys2Proof.Machine

/-! ### Shared forms -/

/-- The gate of an F-S operation with D, A and B, all of them scalar. -/
def State.fsGate (s : State) (o : FS) (src : List Reg) : Gate :=
  s.gate o.g (operandCheck (s.src.regOk o.d && s.src.regOk o.a && s.src.bOk o.b)) (usesRegs src [o.d])

/-- sD := f(sA, Bval) with flags, at a latency bound (R98, R106). -/
def State.alu (s : State) (o : FS) (bound : Nat) (f : Word → Word → Word × Word) : Host.Outcome State Fault Refusal :=
  s.runOp (s.fsGate o (o.a :: o.b.regs)) fun s =>
    let r := f (s.rd o.a) (s.bval o.b)
    .ok (s.deliver bound [(.sreg o.d, r.1)] r.2)

/-- The same for an operation that reads sD as well. -/
def State.alu3 (s : State) (o : FS) (bound : Nat) (f : Word → Word → Word → Word × Word) :
    Host.Outcome State Fault Refusal :=
  s.runOp (s.fsGate o (o.d :: o.a :: o.b.regs)) fun s =>
    let r := f (s.rd o.d) (s.rd o.a) (s.bval o.b)
    .ok (s.deliver bound [(.sreg o.d, r.1)] r.2)

/-- sD := f(sA). -/
def State.alu1 (s : State) (o : FDA) (f : Word → Word) : Host.Outcome State Fault Refusal :=
  s.runOp (s.gate o.g (operandCheck (s.src.regOk o.d && s.src.regOk o.a)) (usesRegs [o.a] [o.d])) fun s =>
    .ok (s.deliver 1 [(.sreg o.d, f (s.rd o.a))] 0)

/-- A pure integer function has no flags. -/
def noFlags (f : Word → Word → Word) (a b : Word) : Word × Word := (f a b, 0)

/-! ### Framing (R32, R33) -/

/-- `nop` (R32). -/
def execNop (s : State) : Host.Outcome State Fault Refusal := .next s

/-- `lpx`: the pool extension is framing, done at the fetch (R33). -/
def execLpx (_n : BitVec 2) (s : State) : Host.Outcome State Fault Refusal := .next s

/-! ### Integer and address instructions (R98 to R105) -/

def execAdd (o : FS) (s : State) : Host.Outcome State Fault Refusal := s.alu o 1 (noFlags (· + ·))
def execSub (o : FS) (s : State) : Host.Outcome State Fault Refusal := s.alu o 1 (noFlags (· - ·))

/-- The exact signed product (R101). -/
def sprod (a b : Word) : Int := a.toInt * b.toInt

/-- p[31:0]. -/
def mulLo (a b : Word) : Word := BitVec.ofInt 32 (sprod a b)

/-- p[63:32]. -/
def mulHi (a b : Word) : Word := BitVec.ofInt 32 (sprod a b / 2 ^ 32)

def execMul (o : FS) (s : State) : Host.Outcome State Fault Refusal := s.alu o 3 (noFlags mulLo)
def execMulh (o : FS) (s : State) : Host.Outcome State Fault Refusal := s.alu o 3 (noFlags mulHi)
def execAnd (o : FS) (s : State) : Host.Outcome State Fault Refusal := s.alu o 1 (noFlags (· &&& ·))
def execOr (o : FS) (s : State) : Host.Outcome State Fault Refusal := s.alu o 1 (noFlags (· ||| ·))
def execXor (o : FS) (s : State) : Host.Outcome State Fault Refusal := s.alu o 1 (noFlags (· ^^^ ·))

/-- The shift amount Bval[5:0] (R100). -/
def shamt (b : Word) : Nat := b.toNat % 64

def shlWord (a b : Word) : Word := if shamt b < 32 then a <<< shamt b else 0
def shrWord (a b : Word) : Word := if shamt b < 32 then a >>> shamt b else 0
def sraWord (a b : Word) : Word :=
  if shamt b < 32 then a.sshiftRight (shamt b) else if a.getLsbD 31 then 0xFFFFFFFF else 0

def execShl (o : FS) (s : State) : Host.Outcome State Fault Refusal := s.alu o 1 (noFlags shlWord)
def execShr (o : FS) (s : State) : Host.Outcome State Fault Refusal := s.alu o 1 (noFlags shrWord)
def execSra (o : FS) (s : State) : Host.Outcome State Fault Refusal := s.alu o 1 (noFlags sraWord)

def minWord (a b : Word) : Word := if a.toInt ≤ b.toInt then a else b
def maxWord (a b : Word) : Word := if a.toInt ≤ b.toInt then b else a

def execMin (o : FS) (s : State) : Host.Outcome State Fault Refusal := s.alu o 1 (noFlags minWord)
def execMax (o : FS) (s : State) : Host.Outcome State Fault Refusal := s.alu o 1 (noFlags maxWord)

/-- Leading zero bits, 32 for zero (R102). -/
def clzWord (a : Word) : Word := nat32 (32 - bitLen a.toNat)

/-- One bits (R102). -/
def popcWord (a : Word) : Word := nat32 ((List.range 32).filter fun i => a.getLsbD i).length

def execClz (o : FDA) (s : State) : Host.Outcome State Fault Refusal := s.alu1 o clzWord
def execPopc (o : FDA) (s : State) : Host.Outcome State Fault Refusal := s.alu1 o popcWord

/-- The field of Bval (R103): position, and the bits in range; w = 0 gives none. -/
def fieldPos (b : Word) : Nat := b.toNat % 32
def fieldLen (b : Word) : Nat := b.toNat / 32 % 64
def fieldBits (b : Word) : Nat := min (fieldPos b + fieldLen b) 32 - fieldPos b

/-- `bext` (R103). -/
def bextWord (a b : Word) : Word :=
  if fieldLen b = 0 then 0
  else
    let f := a.toNat / 2 ^ fieldPos b % 2 ^ fieldBits b
    if b.getLsbD 11 then BitVec.ofInt 32 (sextN (fieldBits b) f) else nat32 f

/-- `bins` with a field of at least one bit (R103). -/
def binsWord (d a b : Word) : Word :=
  let mask := nat32 ((2 ^ fieldBits b - 1) * 2 ^ fieldPos b)
  (d &&& ~~~mask) ||| ((a <<< fieldPos b) &&& mask)

def execBext (o : FS) (s : State) : Host.Outcome State Fault Refusal := s.alu o 1 (noFlags bextWord)
/-- An empty field writes nothing (R103). -/
def execBins (o : FS) (s : State) : Host.Outcome State Fault Refusal :=
  s.runOp (s.fsGate o (o.d :: o.a :: o.b.regs)) fun s =>
    .ok (if fieldLen (s.bval o.b) = 0 then s
      else s.deliver 1 [(.sreg o.d, binsWord (s.rd o.d) (s.rd o.a) (s.bval o.b))] 0)

/-- `lea` (R104). -/
def leaWord (a b : Word) : Word := 0x40000000 ||| (((a &&& 0x1FF) <<< 21) ||| (b &&& 0x1FFFFF))

def execLea (o : FS) (s : State) : Host.Outcome State Fault Refusal := s.alu o 1 (noFlags leaWord)

/-- `mov` (R102). -/
def execMov (o : FDB) (s : State) : Host.Outcome State Fault Refusal :=
  s.runOp (s.gate o.g (operandCheck (s.src.regOk o.d && s.src.bOk o.b)) (usesRegs o.b.regs [o.d])) fun s =>
    .ok (s.deliver 1 [(.sreg o.d, s.bval o.b)] 0)

/-- `add64` (R105): the two halves are two destinations (R49). -/
def execAdd64 (o : FS) (s : State) : Host.Outcome State Fault Refusal :=
  s.runOp (s.gate o.g (operandCheck (s.src.pairOk o.d && s.src.pairOk o.a && s.src.b64Ok o.b))
      (usesRegs (o.a :: pairHi o.a :: o.b.regs64) [o.d, pairHi o.d])) fun s =>
    let v := s.rdPair o.a + s.bval64 o.b
    .ok (s.deliver 1 [(.sreg o.d, v.setWidth 32), (.sreg (pairHi o.d), (v >>> 32).setWidth 32)] 0)

/-! ### Control registers (R113 to R117) -/

/-- The number's checks are made at issue, once its register is ready; they belong to step 2 of R56 (R115). -/
def State.crCheck (s : State) (ok write : Bool) (b : BOp) (u : Uses) : Option Cause :=
  let c := if s.waits u then none else crCause s.src.core.sup write (s.bval b)
  if c = some .privilege then c else if ok then c else some .illegalOperand

/-- `rdcr` (R113): cr.flags waits for earlier flags (R82); cr.cyc latches cr.cych (R117). -/
def execRdcr (o : FDB) (s : State) : Host.Outcome State Fault Refusal :=
  let u := usesRegs o.b.regs [o.d]
  let n := (s.bval o.b).toNat
  s.runOp { s.gate o.g (s.crCheck (s.src.regOk o.d && s.src.bOk o.b) false o.b u) u with
      wait := decide (n = 1) && s.src.flagsBusy } fun s =>
    let v := if n = 5 ∧ s.readsCyc = true then nat32 (s.src.cyc / 2 ^ 32) else s.atIssue.readCr s.src s.iss.pc n
    let s := if n = 4 then { s with tile := { s.tile with cych := nat32 (s.src.cyc / 2 ^ 32) } } else s
    .ok (s.deliver 2 [(.sreg o.d, v)] 0)

/-- `wrcr` (R113, R116): to cr.flags it takes effect first, and the bundle's other flags are ORed in after it (R82). -/
def execWrcr (o : FAB) (s : State) : Host.Outcome State Fault Refusal :=
  let u := usesRegs (o.a :: o.b.regs) []
  let n := (s.bval o.b).toNat
  s.runOp { s.gate o.g (s.crCheck (s.src.regOk o.a && s.src.bOk o.b) true o.b u) u with
      wait := decide (n = 1) && s.src.flagsBusy } fun s =>
    let s1 := s.writeCr n (s.rd o.a)
    .ok (if n = 1 then { s1 with tile := s1.tile.orFlags s.iss.fl } else s1)

/-! ### Scalar floating point (R106, R107) -/

/-- The rounding mode of cr.fpctl at issue (R78, R79). -/
def State.rm (s : State) : RMode := RMode.ofBits s.src.core.fpctl.toNat

def FRes.word (r : FRes) : Word × Word := (nat32 r.bits, r.fl)

def execFadd (o : FS) (s : State) : Host.Outcome State Fault Refusal :=
  s.alu o 4 fun a b => (FFmt.f32.add s.rm a.toNat b.toNat).word
def execFmul (o : FS) (s : State) : Host.Outcome State Fault Refusal :=
  s.alu o 4 fun a b => (FFmt.f32.mul s.rm a.toNat b.toNat).word
def execFmac (o : FS) (s : State) : Host.Outcome State Fault Refusal :=
  s.alu3 o 4 fun d a b => (FFmt.f32.fma s.rm d.toNat a.toNat b.toNat).word
def execFmin (o : FS) (s : State) : Host.Outcome State Fault Refusal :=
  s.alu o 4 fun a b => (FFmt.f32.minmax false a.toNat b.toNat).word
def execFmax (o : FS) (s : State) : Host.Outcome State Fault Refusal :=
  s.alu o 4 fun a b => (FFmt.f32.minmax true a.toNat b.toNat).word

/-! ### Compares and predicate logic (R108 to R112) -/

/-- A predicate written at the end of the cycle, with flags (R95, R82). -/
def State.putPred (s : State) (pd : BitVec 3) (v : Bool) (fl : Word) : State :=
  ({ s with tile := { s.tile with core := s.tile.core.setPred pd v } }).deliver 1 [] fl

/-- PD := f(sA, Bval), with flags. -/
def State.compare (s : State) (o : FC) (f : Word → Word → Bool × Word) : Host.Outcome State Fault Refusal :=
  s.runOp (s.gate o.g (operandCheck (s.src.regOk o.a && s.src.bOk o.b)) (usesRegs (o.a :: o.b.regs) [])) fun s =>
    let r := f (s.rd o.a) (s.bval o.b)
    .ok (s.putPred o.pd r.1 r.2)

/-- The six conditions on integers (R39, R109). -/
def ccInt (cc : BitVec 3) (a b : Int) : Bool :=
  match cc.toNat with
  | 0 => a = b
  | 1 => a ≠ b
  | 2 => a < b
  | 3 => a ≤ b
  | 4 => b < a
  | _ => b ≤ a

def execCmpI32 (o : FC) (s : State) : Host.Outcome State Fault Refusal :=
  s.compare o fun a b => (ccInt o.cc a.toInt b.toInt, 0)
def execCmpN32 (o : FC) (s : State) : Host.Outcome State Fault Refusal :=
  s.compare o fun a b => (ccInt o.cc a.toNat b.toNat, 0)

/-- The conditions on f32 values and their flags (R110). -/
def cmpF32 (cc : BitVec 3) (a b : Word) : Bool × Word :=
  let x := FFmt.f32.decode a.toNat
  let y := FFmt.f32.decode b.toNat
  let nan := x.isNan || y.isNan
  let k := cc.toNat
  let r := match k with
    | 6 => nan
    | 7 => !nan
    | _ => if nan then decide (k = 1) else ccInt cc (FFmt.f32.ord a.toNat) (FFmt.f32.ord b.toNat)
  let nv := x.isSnan || y.isSnan || (nan && decide (2 ≤ k) && decide (k ≤ 5))
  (r, flagIf nv fNV ||| flagIf (x.nonFinite || y.nonFinite) fNF)

def execCmpF32 (o : FC) (s : State) : Host.Outcome State Fault Refusal := s.compare o (cmpF32 o.cc)

/-- NR, NB, NA of a two-source predicate instruction (R111). -/
def State.predOp (s : State) (o : FP) (f : Bool → Bool → Bool) : Host.Outcome State Fault Refusal :=
  s.runOp (s.gate o.g none (usesRegs [] [])) fun s =>
    let x := s.src.core.pred o.a != o.k.getLsbD 0
    let y := s.src.core.pred o.b != o.k.getLsbD 1
    .ok (s.putPred o.pd (f x y != o.k.getLsbD 2) 0)

def execPand (o : FP) (s : State) : Host.Outcome State Fault Refusal := s.predOp o (· && ·)
def execPor (o : FP) (s : State) : Host.Outcome State Fault Refusal := s.predOp o (· || ·)
def execPxor (o : FP) (s : State) : Host.Outcome State Fault Refusal := s.predOp o (· != ·)
def execPnot (o : FN) (s : State) : Host.Outcome State Fault Refusal :=
  s.runOp (s.gate o.g none (usesRegs [] [])) fun s => .ok (s.putPred o.pd (!s.src.core.pred o.a) 0)

/-- `btst` (R112). -/
def execBtst (o : FC) (s : State) : Host.Outcome State Fault Refusal :=
  s.compare o fun a b => (a.getLsbD (b.toNat % 32) == decide (o.cc = 1), 0)

end Sys2Proof.Machine
end

