-- ==== Sys2Proof/Machine/Control1.lean ====
section
/-! DEFINITION. The control instructions (R129 to R141): branches, loops, the end of a task, traps, spawns, triggers and
checks. -/

namespace Sys2Proof.Machine

/-- The gate of a control operation that takes rank 0's guard (R127). -/
def State.ctlGate (s : State) (g : Guard) (chk : Option Cause) (u : Uses) : Gate :=
  { s.gate g chk u with g := s.ctlGuard g }

/-! ### Branches (R130 to R132) -/

/-- The next bundle is the one at a target. -/
def State.jump (s : State) (target : BitVec 20) : State :=
  { s with tile := { s.tile with core := { s.tile.core with pc := target } } }

/-- A taken `br`, `brl` or `jr` costs a cycle with no issue (R130). -/
def State.branch (s : State) (target : BitVec 20) : State :=
  let s := s.jump target
  { s with tile := { s.tile with cyc := s.tile.cyc + 1 } }

/-- pc + sext(disp), modulo 2^20 (R41). -/
def State.targetOf (s : State) {w : Nat} (j : BitVec w) : BitVec 20 := s.iss.pc + j.signExtend 20

/-- The packet index after the bundle. -/
def State.nextPc (s : State) : BitVec 20 := s.iss.pc + BitVec.ofNat 20 s.iss.len

/-- `br` (R131). -/
def execBr (o : FJ) (s : State) : Host.Outcome State Fault Refusal :=
  s.runOp (s.ctlGate o.g none (usesRegs [] [])) fun s => .ok (s.branch (s.targetOf o.j))

/-- `brl`: s63 holds the bundle after it (R131). -/
def execBrl (o : FJ) (s : State) : Host.Outcome State Fault Refusal :=
  s.runOp (s.ctlGate o.g none (usesRegs [] [63])) fun s =>
    .ok ((s.deliver 1 [(.sreg 63, s.nextPc.setWidth 32)] 0).branch (s.targetOf o.j))

/-- `jr`; in a ribbon a target that differs from rank 0's is ribbon-uniformity (R127, R132). -/
def execJr (o : FB) (s : State) : Host.Outcome State Fault Refusal :=
  s.runOp (s.ctlGate o.g (operandCheck (s.src.bOk o.b)) (usesRegs o.b.regs [])) fun s =>
    let t : BitVec 20 := (s.bval o.b).setWidth 20
    let lead : BitVec 20 := match s.decision.bind (·.jr) with
      | some w => w.setWidth 20
      | none => t
    if lead = t then .ok (s.branch t) else .trap .ribbonUniformity (nat32 s.src.task.rank) 0 0

/-- `loop` (R132); a decision that differs from rank 0's is ribbon-uniformity (R127). -/
def execLoop (o : FL) (s : State) : Host.Outcome State Fault Refusal :=
  s.runOp (s.ctlGate o.g (operandCheck (s.src.regOk o.a)) (usesRegs [o.a] [o.a])) fun s =>
    let n := s.rd o.a
    let taken := decide (1 < n.toNat)
    let lead := (s.decision.bind (·.loop)).getD taken
    if lead = taken then
      if taken then .ok ((s.deliver 1 [(.sreg o.a, n - 1)] 0).jump (s.targetOf o.j))
      else .ok (s.deliver 1 [(.sreg o.a, 0)] 0)
    else .trap .ribbonUniformity (nat32 s.src.task.rank) 0 0

/-! ### The end of a task (R133) -/

/-- `halt`: the bundle's other operations execute, then the implicit checkpoint is due. A poisoned register makes the bundle
raise access-fault instead (R280). -/
def execHalt (o : FG) (s : State) : Host.Outcome State Fault Refusal :=
  s.runOp (s.ctlGate o.g none (usesRegs [] [])) fun s =>
    if s.src.mq.isEmpty then
      match s.src.poison.head? with
      | some p => .trap .accessFault (nat32 p.pc.toNat) (uncBit + poisBit) 0
      | none => .ok { s with tile := { s.tile with haltDue := true, ckDue := true } }
    else .stall

/-! ### Traps, spawns and triggers (R134 to R136) -/

/-- `trap` (R134): Bval in cr.einfo, its low half in CODE. -/
def execTrap (o : FB) (s : State) : Host.Outcome State Fault Refusal :=
  s.runOp (s.gate o.g (operandCheck (s.src.bOk o.b)) (usesRegs o.b.regs [])) fun s =>
    .trap .softwareTrap (s.bval o.b) 0 ((s.bval o.b).toNat % 2 ^ 16)

/-- s48 to s55. -/
def spawnRegs : List Reg := [48, 49, 50, 51, 52, 53, 54, 55]

/-- The decode checks of `spawn` (R124, R135). -/
def State.spawnCheck (s : State) (o : FAB) : Option Cause :=
  firstCause [(s.src.feat 5, .illegalInstruction),
    (s.src.regOk o.a && s.src.bOk o.b && (s.src.core.sup || decide (56 ≤ s.src.task.sregs)), .illegalOperand)]

/-- Whether the context is draining, when every `spawn` finds its target busy (R407). -/
def State.draining (s : State) : Bool := ((s.ctx? s.src.ctx).map fun c => decide (c.state ≠ .run)).getD false

/-- An access-fault of an operation that forms no address: R384 gives cr.einfo no value for it. -/
def State.faultNoAddress (s : State) : State :=
  let r := s.fresh
  r.2.trapAt .accessFault r.1 0 0 .trapExec

/-- `spawn` (R135): the reservation is made at issue, the start is held in the queue. -/
def execSpawn (o : FAB) (s : State) : Host.Outcome State Fault Refusal :=
  s.runOp (s.gate o.g (s.spawnCheck o) (usesRegs (o.a :: o.b.regs ++ spawnRegs) [])) fun s =>
    let tgt := (s.rd o.a).toNat % 512
    match s.logical s.src.ctx tgt with
    | none => .ok s.faultNoAddress
    | some u =>
      if s.src.ntile ≤ tgt ∨ tgt = s.src.ltile ∨ u.phys / 16 ≠ s.src.phys / 16 then .ok s.faultNoAddress
      else if u.stat ≠ .idle ∨ s.draining = true then .trap .spawnBusy (nat32 tgt) 0 0
      else
        let s := s.putTile { u with stat := .reserved }
        .ok { s with tile := s.tile.enqueue (.spawn tgt ((s.bval o.b).toNat % 2 ^ 20) (spawnRegs.map s.rd)) }

/-- `trig`: once in a task (R136). The entry keeps the number of the jobs before it. -/
def execTrig (o : FG) (s : State) : Host.Outcome State Fault Refusal :=
  s.runOp (s.gate o.g none (usesRegs [] [])) fun s =>
    if s.tile.task.trigDone || s.tile.cq.any Held.isTrig || s.tile.released.any Held.isTrig then .ok s
    else .ok { s with tile := s.tile.enqueue (.trig s.tile.jobSq) }

/-! ### Checkpoints and checks (R141) -/

/-- `ckpt`: a checkpoint before the bundle's operations. -/
def execCkpt (o : FG) (s : State) : Host.Outcome State Fault Refusal :=
  s.runOp (s.gate o.g none (usesRegs [] [])) fun s => if s.src.ckFresh then .ok s else .ckpt

/-- `chk`: a difference is a data error at this bundle (R141, R142). -/
def execChk (o : FAB) (s : State) : Host.Outcome State Fault Refusal :=
  s.runOp (s.gate o.g (operandCheck (s.src.regOk o.a && s.src.bOk o.b)) (usesRegs (o.a :: o.b.regs) [])) fun s =>
    .ok (if s.rd o.a = s.bval o.b then s else { s with tile := s.tile.dataError })

end Sys2Proof.Machine
end

