-- ==== Sys2Proof/Machine/Convert.lean ====
section
/-! DEFINITION. The forms that vector operations share (R150, R151), and the conversion instructions (R84 to R93). -/

namespace Sys2Proof.Machine

/-! ### Vector forms -/

/-- Parity is checked on every lattice element that a vector operand reads (R148). -/
def State.parity (s : State) (vs : List VOp) : State :=
  if vs.any fun v => (List.range 16).any fun i => s.src.latBad.contains (v.index i) then
    { s with tile := s.tile.dataError }
  else s

def usesVecs (vs : List VOp) (ds : List VOp) : Uses := ⟨[], vs, [], ds⟩

/-- The gate of a vector operation that reads `vs` and writes `d`; one that reads its destination too may name no port
(R151). -/
def State.vGate (s : State) (g : Guard) (d : VOp) (vs : List VOp) (rw : Bool) : Gate :=
  s.gate g (operandCheck ((if rw then s.src.vrwOk d else s.src.vdOk d) && vs.all s.src.vOk))
    (usesVecs (if rw then d :: vs else vs) [d])

/-- D := f(A, B). -/
def State.vec2 (s : State) (g : Guard) (d a b : VOp) (bound : Nat) (f : Vec → Vec → Vec × Word) :
    Host.Outcome State Fault Refusal :=
  s.runOp (s.vGate g d [a, b] false) fun x =>
    let r := f (s.rdV a) (s.rdV b)
    .ok ((x.parity [a, b]).setV bound d r.1 r.2)

/-- D := f(D, A, B). -/
def State.vec3 (s : State) (g : Guard) (d a b : VOp) (bound : Nat) (f : Vec → Vec → Vec → Vec × Word) :
    Host.Outcome State Fault Refusal :=
  s.runOp (s.vGate g d [a, b] true) fun x =>
    let r := f (s.rdV d) (s.rdV a) (s.rdV b)
    .ok ((x.parity [d, a, b]).setV bound d r.1 r.2)

/-- D := f(A). -/
def State.vec1 (s : State) (g : Guard) (d a : VOp) (bound : Nat) (f : Vec → Vec × Word) :
    Host.Outcome State Fault Refusal :=
  s.runOp (s.vGate g d [a] false) fun x =>
    let r := f (s.rdV a)
    .ok ((x.parity [a]).setV bound d r.1 r.2)

/-! ### Element layouts (R150) -/

/-- How the elements of an operation lie: n elements of w bits, packed or one to a lane. -/
structure Layout where
  n : Nat
  w : Nat
  packed : Bool
deriving DecidableEq, Repr

def Layout.get (l : Layout) (v : Vec) (j : Nat) : Nat := if l.packed then elemN l.w v j else (lane v j).toNat % 2 ^ l.w

def Layout.build (l : Layout) (f : Nat → Nat) : Vec :=
  if l.packed then vecOfElems l.w f else Vector.ofFn fun i => nat32 (f i.val % 2 ^ l.w)

/-- One lane holds one element of w bits (R84). -/
def unpacked (w : Nat) : Layout := ⟨16, w, false⟩
def packed (w : Nat) : Layout := ⟨512 / w, w, true⟩

/-- The float type that T selects (R150). -/
def floatOf (t : BitVec 2) : FFmt :=
  match t.toNat with
  | 0 => .f32
  | 1 => .bf16
  | _ => .f16

def floatLayout (t : BitVec 2) : Layout :=
  match t.toNat with
  | 0 => packed 32
  | 1 => packed 16
  | _ => unpacked 16

/-- The element width that T selects for integers and moves. -/
def widthOf (t : BitVec 2) : Nat :=
  match t.toNat with
  | 0 => 32
  | 1 => 16
  | _ => 8

def intLayout (t : BitVec 2) : Layout := packed (widthOf t)

/-- Every element of a layout, with the flags of all (R81, R154). -/
def Layout.mapRes (l : Layout) (f : Nat → FRes) : Vec × Word :=
  let rs := (List.range l.n).map f
  (l.build fun j => (rs.getD j ⟨0, 0⟩).bits, rs.foldl (fun a r => a ||| r.fl) 0)

/-! ### Scalar conversions (R85) -/

/-- The rounding mode a selector gives (R78, R85). -/
def selMode (rm : RMode) (b : Word) : RMode := if b.getLsbD 2 then RMode.ofBits b.toNat else rm

/-- The integer format a selector gives. -/
def selInt (b : Word) : IFmt := ⟨32, !b.getLsbD 3⟩

/-- `cvt.f2i` (R85). -/
def execCvtF2i (o : FS) (s : State) : Host.Outcome State Fault Refusal :=
  s.alu o 4 fun a b => (FFmt.f32.toInt (selMode s.rm b) (selInt b) a.toNat).word

/-- `cvt.i2f` (R85). -/
def execCvtI2f (o : FS) (s : State) : Host.Outcome State Fault Refusal :=
  s.alu o 4 fun a b => (FFmt.f32.ofInt (selMode s.rm b) false ((selInt b).val a.toNat)).word

/-- `cvt.f2b` (R85). -/
def execCvtF2b (o : FS) (s : State) : Host.Outcome State Fault Refusal :=
  s.alu o 4 fun a b => (FFmt.f32.convert .bf16 (selMode s.rm b) false a.toNat).word

/-! ### vcvt (R86 to R88) -/

def eF32 : EFmt := .fl .f32
def eBf16 : EFmt := .fl .bf16
def eF16 : EFmt := .fl .f16
def eE4 : EFmt := .fl .e4m3
def eE5 : EFmt := .fl .e5m2
def eI32 : EFmt := .int ⟨32, true⟩
def eI16 : EFmt := .int ⟨16, true⟩
def eI8 : EFmt := .int ⟨8, true⟩
def eN8 : EFmt := .int ⟨8, false⟩

/-- Source, destination and `.sat` of a conversion code (R87). -/
def vcvtCode (k : Nat) : Option (EFmt × EFmt × Bool) :=
  match k with
  | 0x00 => some (eF32, eBf16, false)
  | 0x01 => some (eF32, eF16, false)
  | 0x02 => some (eF32, eE4, false)
  | 0x03 => some (eF32, eE4, true)
  | 0x04 => some (eF32, eE5, false)
  | 0x05 => some (eF32, eE5, true)
  | 0x06 => some (eF32, eI32, false)
  | 0x07 => some (eF32, eI16, false)
  | 0x08 => some (eF32, eI8, false)
  | 0x09 => some (eF32, eN8, false)
  | 0x10 => some (eBf16, eF32, false)
  | 0x11 => some (eBf16, eF16, false)
  | 0x12 => some (eBf16, eE4, false)
  | 0x13 => some (eBf16, eE4, true)
  | 0x14 => some (eBf16, eE5, false)
  | 0x15 => some (eBf16, eE5, true)
  | 0x16 => some (eBf16, eI32, false)
  | 0x17 => some (eBf16, eI8, false)
  | 0x18 => some (eF16, eF32, false)
  | 0x19 => some (eF16, eBf16, false)
  | 0x1A => some (eF16, eE4, false)
  | 0x1B => some (eF16, eE4, true)
  | 0x1C => some (eF16, eE5, false)
  | 0x1D => some (eF16, eE5, true)
  | 0x1E => some (eF16, eI32, false)
  | 0x1F => some (eF16, eI8, false)
  | 0x20 => some (eE4, eF32, false)
  | 0x21 => some (eE4, eBf16, false)
  | 0x22 => some (eE4, eF16, false)
  | 0x23 => some (eE4, eE5, false)
  | 0x24 => some (eE5, eF32, false)
  | 0x25 => some (eE5, eBf16, false)
  | 0x26 => some (eE5, eF16, false)
  | 0x27 => some (eE5, eE4, true)
  | 0x28 => some (eI32, eF32, false)
  | 0x29 => some (eI32, eBf16, false)
  | 0x2A => some (eI32, eF16, false)
  | 0x2B => some (eI32, eI16, false)
  | 0x2C => some (eI32, eI8, false)
  | 0x2D => some (eI32, eN8, false)
  | 0x2E => some (eI32, eE4, true)
  | 0x2F => some (eI32, eE5, true)
  | 0x30 => some (eI16, eF32, false)
  | 0x31 => some (eI16, eBf16, false)
  | 0x32 => some (eI16, eI32, false)
  | 0x33 => some (eI16, eI8, false)
  | 0x34 => some (eI8, eF32, false)
  | 0x35 => some (eI8, eBf16, false)
  | 0x36 => some (eI8, eI32, false)
  | 0x37 => some (eI8, eI16, false)
  | 0x38 => some (eN8, eF32, false)
  | 0x39 => some (eN8, eBf16, false)
  | 0x3A => some (eN8, eI32, false)
  | 0x3B => some (eN8, eI16, false)
  | _ => none

/-- The 16 conversions; a reserved code is no instruction and leaves D as it reads A. -/
def vcvtVec (rm : RMode) (k : Nat) (a : Vec) : Vec × Word :=
  match vcvtCode k with
  | none => (a, 0)
  | some (src, dst, satur) =>
    (unpacked 32).mapRes fun i => convertElem src dst rm satur ((unpacked src.width).get a i)

/-- `vcvt` (R86). -/
def execVcvt (o : FVK) (s : State) : Host.Outcome State Fault Refusal := s.vec1 o.g o.d o.a 4 (vcvtVec s.rm o.k.toNat)

/-! ### vpack and vunpk (R89) -/

/-- The low halves of the containers of A, then of B. -/
def vpackVec (w : Nat) (a b : Vec) : Vec :=
  let n := 256 / w
  vecOfElems w fun j => if j < n then elemN (2 * w) a j else elemN (2 * w) b (j - n)

def vunpkVec (w part : Nat) (a : Vec) : Vec :=
  let n := 256 / w
  vecOfElems (2 * w) fun i => elemN w a (n * part + i)

def packWidth (t : BitVec 2) : Nat := if t.toNat = 1 then 16 else 8

def execVpack (o : FV) (s : State) : Host.Outcome State Fault Refusal :=
  s.vec2 o.g o.d o.a o.b 2 fun a b => (vpackVec (packWidth o.t) a b, 0)
def execVunpk (o : FVI) (s : State) : Host.Outcome State Fault Refusal :=
  s.vec1 o.g o.d o.a 2 fun a => (vunpkVec (packWidth o.t) o.i.toNat a, 0)

/-! ### vqnt and vdqnt (R90 to R92) -/

/-- The largest magnitude of a q4 type (R90). -/
def q4Max (type : Nat) : Nat :=
  match type with
  | 0 => 7
  | 1 => 6
  | 2 => 64
  | _ => 12

/-- ⌈log2(m × 2^k / mx)⌉ for m, mx > 0. -/
def ceilLog2Ratio (m mx : Nat) (k : Int) : Int :=
  let d : Int := (bitLen m : Int) - bitLen mx
  let le := if 0 ≤ d then m ≤ mx * 2 ^ d.toNat else m * 2 ^ (-d).toNat ≤ mx
  k + (if le then d else d + 1)

/-- The larger of two finite magnitudes m × 2^e. -/
def maxMag (a b : Nat × Int) : Nat × Int :=
  if a.1 = 0 then b
  else if b.1 = 0 then a
  else if a.2 ≤ b.2 then (if a.1 ≤ b.1 * 2 ^ (b.2 - a.2).toNat then b else a)
  else if a.1 * 2 ^ (a.2 - b.2).toNat ≤ b.1 then b else a

def FVal.mag : FVal → Nat × Int
  | .fin _ m e => (m, e)
  | _ => (0, 0)

/-- The E field that `vqnt` gives a block. -/
def vqntE (type : Nat) (m : Nat × Int) : Nat :=
  if m.1 = 0 then 0 else (max 0 (min 63 (ceilLog2Ratio m.1 (q4Max type) m.2 + 32))).toNat

/-- The code of an integer multiple of the scale with sign; 0x0 for a zero (R90). -/
def q4Code (type idx : Nat) (neg : Bool) : Nat :=
  if idx = 0 then 0
  else if type = 0 then (if neg then 16 - idx else idx)
  else if neg then 8 + idx else idx

/-- The index of the largest magnitude: the integer 7 of UNI, index 7 of the others. -/
def q4MaxIdx : Nat := 7

/-- One element of `vqnt` under E field e. -/
def vqntElem (type e : Nat) (x : FVal) : FRes :=
  match x with
  | .nan _ => ⟨0, fNV ||| fNF⟩
  | .inf neg => ⟨q4Code type q4MaxIdx neg, fNV ||| fNF⟩
  | .fin neg m k =>
    let p : Int := k - ((e : Int) - 32)
    let num := m * 2 ^ p.toNat
    let den := 2 ^ (-p).toNat
    let big := decide (q4Max type * den < num)
    let idx :=
      if big then q4MaxIdx
      else if type = 0 then (roundAt .rne neg num 0 (max 0 (-p)) false).1
      else q4Nearest ((List.range 8).map (q4Mag2 type)) (2 * num) den
    let mag2 := if type = 0 then 2 * idx else q4Mag2 type idx
    let nx := decide (mag2 * den ≠ 2 * num)
    ⟨q4Code type idx neg, flagIf big fOF ||| flagIf nx fNX⟩

/-- The block image of 32 f32 values (R90). -/
def vqntVec (type : Nat) (a b : Vec) : Vec × Word :=
  let xs := (List.range 32).map fun j => FFmt.f32.decode (lane (if j < 16 then a else b) (j % 16)).toNat
  let e := vqntE type (xs.foldl (fun m x => maxMag m x.mag) (0, 0))
  let rs := xs.map (vqntElem type e)
  let code (j : Nat) : Nat := (rs.getD j ⟨0, 0⟩).bits
  (Vector.ofFn fun i => if i.val < 4 then nat32 (packWord 4 8 fun k => code (8 * i.val + k))
    else if i.val = 4 then nat32 (type * 64 + e) else 0,
   rs.foldl (fun f r => f ||| r.fl) 0)

/-- `vqnt` and `vdqnt` need feature bit 6: without it, illegal-instruction at decode (R124). -/
def State.q4Run (s : State) (run : State → Host.Outcome State Fault Refusal) : Host.Outcome State Fault Refusal :=
  if s.src.feat 6 then run s else .next (s.trapAt .illegalInstruction s.iss.raw 0 0 .trapDecode)

/-- `vqnt`: the type is cr.fpctl.QT (R79, R90). -/
def execVqnt (o : FV0) (s : State) : Host.Outcome State Fault Refusal :=
  s.q4Run fun s => s.vec2 o.g o.d o.a o.b 6 (vqntVec (s.src.core.fpctl.toNat / 4 % 4))

/-- Element j of the block that A holds, exact in f32 and bf16 (R91). -/
def vdqntElem (f : FFmt) (a : Vec) (j : Nat) : Nat :=
  (f.roundDy .rne false (q4Value ((lane a 4).toNat % 256) (elemN 4 a j))).bits

def vdqntVec (t : BitVec 2) (part : Nat) (a : Vec) : Vec :=
  if t = 0 then vecOfElems 32 fun i => vdqntElem .f32 a (16 * part + i)
  else vecOfElems 16 (vdqntElem .bf16 a)

/-- `vdqnt` (R91). -/
def execVdqnt (o : FVI) (s : State) : Host.Outcome State Fault Refusal :=
  s.q4Run fun s => s.vec1 o.g o.d o.a 6 fun a => (vdqntVec o.t o.i.toNat a, 0)

/-! ### vscl (R93) -/

/-- The exponent beside an element: its i32 lane, or the i16 at its 16-bit position. -/
def vsclExp (t : BitVec 2) (b : Vec) (j : Nat) : Int :=
  match t.toNat with
  | 0 => (lane b j).toInt
  | 1 => sextN 16 (elemN 16 b j)
  | _ => sextN 16 (elemN 16 b (2 * j))

/-- a × 2^n, n limited to where the result no longer depends on it. -/
def FFmt.scaleBy (f : FFmt) (mode : RMode) (x : Nat) (n : Int) : FRes := f.scale mode x (max (-4096) (min 4096 n))

def vsclVec (rm : RMode) (t : BitVec 2) (a b : Vec) : Vec × Word :=
  let l := floatLayout t
  l.mapRes fun j => (floatOf t).scaleBy rm (l.get a j) (vsclExp t b j)

/-- `vscl` (R93). -/
def execVscl (o : FV) (s : State) : Host.Outcome State Fault Refusal := s.vec2 o.g o.d o.a o.b 4 (vsclVec s.rm o.t)

end Sys2Proof.Machine
end

