-- ==== Sys2Proof/Machine/MemSlot.lean ====
section
/-! DEFINITION. The memory slot: scalar, vector and strided loads and stores, prefetch, local atomics and the flagged store
(R177 to R194). -/

namespace Sys2Proof.Machine

/-! ### Addresses and checks (R178 to R184) -/

/-- ea of R184; `scale` is that of R40. -/
def State.ea (s : State) (a : Reg) (off : BitVec 8) (scale : Nat) : Word :=
  s.rd a + off.signExtend 32 * BitVec.ofNat 32 scale

/-- The accesses of one memory-slot operation, (address, bytes), and the address it reports (R384). -/
structure Acc where
  ea : Nat
  parts : List (Nat × Nat)

/-- What a vector access must lie in alone: a region of a window, or the near store (R178). -/
def State.zoneOf (s : State) (a : Nat) : Option (Nat × Region) :=
  match placeOf s.src.ltile a with
  | .win l off => some (l, regionOf off)
  | _ => none

/-- Whether every part lies in one region of one window, or all in the near store. -/
def State.oneZone (s : State) (ps : List (Nat × Nat)) : Bool :=
  match ps with
  | [] => true
  | p :: l => l.all fun q => decide (s.zoneOf q.1 = s.zoneOf p.1)

/-- The bank of a scratchpad word (R180). -/
def bankOf (off : Nat) : Nat := off / 4 % 384

def noDup : List Nat → Bool
  | [] => true
  | x :: l => !l.contains x && noDup l

/-- The bank rule of R181 on the words of a vector access. -/
def State.banksOk (s : State) (words : List Nat) : Bool :=
  match words.head? with
  | none => true
  | some a =>
    match s.zoneOf a with
    | some (_, .spad) => noDup (words.map fun x => bankOf (offsetOf s.src.ltile x))
    | _ => true

/-- Steps 2 and 3 of R178; step 1 is the caller's `aligned`. -/
def State.slotCause (s : State) (x : Acc) (aligned write vector : Bool) : Option Cause :=
  firstCause [(aligned, .misaligned),
    (s.oneZone x.parts && x.parts.all fun p => s.slotOk s.src p.1 p.2 write, .accessFault),
    (!vector || s.banksOk (x.parts.flatMap fun p => (List.range (p.2 / 4)).map fun i => p.1 + 4 * i), .bankConflict)]

/-- The bytes of an access. -/
def Acc.bytes (x : Acc) : List Nat := x.parts.flatMap fun p => (List.range p.2).map fun i => p.1 + i

/-! ### Uncorrectable words (R148, R179) -/

/-- What reading the byte at a meets. -/
def State.eccByte (s : State) (a : Nat) : EccHit := s.byteHit s.src a

/-- What reading some bytes meets, those that a held store supplies apart (R188). -/
def State.eccOf (s : State) (as : List Nat) : EccHit := s.readHit s.src as

/-- An uncorrectable word that a memory-slot operation meets: a data error, or access-fault with UNC and event 0x12; or a parity
error that only an event record reports (R291, R294). -/
def State.eccOutcome (s : State) (h : EccHit) (ea : Nat) (go : Body) : Body :=
  match h with
  | .none => go
  | .scratch => .ok { s with tile := s.tile.dataError }
  | .near w => .ok ((s.tileEvent s.src 0x12 [nat32 w]).trapAt .accessFault (nat32 ea) uncBit 0 .trapExec)
  | .event w =>
    match go with
    | .ok s' => .ok ({ s' with free := s'.free + 1 }.tileEvent s.src 0x12 [nat32 w])
    | b => b

/-! ### What an access waits for (R53, R177, R188, R274) -/

/-- Offsets of the own window that an access touches. -/
def State.ownOffs (s : State) (x : Acc) : List Nat := x.bytes.filterMap s.src.ownOff

/-- Scalar registers of the own window that an access touches. -/
def State.accRegs (s : State) (x : Acc) : List Reg :=
  (s.ownOffs x).filterMap fun o => if regionOf o = .sregs then some (BitVec.ofNat 6 ((o - 0x1E0400) / 4)) else none

/-- Lattice elements of the own window that an access touches. -/
def State.accEls (s : State) (x : Acc) : List Nat :=
  (s.ownOffs x).filterMap fun o => if regionOf o = .lattice then some ((o - 0x1E0000) / 4) else none

/-- Whether it touches state that X-pipe operations read or write: tile registers, accumulators, the supervisor region. -/
def State.accXpipe (s : State) (x : Acc) : Bool :=
  (s.ownOffs x).any fun o => (decide (0x180000 ≤ o) && decide (o < 0x1E0000)) || decide (ctlBase ≤ o)

/-- Whether it touches cr.flags, which waits as `rdcr` does (R82, R381). -/
def State.accFlags (s : State) (x : Acc) : Bool :=
  (s.ownOffs x).any fun o => decide (ctlBase + 4 ≤ o) && decide (o < ctlBase + 8)

/-- Whether an output vector that has not landed overlaps the access, or may once its load has returned (R188). -/
def State.accVectors (s : State) (x : Acc) : Bool :=
  let t := s.src
  t.portLoading || (List.range 12).any fun q =>
    let p := t.core.port q
    t.outPending q && (List.range p.fifo.length).any fun k =>
      let a := t.canon (p.addrOf (p.pos - p.fifo.length + k))
      x.bytes.any fun b => decide (a ≤ t.canon b) && decide (t.canon b < a + 64)

/-- The 32-bit words of memory that a queued operation has still to read, by canonical address. -/
def XOp.readWords (t : Tile) (x : XOp) : List Nat :=
  (x.loadRuns.flatMap fun r => (List.range r.2.2).map fun i => t.canon (r.1 + i) / 4)

/-- Whether a queued operation has still to read a word of an access: reads of one word return in program order (R266). -/
def State.readsQueued (s : State) (x : Acc) : Bool :=
  s.src.mq.any fun o => o.isTld && x.bytes.any fun b => (o.readWords s.src).contains (s.src.canon b / 4)

/-- The wait of a load. -/
def State.loadWaits (s : State) (x : Acc) : Bool :=
  (s.accXpipe x && !s.src.mq.isEmpty) || s.src.mq.any XOp.isTst || s.readsQueued x || (s.accFlags x && s.src.flagsBusy) || s.accVectors x ||
  (s.accRegs x).any (fun r => s.src.loadPending r || s.src.tokPending r) ||
  (s.accEls x).any fun i => s.src.loads.any fun (l : PLoad) => l.dst.hasEl i

/-- The wait of a read that is made with its bundle: a load of one of its words that has not returned is waited for too (R266). -/
def State.readWaits (s : State) (x : Acc) : Bool :=
  s.loadWaits x || x.bytes.any fun b => s.src.loads.any fun (l : PLoad) => l.words.contains (b / 4)

/-- The wait of a store or of an atomic that acts at issue. -/
def State.storeWaits (s : State) (x : Acc) : Bool :=
  (s.accXpipe x && !s.src.mq.isEmpty) || (s.src.mq.any fun o => o.isTst || o.isTld) || (s.accFlags x && s.src.flagsBusy) ||
  s.src.portLoading || (s.accRegs x).any (fun r => s.src.loadPending r || s.src.tokPending r) ||
  (s.accEls x).any fun i => s.src.loads.any fun (l : PLoad) => l.dst.hasEl i

/-- A read of a token register through the window is a read of it (R137, R177). -/
def State.accTokens (s : State) (x : Acc) : Bool :=
  (s.accRegs x).any fun r => s.src.tokPending r || s.src.core.tokDone.contains r

/-- A poisoned register that a load touches (R280). -/
def State.accPoison (s : State) (x : Acc) : Option Poison :=
  s.src.poison.find? fun p => (s.ownOffs x).any fun o => decide (tregBase p.t ≤ o) && decide (o < tregBase p.t + 0x4000)

/-! ### Loads (R185 to R188) -/

/-- The byte a load takes at issue, if it takes it then. -/
def State.loadByte (s : State) (a : Nat) : Option Byte :=
  if s.parityByte s.src a then some (Config.freeByte s.free a)
  else match s.src.ctlOff a with
  | some o => some (s.atIssue.ctlByte s.src s.iss.pc o)
  | none => s.src.knownByte a

def LoadDst.dsts : LoadDst → List Dst
  | .sreg r => [.sreg r]
  | .lat els => els.map Dst.lat
  | _ => []

/-- Loads that hit the load buffer make its entries the most recently used (R189). -/
def touchBuf (as : List Nat) (l : List (Nat × Option (List Byte))) : List (Nat × Option (List Byte)) :=
  let hit (e : Nat × Option (List Byte)) : Bool := as.any fun a => decide (a / 64 * 64 = e.1)
  (l.filter fun e => !hit e) ++ l.filter hit

/-- A load of cr.cyc through the window latches cr.cych as `rdcr` does (R117, R381). -/
def State.latchCyc (s : State) (x : Acc) : State :=
  if (s.ownOffs x).any fun o => decide (ctlBase + 16 ≤ o) && decide (o < ctlBase + 20) then
    { s with tile := { s.tile with cych := nat32 (s.src.cyc / 2 ^ 32) } }
  else s

/-- Where a load delivers: no vector reaches an output port that a later word of the bundle writes (R49), or that an earlier word
has unbound. -/
def State.claimPort (s : State) (dst : LoadDst) : LoadDst :=
  match dst with
  | .port q => if (s.tile.core.port q).bound && !s.laterPort q then dst else .none
  | _ => dst

/-- A load whose checks have passed is on its way. -/
def State.startLoad (s : State) (x : Acc) (dst : LoadDst) : State :=
  let bs := x.bytes.map fun a => (a, s.loadByte a)
  let dst := s.claimPort dst
  let t := s.tile.kill dst.dsts
  let s := s.latchCyc x
  { s with tile := { t with
    cych := s.tile.cych
    loads := t.loads ++ [⟨dst, .bytes bs, s.iss.word⟩]
    loadBuf := touchBuf x.bytes t.loadBuf } }

/-- Every load: the checks of R178, its waits, poison, uncorrectable words, then the load. -/
def State.load (s : State) (x : Acc) (aligned vector : Bool) (dst : LoadDst) : Body :=
  match s.slotCause x aligned false vector with
  | some c => .trap c (nat32 x.ea) 0 0
  | none =>
    if s.accTokens x && !s.src.ckFresh then .ckpt
    else if s.loadWaits x then .stall
    else
      match s.accPoison x with
      | some p => .trap .accessFault (nat32 p.pc.toNat) (uncBit + poisBit) 0
      | none => s.eccOutcome (s.eccOf x.bytes) x.ea (.ok ((s.startLoad x dst).markDue (s.accTokens x)))

/-- A register destination; a load into s0 discards the value (R185). -/
def regDst (r : Reg) : LoadDst := if r = 0 then .none else .sreg r

def State.fmGate (s : State) (o : FM) (src dst : List Reg) : Gate :=
  s.gate o.g (operandCheck (s.src.regOk o.d && s.src.regOk o.a)) (usesRegs src dst)

/-- A scalar load of n bytes. -/
def State.loadN (s : State) (o : FM) (n : Nat) : Host.Outcome State Fault Refusal :=
  s.runOp (s.fmGate o [o.a] [o.d]) fun x =>
    let a := (s.ea o.a o.off n).toNat
    x.load ⟨a, [(a, n)]⟩ (a % n = 0) false (regDst o.d)

def execLdw (o : FM) (s : State) : Host.Outcome State Fault Refusal := s.loadN o 4
def execLdh (o : FM) (s : State) : Host.Outcome State Fault Refusal := s.loadN o 2
def execLdb (o : FM) (s : State) : Host.Outcome State Fault Refusal := s.loadN o 1

/-- Where a vector load delivers: 16 lattice elements or an output port (R186). -/
def vecDst (v : VOp) : LoadDst :=
  match v.stream? with
  | some q => .port q
  | none => .lat ((List.range 16).map v.index)

/-- `vld` (R186). -/
def execVld (o : FMV) (s : State) : Host.Outcome State Fault Refusal :=
  s.runOp (s.gate o.g (operandCheck (s.src.vdOk o.d && s.src.regOk o.a)) ⟨[o.a], [], [], [o.d]⟩) fun x =>
    let a := (s.ea o.a o.off 64).toNat
    x.load ⟨a, [(a, 64)]⟩ (a % 64 = 0) true (vecDst o.d)

/-- The sixteen words of a strided access (R187). -/
def State.strided (s : State) (o : FMV) : Acc :=
  let base := s.ea o.a o.off 64
  let stride := s.rd (pairHi o.a)
  ⟨base.toNat, (List.range 16).map fun k => ((base + BitVec.ofNat 32 k * stride).toNat, 4)⟩

def State.stridedAligned (s : State) (o : FMV) : Bool :=
  decide ((s.ea o.a o.off 64).toNat % 4 = 0) && decide ((s.rd (pairHi o.a)).toNat % 4 = 0)

/-- `vlds` (R187). -/
def execVlds (o : FMV) (s : State) : Host.Outcome State Fault Refusal :=
  s.runOp (s.gate o.g (operandCheck (s.src.vdOk o.d && s.src.pairOk o.a)) ⟨[o.a, pairHi o.a], [], [], [o.d]⟩) fun x =>
    x.load (s.strided o) (s.stridedAligned o) true (vecDst o.d)

/-! ### Stores (R185 to R188) -/

/-- Results on their way to elements that a store names: those it writes whole are dropped, those it writes in part land
first, their flags still on their way (R50, R82, R149). -/
def State.settle (s : State) (x : Acc) : State :=
  let els := (s.accEls x).map Dst.lat ++ (s.accRegs x).map Dst.sreg
  if els.isEmpty then s
  else if x.parts.all fun p => p.2 % 4 = 0 then { s with tile := s.tile.kill els }
  else
    let hit (p : Pending) : Bool := p.dsts.any fun d => els.contains d.1
    let t := (s.tile.pend.filter hit).foldl (fun u p => u.putAll p.dsts) s.tile
    { s with tile := { t with pend := t.pend.map fun p => if hit p then { p with dsts := [] } else p } }

/-- One part of a store: the supervisor region, the own window, or the commit queue. -/
def State.put (s : State) (a : Nat) (bs : List Byte) : State :=
  match s.src.ctlOff a with
  | some o => s.ctlWrite o bs
  | none => { s with tile := s.tile.store a bs }

/-- The parts of a store as one entry of the queue, or in order to the own window (R187, R188). -/
def State.putParts (s : State) (x : Acc) (data : List Byte) : State :=
  let parts := x.parts.zipIdx.map fun p => (p.1.1, (data.drop (p.1.2 * p.2)).take p.1.2)
  if (x.parts.head?.bind fun p => s.src.ownOff p.1).isSome then
    parts.foldl (fun s p => s.put p.1 p.2) s
  else
    { s with tile := s.tile.landOutputs.hold (parts.flatMap fun p => cellsOf p.1 p.2) }

/-- Every store: the checks of R178, its waits, the merge of R179, then the bytes. -/
def State.storeAcc (s : State) (x : Acc) (aligned vector : Bool) (data : List Byte) : Body :=
  match s.slotCause x aligned true vector with
  | some c => .trap c (nat32 x.ea) 0 0
  | none =>
    if s.accTokens x && !s.src.cq.isEmpty then .ckpt
    else if s.storeWaits x then .stall
    else
      let part := x.parts.any fun p => p.2 % 4 ≠ 0
      let h := if part && inMemory s.src.ltile x.ea then s.mergeHit s.src x.bytes else .none
      s.eccOutcome h x.ea (.ok ((s.settle x).putParts x data))

/-- A scalar store of n bytes. -/
def State.storeN (s : State) (o : FM) (n : Nat) : Host.Outcome State Fault Refusal :=
  s.runOp (s.fmGate o [o.d, o.a] []) fun x =>
    let a := (s.ea o.a o.off n).toNat
    x.storeAcc ⟨a, [(a, n)]⟩ (a % n = 0) false (bytesOfNat n (s.rd o.d).toNat)

def execStw (o : FM) (s : State) : Host.Outcome State Fault Refusal := s.storeN o 4
def execSth (o : FM) (s : State) : Host.Outcome State Fault Refusal := s.storeN o 2
def execStb (o : FM) (s : State) : Host.Outcome State Fault Refusal := s.storeN o 1

/-- `vst` (R186). -/
def execVst (o : FMV) (s : State) : Host.Outcome State Fault Refusal :=
  s.runOp (s.gate o.g (operandCheck (s.src.vOk o.d && s.src.regOk o.a)) ⟨[o.a], [o.d], [], []⟩) fun x =>
    let a := (s.ea o.a o.off 64).toNat
    (x.parity [o.d]).storeAcc ⟨a, [(a, 64)]⟩ (a % 64 = 0) true (vecBytes (s.rdV o.d))

/-- `vsts` (R187). -/
def execVsts (o : FMV) (s : State) : Host.Outcome State Fault Refusal :=
  s.runOp (s.gate o.g (operandCheck (s.src.vOk o.d && s.src.pairOk o.a)) ⟨[o.a, pairHi o.a], [o.d], [], []⟩) fun x =>
    (x.parity [o.d]).storeAcc (s.strided o) (s.stridedAligned o) true (vecBytes (s.rdV o.d))

/-! ### Prefetch (R189) -/

/-- A unit takes an entry of the load buffer, the least recently used one leaving. -/
def Tile.prefetch (t : Tile) (unit word : Nat) (bs : List (Nat × Option Byte)) : Tile :=
  let l := t.loadBuf.filter fun e => decide (e.1 ≠ unit)
  { t with
    loadBuf := l.drop (l.length - 15) ++ [(unit, none)]
    loads := t.loads ++ [⟨.buffer unit, .bytes bs, word⟩] }

/-- The fill of a unit is on its way; bytes of elements of bad parity are undefined (R291, R294). -/
def State.startFill (s : State) (unit : Nat) : State :=
  { s with tile := s.tile.prefetch unit s.iss.word ((List.range 64).map fun i =>
      (unit + i, match s.eccByte (unit + i) with
        | .event _ => some (Config.freeByte s.free (unit + i))
        | _ => none)) }

/-- `pref` (R189): it reads the words of its unit, and meets their errors, as a load does (R179). -/
def execPref (o : FMP) (s : State) : Host.Outcome State Fault Refusal :=
  s.runOp (s.gate o.g (operandCheck (s.src.regOk o.a)) (usesRegs [o.a] [])) fun x =>
    let unit := (s.ea o.a o.off 64).toNat / 64 * 64
    if s.src.owns unit || !s.slotOk s.src unit 64 false then .ok x
    else x.eccOutcome (EccHit.worst ((List.range 64).map fun i => s.eccByte (unit + i))) unit (.ok (x.startFill unit))

/-! ### Atomics (R190 to R192) -/

/-- The checks of an atomic or flagged store on its addresses: misaligned, then access-fault, in that order over all of them;
with the address reported. -/
def State.wordCause (s : State) (as : List Nat) : Option (Cause × Nat) :=
  match as.find? fun a => decide (a % 4 ≠ 0) with
  | some a => some (.misaligned, a)
  | none =>
    match as.find? fun a => !(s.slotOk s.src a 4 true && inMemory s.src.ltile a) with
    | some a => some (.accessFault, a)
    | none => none

/-- An atomic that returns nothing: at issue in the own window, on the word as the tile sees it before the bundle, else held (R48,
R192, R188). -/
def State.plainAtomic (s : State) (op : AtomOp) (a : Nat) (v e : Word) : State :=
  let t := s.tile.landOutputs
  match t.ownOff a with
  | some off => { s with tile := t.ownWrite off (bytesOfNat 4 (op.apply (s.seenWord s.src.landOutputs a) v e).toNat) }
  | none => { s with tile := t.enqueue (.atomic op a v e) }

/-- An atomic that returns its old value: in a rerun the logged one, else when it has acted at its home (R140, R192). -/
def State.askAtomic (s : State) (d : Reg) (op : AtomOp) (a : Nat) (v e : Word) : State :=
  let t := s.tile.kill [.sreg d]
  match t.logged s.iss.word false with
  | some w => { s with tile := { t with core := t.core.setReg d w } }
  | none => { s with tile := { t with loads := t.loads ++ [⟨.sreg d, .atomic op a v e, s.iss.word⟩] } }

/-- Every atomic (R191); one that returns a value is a checkpointing operation (R137), and does not read its word again in a rerun
(R140). -/
def State.atomic (s : State) (o : FS) (op : AtomOp) : Host.Outcome State Fault Refusal :=
  let srcs := o.a :: o.b.regs ++ (if op = .cas then [o.d] else [])
  s.runOp { s.fsGate o srcs with ckop := decide (o.d ≠ 0) } fun x =>
    let a := (s.rd o.a).toNat
    match s.wordCause [a] with
    | some (c, i) => .trap c (nat32 i) 0 0
    | none =>
      let acc : Acc := ⟨a, [(a, 4)]⟩
      if s.storeWaits acc || (o.d ≠ 0 && s.src.released.any (fun h => (Held.atomic op a 0 0).behind s.src h)) then .stall
      else if o.d ≠ 0 ∧ (s.src.logged s.iss.word false).isSome = true then .ok (x.askAtomic o.d op a (s.bval o.b) (s.rd o.d))
      else x.eccOutcome (s.eccOf acc.bytes) a
        (.ok (if o.d = 0 then x.plainAtomic op a (s.bval o.b) (s.rd o.d) else x.askAtomic o.d op a (s.bval o.b) (s.rd o.d)))

def execAtomAdd (o : FS) (s : State) : Host.Outcome State Fault Refusal := s.atomic o .add
def execAtomIncb (o : FS) (s : State) : Host.Outcome State Fault Refusal := s.atomic o .incb
def execAtomCas (o : FS) (s : State) : Host.Outcome State Fault Refusal := s.atomic o .cas

/-- `stf`: data and flag held as one release (R193). -/
def execStf (o : FS) (s : State) : Host.Outcome State Fault Refusal :=
  s.runOp (s.gate o.g (operandCheck (s.src.regOk o.d && s.src.regOk o.a && s.src.bOk o.b))
      (usesRegs (o.d :: o.a :: o.b.regs) [])) fun x =>
    let a := (s.rd o.a).toNat
    let f := (s.bval o.b).toNat
    match s.wordCause [a, f] with
    | some (c, i) => .trap c (nat32 i) 0 0
    | none =>
      if s.storeWaits ⟨a, [(a, 4), (f, 4)]⟩ then .stall
      else
        let h : Held := .stf (cellsOf (s.src.canon a) (bytesOfNat 4 (s.rd o.d).toNat)) f x.tile.issuedBefore
        .ok { x with tile := x.tile.landOutputs.enqueue h }

end Sys2Proof.Machine
end

