-- ==== Sys2Proof/Machine/Copy.lean ====
section
/-! DEFINITION. The copy instructions (R208, R226 to R230): a job is captured at issue and enters the commit queue. -/

namespace Sys2Proof.Machine

/-! ### Job slots at issue (R207, R208, R228) -/

/-- A job takes the lowest free slot and enters the commit queue; its token register becomes pending. -/
def State.issueJob (s : State) (kind : JobKind) (tok : Reg) (cardAddr : Nat) (card : Option (List Word)) (status : Nat) :
    State :=
  let t := s.tile.kill (if tok = 0 then [] else [.sreg tok])
  let j : Job := {
    slot := t.freeSlot.getD 0
    sq := t.jobSq
    kind := kind
    state := .held
    tok := if tok = 0 then none else some tok
    cardAddr := cardAddr
    card := card
    early := status
    status := status
    edges := []
    reads := []
    writes := []
    xl := []
    parkVa := 0
    parkWr := false
    acks := []
    phase := 0
    scan := false
    sup := s.src.core.sup
    frame := none
    asked := []
    sent := [] }
  let pend := if tok = 0 then t.core.tokPend else t.core.tokPend ++ [⟨tok, t.jobSq⟩]
  let t := { t with jobs := t.jobs ++ [j], jobSq := t.jobSq + 1, core := { t.core with tokPend := pend } }
  { s with tile := t.landOutputs.enqueue (.job j.slot) }

/-- An operation that needs a slot: the bundle waits for one, after a checkpoint while the queue holds an entry (R137, R208), and
for the loads to output ports, whose vectors are earlier writes of the tile (R233). -/
def State.needSlot (s : State) (go : Body) : Body :=
  if s.src.slotsFull then (if s.src.cq.isEmpty then .stall else .ckpt) else if s.src.portLoading then .stall else go

/-! ### Cards at issue (R227) -/

/-- The bytes of own scratchpad that a card may lie in. -/
def Tile.cardLimit (t : Tile) : Nat := if t.core.sup then 0x180000 else t.task.spad

/-- Whether n bytes at a lie in the own scratchpad below the declared `spad`. -/
def Tile.cardInside (t : Tile) (a n : Nat) : Bool :=
  match t.ownOff a with
  | some off => decide (off + n ≤ t.cardLimit)
  | none => false

/-- The 128 bytes of a card, as words. -/
def State.readCard (s : State) (a n : Nat) : List Word := wordsOfBytes (n / 4) (s.seen s.src a n)

/-- A job instruction whose card has n bytes: captured at issue where it can be, after the waits of reading it. -/
def State.withCard (s x : State) (a n : Nat) (go : State → Option (List Word) → Body) : Body :=
  if a % 16 = 0 ∧ s.src.cardInside a n = true then
    let acc : Acc := ⟨a, [(a, n)]⟩
    if s.loadWaits acc then .stall
    else
      match s.eccOf acc.bytes with
      | .none => go x (some (s.readCard a n))
      | _ => .ok { x with tile := x.tile.dataError }
  else go x none

/-- A 64-bit field of a card, in words i and i + 1, displaced by 64 × n. -/
def displace64 (l : List Word) (i : Nat) (n : Int) : List Word :=
  let v := lowBits 64 (((l.getD i 0).toNat + (l.getD (i + 1) 0).toNat * 2 ^ 32 : Nat) + n * 64)
  (l.set i (nat32 v)).set (i + 1) (nat32 (v / 2 ^ 32))

/-- SRCVA and DSTVA displaced by the halves of Bval. -/
def displaceCard (b : Word) (l : List Word) : List Word :=
  displace64 (displace64 l 2 (sextN 16 b.toNat)) 4 (sextN 16 (b.toNat / 2 ^ 16))

/-- `cpy`, `cpf`, `cgat` and `cscat` (R227). -/
def State.copyJob (s : State) (o : FS) (kind : JobKind) : Host.Outcome State Fault Refusal :=
  s.runOp (s.fsGate o (o.a :: o.b.regs)) fun x =>
    s.needSlot (s.withCard x (s.rd o.a).toNat 128 fun x card =>
      .ok (x.issueJob kind o.d (s.rd o.a).toNat (card.map (displaceCard (s.bval o.b))) 0))

def execCpy (o : FS) (s : State) : Host.Outcome State Fault Refusal := s.copyJob o .cpy
def execCpf (o : FS) (s : State) : Host.Outcome State Fault Refusal := s.copyJob o .cpf
def execCgat (o : FS) (s : State) : Host.Outcome State Fault Refusal := s.copyJob o .cgat
def execCscat (o : FS) (s : State) : Host.Outcome State Fault Refusal := s.copyJob o .cscat

/-- `cfence`: a card is optional; one outside the own scratchpad ends the fence with status 2 (R229). -/
def execCfence (o : FDA) (s : State) : Host.Outcome State Fault Refusal :=
  s.runOp (s.gate o.g (operandCheck (s.src.regOk o.d && s.src.regOk o.a)) (usesRegs [o.a] [o.d])) fun x =>
    s.needSlot (
      if o.a = 0 then .ok (x.issueJob .cfence o.d 0 none 0)
      else
        let a := (s.rd o.a).toNat
        s.withCard x a 128 fun x card =>
          .ok (x.issueJob .cfence o.d a card (if card.isNone && a % 16 = 0 then 2 else 0)))

end Sys2Proof.Machine
end

