-- ==== Sys2Proof/Machine/Matrix.lean ====
section
/-! DEFINITION. The matrix instructions at issue (R273 to R289): their checks, what they capture, and their entry into the
matrix queue. What each does when it completes stands in XEng.lean. -/

namespace Sys2Proof.Machine

/-! ### Entering the queue (R273, R274) -/

/-- The gate of an X-pipe operation that needs feature `bit`: it waits while the queue is full, and beside a memory-slot
operation until it is empty. -/
def State.xGate (s : State) (g : Guard) (bit : Nat) (ok : Bool) (src : List Reg) : Gate :=
  { s.gate g (firstCause [(s.src.feat bit, .illegalInstruction), (ok, .illegalOperand)]) (usesRegs src []) with
    wait := decide (16 ≤ s.src.mq.length) || (s.iss.both && !s.src.mq.isEmpty) }

/-- The register a queued `tld` or `tldw` loads. -/
def XOp.loads (x : XOp) (t : Nat) : Bool :=
  match x with
  | .tld n _ _ _ _ _ _ => decide (n = t)
  | .tldw n _ _ _ _ => decide (n = t)
  | _ => false

/-- Flags of an operation completed with its bundle are the bundle's own (R82). -/
def State.withFlags (s : State) (f : State → State) : State :=
  let old := s.tile.core.flags
  let r := f { s with tile := { s.tile with core := { s.tile.core with flags := 0 } } }
  let fl := r.tile.core.flags
  { r with
    tile := { r.tile with core := { r.tile.core with flags := old ||| fl } }
    iss := { r.iss with fl := r.iss.fl ||| fl } }

/-- An operation completed with its bundle: its sources are those of the state before the bundle, once the stream vectors written
before it have landed (R48, R188, R274). -/
def State.runNow (s : State) (x : XOp) : State := s.withFlags fun s => x.run s.src.landOutputs s

/-- An operation whose checks have passed enters the queue; beside a memory-slot operation, or when `now`, it completes with
its bundle, the queue being empty. Stream outputs written before it land first. -/
def State.issueX (s : State) (x : XOp) (now : Bool) : State :=
  let s := { s with tile := s.tile.landOutputs }
  if now || s.iss.both then s.runNow x else { s with tile := { s.tile with mq := s.tile.mq ++ [x] } }

/-- An operation that reads the tile registers `ts`: it waits for their loads, which may poison them, and a poisoned one
raises access-fault (R280). -/
def State.xReads (s : State) (ts : List Nat) (go : Body) : Body :=
  if s.src.mq.any fun x => ts.any x.loads then .stall
  else
    match s.src.poison.find? fun p => ts.contains p.t with
    | some p => .trap .accessFault (nat32 p.pc.toNat) (uncBit + poisBit) 0
    | none => go

/-- The illegal-operand checks made at issue (R276, R298). -/
def State.xCheck (s : State) (ok : Bool) (go : Body) : Body :=
  if ok then go else .trap .illegalOperand s.iss.raw 0 0

/-- The configuration of a tile register (R270). -/
def State.tcfgOf (s : State) (t : Nat) : Word := s.src.core.tcfg.getD t 0

/-- The bytes of a tile that an operation will write enter the rollback store at issue (R138). -/
def State.saveTile (s : State) (n size : Nat) : State := { s with tile := s.tile.saveUnits (tregBase n) size }

/-! ### tcfg (R277) -/

def execTcfg (o : FXA) (s : State) : Host.Outcome State Fault Refusal :=
  s.runOp (s.xGate o.g 0 (s.src.tregOk o.y && s.src.regOk o.a) [o.a]) fun x =>
    let n := o.y.toNat
    let w := s.rd o.a &&& cfgMask
    s.xCheck (Cfg.ofWord w).valid (
      if s.src.mq.any fun q => q.loads n then .stall
      else
        let t := x.tile
        .ok { x with tile := { t with
          core := { t.core with tcfg := t.core.tcfg.setIfInBounds n w }
          poison := t.poison.filter fun p => decide (p.t ≠ n) } })

/-! ### tld and tst (R278, R279) -/

/-- The footprint [lo, hi) of a plane of `rows` rows of n bytes. -/
def planeSpan (b : Word) (p : BitVec 16) (rows n : Nat) : Int × Int :=
  let d : Int := ((rows : Int) - 1) * p.toInt
  ((b.toNat : Int) + min 0 d, (b.toNat : Int) + max 0 d + n)

/-- The footprint lies in one region or the near store and passes step 2 of R178. -/
def State.spanOk (s : State) (sp : Int × Int) (write : Bool) : Bool :=
  decide (0 ≤ sp.1) && decide (sp.2 ≤ 2 ^ 32) && s.slotOk s.src sp.1.toNat (sp.2 - sp.1).toNat write

/-- The operands of `tld` and `tst`: bases and pitches. -/
structure Planes where
  b1 : Word
  p1 : BitVec 16
  b2 : Word
  p2 : BitVec 16

def State.planes (s : State) (o : FXY) : Planes :=
  ⟨s.rd o.a, (s.bval o.b).setWidth 16, s.rd (pairHi o.a), (s.bval o.b >>> 16).setWidth 16⟩

/-- The checks of R278, with the address reported, then the operation. -/
def State.moveBody (s : State) (c : Cfg) (p : Planes) (write : Bool) (go : Body) : Body :=
  if p.b1.toNat % 4 ≠ 0 ∨ p.p1.toNat % 4 ≠ 0 then .trap .misaligned p.b1 0 0
  else if !s.spanOk (planeSpan p.b1 p.p1 c.rows c.row1) write then .trap .accessFault p.b1 0 0
  else if c.row2 ≠ 0 ∧ s.spanOk (planeSpan p.b2 p.p2 c.rows c.row2) write = false then .trap .accessFault p.b2 0 0
  else s.xCheck c.valid go

def State.moveGate (s : State) (o : FXY) : Gate :=
  s.xGate o.g 0 (s.src.tregOk o.y && s.src.pairOk o.a && s.src.bOk o.b) (o.a :: pairHi o.a :: o.b.regs)

/-- Some runs of a tile as one access. -/
def runsAcc (a : Nat) (runs : List (Nat × Nat × Nat)) : Acc := ⟨a, runs.map fun r => (r.1, r.2.2)⟩

/-- Whether an access touches vector or scalar registers of the own window, or its control region, whose readers and writers take no
part in the queue. -/
def State.accVs (s : State) (x : Acc) : Bool :=
  !(s.accRegs x).isEmpty || !(s.accEls x).isEmpty || (s.ownOffs x).any fun o => decide (ctlBase ≤ o)

/-- A load of a tile register from registers of the own window reads them with its bundle, as a load does (R188, R274, R279). Any
waits for vectors that loads are to write to streams, and for loads of the same words (R188, R266), and a poisoned register among its
sources traps (R280). -/
def State.regRead (s : State) (acc : Acc) (go : Bool → State) : Body :=
  if s.accTokens acc && !s.src.ckFresh then .ckpt
  else if s.src.portLoading || s.readWaits acc || (s.accVs acc && !s.src.mq.isEmpty) then .stall
  else
    match s.accPoison acc with
    | some p => .trap .accessFault (nat32 p.pc.toNat) (uncBit + poisBit) 0
    | none => .ok (((go (s.accVs acc)).latchCyc acc).markDue (s.accTokens acc))

/-- `tld` (R278). -/
def execTld (o : FXY) (s : State) : Host.Outcome State Fault Refusal :=
  s.runOp (s.moveGate o) fun x =>
    let n := o.y.toNat
    let cfg := s.tcfgOf n
    let c := Cfg.ofWord cfg
    let p := s.planes o
    s.moveBody c p false (s.regRead (runsAcc p.b1.toNat (tileRuns c p.b1 p.p1 p.b2 p.p2)) fun now =>
      (x.saveTile n c.size).issueX (.tld n cfg p.b1 p.p1 p.b2 p.p2 s.iss.pc) now)

/-- The bytes of the own window that a `tst` will write: saved, and older results for its registers dropped (R50, R138). -/
def State.tstOwn (s : State) (runs : List (Nat × Nat × Nat)) : State :=
  runs.foldl (fun s r =>
    match s.tile.ownOff r.1 with
    | some off =>
      let acc : Acc := ⟨r.1, [(r.1, r.2.2)]⟩
      let s := s.settle acc
      { s with tile := s.tile.saveUnits off r.2.2 }
    | none => s) s

/-- What goes outside the own window is one entry of the commit queue, whose bytes are known once the operation completes (R279);
none where nothing does. -/
def State.tstEntry (s : State) (runs : List (Nat × Nat × Nat)) : Option Nat × State :=
  if runs.all fun r => (s.src.ownOff r.1).isSome then (none, s)
  else
    let id := s.tile.tstId
    (some id, { s with tile := { s.tile.landOutputs.enqueue (.tst id [] s.tile.issuedBefore) with tstId := id + 1 } })

/-- `tst` (R278, R279). One that writes vector or scalar registers completes with its bundle. -/
def execTst (o : FXY) (s : State) : Host.Outcome State Fault Refusal :=
  s.runOp (s.moveGate o) fun x =>
    let n := o.y.toNat
    let cfg := s.tcfgOf n
    let c := Cfg.ofWord cfg
    let p := s.planes o
    s.moveBody c p true (s.xReads [n] (
      let runs := tileRuns c p.b1 p.p1 p.b2 p.p2
      let acc := runsAcc p.b1.toNat runs
      let regs := s.accVs acc
      if regs && s.accTokens acc && !s.src.cq.isEmpty then .ckpt
      else if s.src.portLoading || (regs && (!s.src.mq.isEmpty || s.storeWaits acc)) then .stall
      else
        let y := (x.tstOwn runs).tstEntry runs
        .ok (y.2.issueX (.tst n cfg p.b1 p.p1 p.b2 p.p2 y.1) regs)))

/-! ### tldw (R281, R282) -/

/-- The formats of `tldw`. -/
def windowFmt (f : Nat) : Bool := [0x03, 0x04, 0x05, 0x08, 0x0C, 0x01, 0x02, 0x06, 0x0D].contains f

/-- Ranges and reserved bits of a window descriptor, and its kernel within the columns. -/
def WinDesc.ok (d : WinDesc) (l : List Word) (cols : Nat) : Bool :=
  decide (1 ≤ d.ch) && decide (d.ch ≤ 256) && decide ((l.getD 1 0).toNat / 65536 = 0) && decide (1 ≤ d.w) &&
    decide (1 ≤ d.h) && decide (1 ≤ d.kx) && decide (d.kx ≤ 16) && decide (1 ≤ d.ky) && decide (d.ky ≤ 16) &&
    decide (1 ≤ d.sx) && decide (d.sx ≤ 16) && decide (1 ≤ d.sy) && decide (d.sy ≤ 16) && decide (1 ≤ d.wo) &&
    decide (d.kx * d.ky * d.ch ≤ cols)

/-- The map footprint [lo, hi). -/
def WinDesc.span (d : WinDesc) (es : Nat) : Int × Int :=
  let y : Int := ((d.h : Int) - 1) * d.yp
  let x : Int := ((d.w : Int) - 1) * d.xp
  ((d.base : Int) + min 0 y + min 0 x, (d.base : Int) + max 0 y + max 0 x + (d.ch * es : Nat))

/-- Whether the map is empty, so that nothing of it is read. -/
def WinDesc.empty (d : WinDesc) : Bool := decide (d.w = 0) || decide (d.h = 0) || decide (d.ch = 0)

/-- The checks of a descriptor that has been read, in the order of R276. -/
def State.windowBody (s : State) (c : Cfg) (l : List Word) (go : Body) : Body :=
  let d := WinDesc.ofWords l
  let es := max 1 (fmtWidth c.fmt / 8)
  if d.base % es ≠ 0 ∨ d.xp % es ≠ 0 ∨ d.yp % es ≠ 0 then .trap .misaligned (nat32 d.base) 0 0
  else if !d.empty && !s.spanOk (d.span es) false then .trap .accessFault (nat32 d.base) 0 0
  else s.xCheck (windowFmt c.fmt && c.valid && d.ok l c.cols) go

/-- `tldw` (R282). -/
def execTldw (o : FXY) (s : State) : Host.Outcome State Fault Refusal :=
  s.runOp (s.xGate o.g 0 (s.src.tregOk o.y && s.src.regOk o.a && s.src.bOk o.b) (o.a :: o.b.regs)) fun x =>
    let n := o.y.toNat
    let cfg := s.tcfgOf n
    let a := (s.rd o.a).toNat
    let acc : Acc := ⟨a, [(a, 32)]⟩
    if a % 16 ≠ 0 then .trap .misaligned (nat32 a) 0 0
    else if !s.src.cardInside a 32 then .trap .accessFault (nat32 a) 0 0
    else if s.loadWaits acc then .stall
    else
      let l := s.readCard a 32
      let c := Cfg.ofWord cfg
      s.eccOutcome (s.eccOf acc.bytes) a (s.windowBody c l (
        s.regRead (runsAcc a ((WinDesc.ofWords l).runs c (s.bval o.b))) fun now =>
          (x.saveTile n c.size).issueX (.tldw n cfg l (s.bval o.b) s.iss.pc) now))

/-! ### wlat (R283, R284) -/

/-- The buffer that the next `wlat` fills: the one the latched state does not name. -/
def Core.nextBuf (c : Core) : Bool := c.latValid && !c.latBuf

/-- Weights are latched, at issue. -/
def Core.latch (c : Core) (buf : Bool) (cfg : Word) : Core :=
  if buf then { c with wbCfg1 := cfg, latBuf := true, latValid := true }
  else { c with wbCfg0 := cfg, latBuf := false, latValid := true }

/-- Whether a tile can be latched. -/
def Cfg.latchable (c : Cfg) : Bool :=
  c.valid && decide (c.rows ≤ 64) && match weightK c with
    | some k => decide (c.cols ≤ k)
    | none => false

/-- `wlat` (R283); one whose target is the committed buffer needs a checkpoint first (R284). -/
def execWlat (o : FXW) (s : State) : Host.Outcome State Fault Refusal :=
  s.runOp (s.xGate o.g 0 (s.src.tregOk o.y) []) fun x =>
    let n := o.y.toNat
    let cfg := s.tcfgOf n
    let buf := s.src.core.nextBuf
    s.xReads [n] (s.xCheck (Cfg.ofWord cfg).latchable (
      if s.src.ck.latValid && s.src.ck.latBuf == buf then .ckpt
      else
        let x := x.issueX (.wlat n cfg buf) false
        .ok { x with tile := { x.tile with core := x.tile.core.latch buf cfg } }))

/-! ### mmac and mmacz (R285, R286) -/

/-- The configuration of the latched weights. -/
def Core.latched (c : Core) : Word := if c.latBuf then c.wbCfg1 else c.wbCfg0

/-- The conditions of R286. -/
def mmacOk (valid : Bool) (c w : Cfg) (row0 c0 : Nat) : Bool :=
  valid && c.valid && pairOk w c.fmt && decide (c.cols = w.cols) && decide (row0 + c.rows ≤ 256) && decide (c0 + w.rows ≤ 64)

def State.mmacOp (s : State) (o : FX) (zero : Bool) : Host.Outcome State Fault Refusal :=
  s.runOp (s.xGate o.g 0 (decide (o.x.toNat < 4) && s.src.tregOk o.y && s.src.regOk o.a && s.src.bOk o.b)
      (o.a :: o.b.regs)) fun x =>
    let n := o.y.toNat
    let cfg := s.tcfgOf n
    let w := s.src.core.latched
    let row0 := (s.rd o.a).toNat % 256
    let c0 := (s.bval o.b).toNat % 64
    s.xReads [n] (s.xCheck (mmacOk s.src.core.latValid (Cfg.ofWord cfg) (Cfg.ofWord w) row0 c0) (.ok
      (x.issueX (.mmac zero o.x.toNat n cfg w s.src.core.latBuf row0 c0) false)))

def execMmac (o : FX) (s : State) : Host.Outcome State Fault Refusal := s.mmacOp o false
def execMmacz (o : FX) (s : State) : Host.Outcome State Fault Refusal := s.mmacOp o true

/-! ### Accumulator rows (R287 to R289) -/

def areadFmt (f : Nat) : Bool := [0x00, 0x01, 0x02, 0x03, 0x04, 0x07, 0x06, 0x05, 0x08, 0x0C, 0x0D].contains f

/-- `aread` (R287). -/
def execAread (o : FX) (s : State) : Host.Outcome State Fault Refusal :=
  s.runOp (s.xGate o.g 0 (decide (o.x.toNat < 4) && s.src.tregOk o.y && s.src.regOk o.a && s.src.bOk o.b)
      (o.a :: o.b.regs)) fun x =>
    let n := o.y.toNat
    let cfg := s.tcfgOf n
    let c := Cfg.ofWord cfg
    let row0 := (s.rd o.a).toNat % 256
    let ctl := s.bval o.b
    s.xCheck (c.valid && areadFmt c.fmt && decide (row0 + c.rows ≤ 256) &&
        decide (ctl.toNat / 2 ^ 11 % 64 + c.cols ≤ 64)) (.ok
      ((x.saveTile n c.size).issueX (.aread n cfg o.x.toNat row0 ctl) false))

/-- First row and number of rows of `azero` and `arow`. -/
def rowRange (a : Word) : Nat × Nat := (a.toNat % 256, a.toNat / 256 % 256 + 1)

/-- `azero` (R289). -/
def execAzero (o : FXZ) (s : State) : Host.Outcome State Fault Refusal :=
  s.runOp (s.xGate o.g 0 (decide (o.x.toNat < 4) && s.src.regOk o.a) [o.a]) fun x =>
    let r := rowRange (s.rd o.a)
    s.xCheck (decide (r.1 + r.2 ≤ 256)) (.ok (x.issueX (.azero o.x.toNat r.1 r.2) false))

/-- The formats of `arow` with and without INT. -/
def arowFmt (isInt : Bool) (f : Nat) : Bool :=
  if isInt then [0x07, 0x06, 0x05, 0x08, 0x0C, 0x0D].contains f else [0x00, 0x01, 0x02, 0x03, 0x04].contains f

/-- `arow` (R288). -/
def execArow (o : FX) (s : State) : Host.Outcome State Fault Refusal :=
  s.runOp (s.xGate o.g 0 (decide (o.x.toNat < 4) && s.src.tregOk o.y && s.src.regOk o.a && s.src.bOk o.b)
      (o.a :: o.b.regs)) fun x =>
    let n := o.y.toNat
    let cfg := s.tcfgOf n
    let c := Cfg.ofWord cfg
    let r := rowRange (s.rd o.a)
    let ctl := s.bval o.b
    s.xReads [n] (s.xCheck (c.valid && arowFmt (ctl.getLsbD 8) c.fmt && decide (ctl.toNat % 256 < c.rows) &&
        decide (r.1 + r.2 ≤ 256) && decide (ctl.toNat / 2 ^ 10 % 64 + c.cols ≤ 64)) (.ok
      (x.issueX (.arow o.x.toNat n cfg r.1 r.2 ctl) false)))

end Sys2Proof.Machine
end

