-- ==== Sys2Proof/Machine/Flint.lean ====
section
/-! DEFINITION. The Flint instructions at issue (R294 to R304): their checks, the FST fields they set, and their entry into
the matrix queue. What each does when it completes stands in XEng.lean. -/

namespace Sys2Proof.Machine

/-! ### The fields of FST set at issue (R295) -/

/-- M: the rows under signature or grouping. -/
def fstM (f : Word) : Nat := f.toNat % 512

/-- P: the number of hyperplanes. -/
def fstP (f : Word) : Nat := f.toNat / 2 ^ 10 % 64

/-- GRP: a grouping is in force. -/
def fstGrp (f : Word) : Bool := f.getLsbD 31

def State.fst (s : State) : Word := s.src.core.flint.fst

/-- Some fields of FST set; its parity stays as it was (R294). -/
def State.setFst (s : State) (f : Word) : State :=
  { s with tile := { s.tile with core := { s.tile.core with flint := { s.tile.core.flint with fst := f } } } }

/-- An instruction that reads FST at issue: a parity error there is a data error of its bundle (R294). -/
def State.readsFst (s x : State) (go : Body) : Body :=
  if s.src.flintBad.contains 0 then .ok { x with tile := x.tile.dataError } else go

/-- The formats of an activation tile (R299). -/
def flintFmt (f : Nat) : Bool := [0x03, 0x04, 0x01, 0x02, 0x05, 0x08, 0x0C, 0x06, 0x0D].contains f

/-! ### fsig (R299) -/

def fsigOk (c h : Cfg) : Bool :=
  c.valid && h.valid && flintFmt c.fmt && decide (h.fmt = 0x05) && decide (h.rows ≤ 32) && decide (h.cols = c.cols)

def execFsig (o : FXX) (s : State) : Host.Outcome State Fault Refusal :=
  s.runOp (s.xGate o.g 1 (s.src.tregOk o.x && s.src.tregOk o.y) []) fun x =>
    let nx := o.x.toNat
    let ny := o.y.toNat
    let cx := s.tcfgOf nx
    let cy := s.tcfgOf ny
    s.xReads [nx, ny] (s.xCheck (fsigOk (Cfg.ofWord cx) (Cfg.ofWord cy)) (.ok
      ((x.setFst (fstWith s.fst (some (Cfg.ofWord cx).rows) (some (Cfg.ofWord cy).rows) none none (some 0))).issueX
        (.fsig nx ny cx cy) false)))

/-! ### fgrp (R300) -/

/-- LOAD of a control word, and M and W as `fgrp` sets them. -/
structure Grouping where
  load : Bool
  m : Nat
  w : Nat
deriving DecidableEq, Repr

/-- What the control word asks for (R300). -/
def grouping (f ctl : Word) (c : Cfg) : Grouping :=
  if ctl.getLsbD 6 then ⟨true, c.cols, 32⟩ else ⟨false, fstM f, ctl.toNat % 64⟩

/-- The checks of R300. -/
def fgrpOk (f : Word) (c : Cfg) (g : Grouping) : Bool :=
  c.valid && decide (c.fmt = 0x07) && decide (c.rows = 1) &&
    (g.load || (decide (g.m ≠ 0) && decide (1 ≤ g.w) && decide (g.w ≤ fstP f) && decide (g.m ≤ c.cols)))

def execFgrp (o : FXY) (s : State) : Host.Outcome State Fault Refusal :=
  let gate := s.xGate o.g 1 (s.src.tregOk o.y && s.src.regOk o.a && s.src.bOk o.b) o.b.regs
  s.runOp { gate with uses := usesRegs o.b.regs [o.a] } fun x =>
    let n := o.y.toNat
    let cfg := s.tcfgOf n
    let g := grouping s.fst (s.bval o.b) (Cfg.ofWord cfg)
    let body := s.xReads (if g.load then [n] else []) (s.xCheck (fgrpOk s.fst (Cfg.ofWord cfg) g) (.ok
      ((({ x with tile := x.tile.kill [.sreg o.a] }.setFst
        (fstWith s.fst (if g.load then some g.m else none) none (some g.w) none (some 1))).saveTile n (4 * g.m)).issueX
        (.fgrp o.a n cfg g.m g.w g.load) false)))
    if g.load then body else s.readsFst x body

/-! ### frep (R301) -/

def frepOk (f : Word) (d c : Cfg) : Bool :=
  c.valid && d.valid && fstGrp f && flintFmt c.fmt && decide (c.rows = fstM f) && decide (d.fmt = c.fmt) &&
    decide (d.cols = c.cols)

def execFrep (o : FXB) (s : State) : Host.Outcome State Fault Refusal :=
  s.runOp (s.xGate o.g 1 (s.src.tregOk o.x && s.src.tregOk o.y && s.src.bOk o.b) o.b.regs) fun x =>
    let nx := o.x.toNat
    let ny := o.y.toNat
    let cx := s.tcfgOf nx
    let cy := s.tcfgOf ny
    s.readsFst x (s.xReads [ny] (s.xCheck (frepOk s.fst (Cfg.ofWord cx) (Cfg.ofWord cy)) (.ok
      ((x.saveTile nx (Cfg.ofWord cx).size).issueX
        (.frep nx ny cx cy (fstM s.fst) ((s.bval o.b).getLsbD 0)) false))))

/-! ### fscat and fsum (R302, R303) -/

/-- Source and destination rows of the two, and their checks. -/
def flintRowsOk (f : Word) (src dst : Nat) : Bool :=
  fstGrp f && decide (src + fstM f ≤ 256) && decide (dst + fstM f ≤ 256)

def State.flintRows (s : State) (o : FXS) (op : Nat → Nat → Nat → Nat → XOp) : Host.Outcome State Fault Refusal :=
  s.runOp (s.xGate o.g 1 (decide (o.x.toNat < 4) && s.src.regOk o.a && s.src.bOk o.b) (o.a :: o.b.regs)) fun x =>
    let src := (s.rd o.a).toNat % 256
    let dst := (s.bval o.b).toNat % 256
    s.readsFst x (s.xCheck (flintRowsOk s.fst src dst) (.ok (x.issueX (op o.x.toNat src dst (fstM s.fst)) false)))

def execFscat (o : FXS) (s : State) : Host.Outcome State Fault Refusal := s.flintRows o .fscat

def execFsum (o : FXS) (s : State) : Host.Outcome State Fault Refusal :=
  s.flintRows o fun acc src dst m => .fsum acc src dst m ((s.bval o.b).getLsbD 8)

end Sys2Proof.Machine
end

