-- ==== Sys2Proof/Machine/Sync.lean ====
section
/-! DEFINITION. The synchronisation instructions (R252 to R260): releases held in the commit queue, waits that are
checkpointing operations. -/

namespace Sys2Proof.Machine

/-- A release enters the commit queue, behind the stream vectors written before it (R205, R264). -/
def State.hold (s : State) (h : Held) : State := { s with tile := s.tile.landOutputs.enqueue h }

/-- The checks of R254 on a barrier or counter of n bytes at a. -/
def State.syncCause (s : State) (a n : Nat) (write barrier : Bool) : Option Cause :=
  firstCause [(decide (a % n = 0), .misaligned),
    (s.accessOk s.src s.src.core.sup a n write && inMemory s.src.ltile a &&
      (!barrier || s.src.barrierRegionOk s.src.core.sup a), .accessFault)]

/-- An operation on a barrier or counter at a whose checks have passed. -/
def State.syncBody (s : State) (a n : Nat) (write barrier : Bool) (go : Body) : Body :=
  match s.syncCause a n write barrier with
  | some c => .trap c (nat32 a) 0 0
  | none => go

/-- The gate of `barv` and `bartx`. -/
def State.relGate (s : State) (g : Guard) (a : Reg) (b : BOp) : Gate :=
  { s.gate g (operandCheck (s.src.regOk a && s.src.bOk b)) (usesRegs (a :: b.regs) []) with wait := s.src.portLoading }

/-- `barv`: waits as R82 asks, then holds the arrivals and the flags of earlier bundles (R255). -/
def execBarv (o : FR) (s : State) : Host.Outcome State Fault Refusal :=
  s.runOp { s.relGate o.g o.a o.b with wait := s.src.flagsBusy || s.src.portLoading } fun x =>
    let a := (s.rd o.a).toNat
    let n := (s.bval o.b).toNat % 2 ^ 16
    s.syncBody a 16 true true (
      if n = 0 then .trap .illegalOperand s.iss.raw 0 0
      else .ok (x.hold (.barv o.sc.toNat a n s.src.core.flagByte)))

/-- `bartx` and `bartx.na` (R255). -/
def execBartx (o : FRT) (s : State) : Host.Outcome State Fault Refusal :=
  s.runOp (s.relGate o.g o.a o.b) fun x =>
    let a := (s.rd o.a).toNat
    s.syncBody a 16 true true (.ok (x.hold (.bartx o.sc.toNat a (if o.na then 0 else 1) (s.bval o.b))))

/-- `cadd` (R253, R255). -/
def execCadd (o : FR) (s : State) : Host.Outcome State Fault Refusal :=
  s.runOp { s.gate o.g (operandCheck (s.src.regOk o.a && s.src.b64Ok o.b)) (usesRegs (o.a :: o.b.regs64) []) with
      wait := s.src.portLoading } fun x =>
    let a := (s.rd o.a).toNat
    s.syncBody a 8 true false (.ok (x.hold (.cadd o.sc.toNat a (s.bval64z o.b))))

/-- The end of a wait: the value lands with the bundle and is logged; a rerun takes the logged value (R140). -/
def State.endWait (s : State) (d : Reg) (v : Word) : State :=
  let t := s.tile.logResult s.iss.word false v
  { s with tile := t }.deliver 1 [(.sreg d, v)] 0

/-- Whether phase g has completed when the object shows generation `gen` (R256). -/
def phaseDone (gen g : Word) : Bool := decide (1 ≤ (gen - g).toNat) && decide ((gen - g).toNat ≤ 2 ^ 31)

/-- `barw` (R256). -/
def execBarw (o : FS) (s : State) : Host.Outcome State Fault Refusal :=
  s.runOp { s.fsGate o (o.a :: o.b.regs) with ckop := true } fun x =>
    let a := (s.rd o.a).toNat
    s.syncBody a 16 false true (
      match s.src.logged s.iss.word false with
      | some v => .ok (x.deliver 1 [(.sreg o.d, v)] 0)
      | none =>
        let gen := nat32 (s.atIssue.mapNat s.src.ctx s.src.ltile (a + 12) 4)
        if phaseDone gen (s.bval o.b) then
          .ok (x.endWait o.d (nat32 (s.atIssue.mapNat s.src.ctx s.src.ltile (a + 9) 1)))
        else .stall)

/-- `wge` (R253, R257). -/
def execWge (o : FS) (s : State) : Host.Outcome State Fault Refusal :=
  s.runOp { s.gate o.g (operandCheck (s.src.regOk o.d && s.src.regOk o.a && s.src.b64Ok o.b))
      (usesRegs (o.a :: o.b.regs64) [o.d]) with ckop := true } fun x =>
    let a := (s.rd o.a).toNat
    s.syncBody a 8 false false (
      match s.src.logged s.iss.word false with
      | some v => .ok (x.deliver 1 [(.sreg o.d, v)] 0)
      | none =>
        let v := s.atIssue.mapNat s.src.ctx s.src.ltile a 8
        if (s.bval64z o.b).toNat ≤ v then .ok (x.endWait o.d (nat32 v)) else .stall)

/-- `phase.rel` (R258). -/
def execPhaseRel (o : FRP) (s : State) : Host.Outcome State Fault Refusal :=
  s.runOp { s.gate o.g none (usesRegs [] []) with wait := s.src.portLoading } fun x => .ok (x.hold (.phaseRel o.sc.toNat))

/-- `phase.acq`: a checkpoint before and after; the load buffer is empty after it (R259). -/
def execPhaseAcq (o : FG) (s : State) : Host.Outcome State Fault Refusal :=
  s.runOp { s.gate o.g none (usesRegs [] []) with ckop := true } fun x => .ok x

end Sys2Proof.Machine
end

