-- ==== Sys2Proof/Machine/Hydin.lean ====
section
/-! DEFINITION. The Hydin instructions (R317 to R328): making, editing, freezing, thawing and freeing trees, posting to them
and reading their state. -/

namespace Sys2Proof.Machine

/-- The tree that a frozen image made by another device holds, if its checksum is right (R325: the layout is internal). -/
opaque Config.foreignTree : List Byte → Option Tree

/-! ### Gates (R317) -/

/-- The decode check of a Hydin instruction: the feature bit, the mode where it is a supervisor's, the registers. -/
def State.treeChk (s : State) (sup : Bool) (ok : Bool) : Option Cause :=
  firstCause [(s.src.feat 2, .illegalInstruction), (!sup || s.src.core.sup, .privilege), (ok, .illegalOperand)]

def State.treeGate (s : State) (o : FS) (sup : Bool) : Gate :=
  { s.gate o.g (s.treeChk sup (s.src.regOk o.d && s.src.regOk o.a && s.src.bOk o.b)) (usesRegs (o.a :: o.b.regs) [o.d]) with
    ckop := sup }

/-- A result at once, as a rerun finds it in the log (R140): the operation does not act twice. -/
def State.onceOnly (s x : State) (d : Reg) (go : Body) : Body :=
  match s.src.logged s.iss.word false with
  | some v => .ok (x.deliver 1 [(.sreg d, v)] 0)
  | none => go

/-! ### Making and editing (R323, R324) -/

/-- A member tile belongs to its device's part of the context. -/
def State.memberOk (s : State) (ctx : Nat) (m : Member) : Bool :=
  if m.dev = s.dev.devid.toNat then ((s.ctx? ctx).map fun c => decide (m.tile < c.ntile)).getD false
  else Config.memberAccepted m.dev ctx m.tile

/-- The code that refuses a descriptor for a context, if any: 2 for an invalid one, 3 for an array or member outside. -/
def State.descRefused (s : State) (ctx : Nat) (h : TreeHead) (rangeOk : Nat → Nat → Bool) (d : TreeDesc) : Option Nat :=
  if !h.valid then some 2
  else if !(rangeOk h.mema (8 * h.nmem) && rangeOk h.nodea (8 * h.nnode)) then some 3
  else if !d.valid then some 2
  else if !(d.members.all (s.memberOk ctx)) then some 3
  else none

/-- The lowest free entry of the tree table (R305). -/
def State.freeEntry (s : State) : Option Nat := (List.range 4096).find? fun i => (s.tree? i).isNone

/-- `hmk` (R323): a handle or a code; memory is read through `rd`. -/
def State.makeTree (s : State) (ctx : Nat) (head : List Byte) (rd : Nat → Byte) (rangeOk : Nat → Nat → Bool) :
    Word × State :=
  let h := TreeHead.ofBytes head
  let d := h.desc rd
  match s.freeEntry, s.ctx? ctx with
  | some idx, some _ =>
    match s.descRefused ctx h rangeOk d with
    | some c => (nat32 c, s)
    | none =>
      let t : Tree := {
        idx := idx
        ctx := ctx
        oper := h.oper
        tfmt := h.tfmt
        seglog := h.seglog
        descs := [d]
        prev := []
        nodes := []
        flight := []
        results := []
        posts := []
        empties := []
        frozen := false
        freezing := none
        thawing := none
        image := (0, 0)
        misses := 0 }
      let s1 : State := { s with dev := { s.dev with trees := s.dev.trees ++ [t] } }
      (s.handle idx, s1.placeAll idx)
  | _, _ => (1, s)

/-- Some member's post at or past `eff` has been released (R312, R324). -/
def Tree.released (t : Tree) (eff : Nat) : Bool := t.prev.any fun p => decide (p.2 % 2 ^ 32 = eff) || follows p.2 eff

/-- The next segment with an index: past every member's latest, without wrapping. -/
def Tree.nextSeg (t : Tree) (eff : Nat) : Nat :=
  let p := t.prev.foldl (fun a e => max a e.2) 0xFFFFFFFF
  p + 1 + (eff + 2 ^ 32 - (p + 1) % 2 ^ 32) % 2 ^ 32

/-- A descriptor in force from the next segment with an index on, in the place of any that was to be so from there or later. -/
def Tree.addDesc (t : Tree) (d : TreeDesc) (eff : Nat) : Tree :=
  let e := t.nextSeg eff
  { t with
    descs := t.descs.filter (fun (x : TreeDesc) => decide (x.eff < e)) ++ [{ d with eff := e }]
    nodes := t.nodes.filter fun x => decide (x.eff < e) }

/-- The root member of the descriptor in force last. -/
def TreeDesc.rootTile (d : TreeDesc) : Option (Nat × Nat) :=
  (d.members.find? fun m => decide (m.rank = d.root)).map fun m => (m.dev, m.tile)

/-- Whether an edit keeps what it must keep (code 7). -/
def Tree.sameKind (t : Tree) (h : TreeHead) (d : TreeDesc) : Bool :=
  decide (t.oper = h.oper) && decide (t.tfmt = h.tfmt) && decide (t.seglog = h.seglog) &&
    decide ((t.descs.getLastD ⟨0, 0, [], []⟩).rootTile = d.rootTile)

/-- A tree's context runs its trees (R330, R407). -/
def State.treeRuns (s : State) (t : Tree) : Bool :=
  ((s.ctx? t.ctx).map fun c => decide (c.state = .run) || decide (c.state = .drain)).getD true

/-- A tree frozen, by `hfrz` or with its pre-empted context. -/
def State.treeFrozen (s : State) (t : Tree) : Bool := t.still || !s.treeRuns t

/-- `hedit` (R324): the code. -/
def State.editTree (s : State) (ctx : Nat) (h : Word) (head : List Byte) (rd : Nat → Byte) (rangeOk : Nat → Nat → Bool) :
    Word × State :=
  let hd := TreeHead.ofBytes head
  let d := hd.desc rd
  match s.liveTree ctx h with
  | none => (5, s)
  | some t =>
    if s.treeFrozen t then (8, s)
    else match s.descRefused ctx hd rangeOk d with
    | some c => (nat32 c, s)
    | none =>
      if !t.sameKind hd d then (7, s)
      else if t.released hd.eff then (6, s)
      else
        (0, (s.setTree (t.addDesc d hd.eff).settle).placeAll t.idx)

/-- `hfree` (R327): the code. -/
def State.freeHandle (s : State) (ctx : Nat) (h : Word) : Word × State :=
  match s.liveTree ctx h with
  | none => (5, s)
  | some t => if s.treeFrozen t then (8, s) else (0, s.freeTree t.idx 6)

/-! ### The instructions -/

/-- Bytes at an on-chip address as the issuing tile sees them. -/
def State.myByte (s : State) (a : Nat) : Byte := s.seenByte s.src a

/-- Whether n bytes at a lie in the issuing tile's domain, in memory. -/
def State.myRange (s : State) (a n : Nat) (write : Bool) : Bool :=
  s.accessOk s.src s.src.core.sup a n write && inMemory s.src.ltile a

/-- The checks of a descriptor address (R323), and the descriptor. -/
def State.withDesc (s : State) (a : Nat) (go : List Byte → Body) : Body :=
  s.syncBody a 64 false false
    (s.eccOutcome (s.eccOf ((List.range 64).map (a + ·))) a (go (s.seen s.src a 64)))

/-- `hmk` (R323). -/
def execHmk (o : FS) (s : State) : Host.Outcome State Fault Refusal :=
  s.runOp (s.treeGate o true) fun x =>
    s.withDesc (s.rd o.a).toNat fun bs =>
      s.onceOnly x o.d (
        let r := x.makeTree ((s.bval o.b).toNat % 64) bs s.myByte fun a n => s.myRange a n false
        .ok (r.2.endWait o.d r.1))

/-- `hpost` (R319): held as a job; its checks are made at release. -/
def execHpost (o : FS) (s : State) : Host.Outcome State Fault Refusal :=
  s.runOp (s.treeGate o false) fun x =>
    let a := (s.bval o.b).toNat
    s.needSlot (s.withCard x a 32 fun x card => .ok (x.issueJob (.post (s.rd o.a)) o.d a card 0))

/-- `hedit` (R324). -/
def execHedit (o : FS) (s : State) : Host.Outcome State Fault Refusal :=
  s.runOp (s.treeGate o true) fun x =>
    s.withDesc (s.bval o.b).toNat fun bs =>
      s.onceOnly x o.d (
        let r := x.editTree s.src.ctx (s.rd o.a) bs s.myByte fun a n => s.myRange a n false
        .ok (r.2.endWait o.d r.1))

/-- `hfree` (R327). -/
def execHfree (o : FDA) (s : State) : Host.Outcome State Fault Refusal :=
  s.runOp { s.gate o.g (s.treeChk true (s.src.regOk o.d && s.src.regOk o.a)) (usesRegs [o.a] [o.d]) with ckop := true }
    fun x => s.onceOnly x o.d (
      let r := x.freeHandle s.src.ctx (s.rd o.a)
      .ok (r.2.endWait o.d r.1))

/-! ### Freezing and thawing (R325, R326) -/

/-- The checks of an image address: 64-byte aligned, in the near store, the image's bound in the domain. -/
def State.imageCause (s : State) (a n : Nat) (write : Bool) : Option Cause :=
  let near := match placeOf s.src.ltile a with
    | .near _ => true
    | _ => false
  firstCause [(decide (a % 64 = 0), .misaligned), (near && s.accessOk s.src s.src.core.sup a n write, .accessFault)]

/-- The result of a freeze or thaw is awaited (R53). -/
def State.awaitTree (s : State) (d : Reg) (idx : Nat) : State :=
  let t := if d = 0 then s.tile else s.tile.kill [.sreg d]
  { s with tile := { t with loads := t.loads ++ [⟨regDst d, .tree idx, s.iss.word⟩] } }

/-- `hfrz` and `hthaw`: the address checks, then a code or the start of the work. -/
def State.freezeOp (s : State) (o : FS) (write : Bool) (go : State → Tree → Nat → Word ⊕ Tree) :
    Host.Outcome State Fault Refusal :=
  s.runOp (s.treeGate o true) fun x =>
    let a := (s.bval o.b).toNat
    let live := s.liveTree s.src.ctx (s.rd o.a)
    match s.imageCause a ((live.map Tree.bound).getD 64) write with
    | some c => .trap c (nat32 a) 0 0
    | none =>
      s.onceOnly x o.d (
        match live with
        | none => .ok (x.endWait o.d 5)
        | some t =>
          match go x t a with
          | .inl code => .ok (x.endWait o.d code)
          | .inr t' => .ok ((x.awaitTree o.d t.idx).setTree t'))

/-- `hfrz` (R325): the image is complete at TREE_FREEZE_COMPLETE. -/
def execHfrz (o : FS) (s : State) : Host.Outcome State Fault Refusal :=
  s.freezeOp o true fun x t a =>
    if x.treeFrozen t then .inl 8 else .inr { t with freezing := some a }

/-- Word 0 of a frozen image (R325). -/
def imageMagic : Nat := 0x48590001

/-- The bytes at a are those of an image: the header, the handle, and every byte behind them. -/
def State.imageMatches (s : State) (a seed addr n : Nat) : Bool :=
  (List.range (n - 8)).all fun i => decide (s.dev.near.readByte (a + 8 + i) = Config.freeByte seed (addr + 8 + i))

/-- The image at a, where it is intact: of this device, the tree that the freeze with those bytes saved; else what an image of
another device holds (R325, R326). -/
def State.imageAt (s : State) (t : Tree) (a : Nat) : Option (Option Nat × Tree) :=
  if s.dev.near.readNat a 4 = imageMagic ∧ s.dev.near.word (a + 4) = s.handle t.idx then
    match s.dev.images.find? fun x => s.imageMatches a x.1 x.2.1 x.2.2.bound && (s.dev.near.badWord a x.2.2.bound).isNone with
    | some x => some (some x.1, x.2.2)
    | none =>
      if (s.dev.near.badWord a t.bound).isSome then none
      else (Config.foreignTree (s.dev.near.read a t.bound)).map fun u => (none, u)
  else none

/-- `hthaw` (R326): the tree moves on at TREE_THAW_COMPLETE; one more while it is being thawed waits for the same end. -/
def execHthaw (o : FS) (s : State) : Host.Outcome State Fault Refusal :=
  s.freezeOp o false fun x t a =>
    if !t.frozen then .inl 9
    else if (x.imageAt t a).isNone then .inl 0xA
    else .inr { t with thawing := some (t.thawing.getD a) }

/-! ### hstat (R328) -/

/-- An edit is installed and segments below its EFF are in progress. -/
def Tree.editPending (t : Tree) : Bool := (t.descs.drop 1).any fun d => t.busyBelow d.eff

/-- The lowest index that a member has not ended: of its posts, or the one after its latest. -/
def Tree.memberLow (t : Tree) (m : Member) : Nat :=
  let mine := t.posts.filter fun p => decide (p.dev = m.dev) && decide (p.tile = m.tile)
  mine.foldl (fun a p => min a p.seg) (t.prevOf m.dev m.tile + 1)

/-- The lowest indices of the members of a descriptor that lie in its range: from its EFF to that of the next. -/
def Tree.lowsIn (t : Tree) (d : TreeDesc) (next : Option Nat) : List Nat :=
  d.members.filterMap fun m =>
    let l := max d.eff (t.memberLow m)
    match next with
    | some e => if l < e then some l else none
    | none => some l

/-- The lowest index not yet ended at every member: each segment's members are those of its descriptor (R324, R328). -/
def Tree.lowest (t : Tree) : Nat :=
  let ls := t.descs.zipIdx.map fun p => t.lowsIn p.1 ((t.descs[p.2 + 1]?).map (·.eff))
  match ls.find? fun l => !l.isEmpty with
  | some (a :: l) => l.foldl min a % 2 ^ 32
  | _ => 0

/-- The status word (R328). -/
def Tree.statusWord (t : Tree) : Word :=
  nat32 (2 ^ 31 + (if t.still then 2 ^ 30 else 0) + (if t.editPending then 2 ^ 29 else 0) + t.seglog % 32 * 2 ^ 16 +
    t.tfmt % 8 * 2 ^ 8 + t.oper % 16)

/-- What a selector below 5 reads. -/
def Tree.stat (t : Tree) (sel : Nat) : Word :=
  match sel with
  | 0 => t.statusWord
  | 1 => nat32 t.lowest
  | 2 => nat32 t.misses
  | 3 => nat32 t.bound
  | _ => nat32 (t.descs.getLastD ⟨0, 0, [], []⟩).members.length

/-- `hstat` (R328). -/
def execHstat (o : FS) (s : State) : Host.Outcome State Fault Refusal :=
  s.runOp (s.treeGate o false) fun x =>
    let sel := (s.bval o.b).toNat
    if 5 ≤ sel then .trap .illegalOperand s.iss.raw 0 0
    else .ok (x.deliver 1 [(.sreg o.d, ((s.liveTree s.src.ctx (s.rd o.a)).map fun t => t.stat sel).getD 0)] 0)

end Sys2Proof.Machine
end

