-- ==== Sys2Proof/Machine/Lelum.lean ====
section
/-! DEFINITION. The fabric instructions (R350 to R355): `xst`, held as a job, and the remote atomics, held when they return
nothing and checkpointing operations when they return their old value. -/

namespace Sys2Proof.Machine

/-- The four registers of a quad (R350). -/
def quadRegs (r : Reg) : List Reg := [r, r ||| 1, r ||| 2, r ||| 3]

def Tile.quadOk (t : Tile) (r : Reg) : Bool := decide (r.toNat % 4 = 0) && (quadRegs r).all t.regOk

/-- `xst` (R352): addresses, source and length are read at issue; the checks are made at release. -/
def execXst (o : FXT) (s : State) : Host.Outcome State Fault Refusal :=
  s.runOp (s.gate o.g (firstCause [(s.src.feat 3, .illegalInstruction),
      (s.src.regOk o.d && s.src.quadOk o.a && s.src.pairOk o.b, .illegalOperand)])
      (usesRegs (quadRegs o.a ++ [o.b, pairHi o.b]) [o.d])) fun x =>
    s.needSlot (
      let dva := (s.rdPair o.a).toNat
      let fva := (s.rdPair (o.a ||| 2)).toNat
      .ok (x.issueJob (.xst dva fva (s.rd o.b) (s.rd (pairHi o.b))) o.d 0 none 0))

/-- The registers that take the old value and the status of a returning atomic. -/
def atomDsts (d : Reg) : List Dst := [.sreg d, .sreg (pairHi d)]

/-- A returning atomic leaves at once; its two results are awaited and logged (R353). -/
def State.askXatom (s : State) (d : Reg) (kind : JobKind) : State :=
  let t := s.tile.kill (atomDsts d)
  let j : Job := {
    slot := t.freeSlot.getD 0
    sq := t.jobSq
    kind := kind
    state := .waiting
    tok := none
    cardAddr := 0
    card := none
    early := 0
    status := 0
    edges := []
    reads := []
    writes := []
    xl := []
    parkVa := 0
    parkWr := false
    acks := []
    phase := 0
    scan := false
    sup := s.src.core.sup
    frame := none
    asked := []
    sent := [] }
  let j := s.releaseFabric t j
  { s with tile := { t with
    jobs := t.jobs ++ [j]
    jobSq := t.jobSq + 1
    loads := t.loads ++ [⟨.sreg d, .xold j.sq, s.iss.word⟩, ⟨.sreg (pairHi d), .xstatus j.sq, s.iss.word⟩] } }

/-- `xadd`, `xincb` and `xcas` (R353). -/
def State.xatomic (s : State) (o : FS) (op : AtomOp) : Host.Outcome State Fault Refusal :=
  let returns := decide (o.d ≠ 0)
  let ds := if returns then [o.d, pairHi o.d] else []
  let es := if returns && decide (op = .cas) then [o.d] else []
  s.runOp { s.gate o.g (firstCause [(s.src.feat 3, .illegalInstruction),
      ((!returns || s.src.pairOk o.d) && s.src.pairOk o.a && s.src.bOk o.b, .illegalOperand)])
      (usesRegs ([o.a, pairHi o.a] ++ o.b.regs ++ es) ds) with ckop := returns } fun x =>
    let kind : JobKind := .xatom op (s.rdPair o.a).toNat (s.bval o.b) (if returns then s.rd o.d else 0)
    if returns then
      match s.src.logged s.iss.word false, s.src.logged s.iss.word true with
      | some v, some st => .ok (x.deliver 1 [(.sreg o.d, v), (.sreg (pairHi o.d), st)] 0)
      | _, _ => s.needSlot (.ok (x.askXatom o.d kind))
    else s.needSlot (.ok (x.issueJob kind 0 0 none 0))

def execXadd (o : FS) (s : State) : Host.Outcome State Fault Refusal := s.xatomic o .add
def execXincb (o : FS) (s : State) : Host.Outcome State Fault Refusal := s.xatomic o .incb
def execXcas (o : FS) (s : State) : Host.Outcome State Fault Refusal := s.xatomic o .cas

end Sys2Proof.Machine
end

