-- ==== Sys2Proof/Machine/Stream.lean ====
section
/-! DEFINITION. The stream instructions (R195 to R204). -/

namespace Sys2Proof.Machine

/-! ### Descriptors (R196 to R198) -/

/-- Extents and strides of the used dimensions. -/
def descExt (d : List Word) : List Nat :=
  (List.range ((d.getD 0 0).toNat / 2 % 4 + 1)).map fun i => (d.getD (2 + i) 0).toNat

def descStr (d : List Word) : List Int :=
  (List.range ((d.getD 0 0).toNat / 2 % 4 + 1)).map fun i => (d.getD (6 + i) 0).toInt

def descBase (d : List Word) : Nat := (d.getD 1 0).toNat
def descBar (d : List Word) : Nat := (d.getD 10 0).toNat

/-- DIR: 1 for an output stream. -/
def descOut (d : List Word) : Bool := (d.getD 0 0).getLsbD 0

def descTotal (d : List Word) : Nat := (descExt d).foldl (· * ·) 1

/-- The footprint: its first byte and its last (R198). -/
def descSpan (d : List Word) : Int × Int :=
  let xs := (descExt d).zip (descStr d)
  (xs.foldl (fun a x => a + min 0 (((x.1 : Int) - 1) * x.2)) (descBase d : Int),
    xs.foldl (fun a x => a + max 0 (((x.1 : Int) - 1) * x.2)) (descBase d : Int) + 63)

/-- The completion barrier of an output stream is acceptable (R200). -/
def State.streamBarOk (s : State) (a : Nat) : Bool :=
  decide (a = 0) || (decide (a % 16 = 0) && s.accessOk s.src s.src.core.sup a 16 true && inMemory s.src.ltile a &&
    s.src.barrierRegionOk s.src.core.sup a)

/-- The checks of R200 on a descriptor and a start position. -/
def State.descOk (s : State) (d : List Word) (start : Nat) : Bool :=
  let sp := descSpan d
  (descExt d).all (fun e => decide (e ≠ 0)) && decide (descTotal d < 2 ^ 32) && decide (descBase d % 4 = 0) &&
    (descStr d).all (fun x => decide (x % 4 = 0)) && decide (0 ≤ sp.1) && decide (sp.2 < 2 ^ 32) &&
    s.accessOk s.src s.src.core.sup sp.1.toNat (sp.2 - sp.1 + 1).toNat (descOut d) &&
    (!descOut d || s.streamBarOk (descBar d)) && decide (start < descTotal d)

/-- A byte that the stream unit reads: where R179 gives its read of an uncorrectable word no outcome, the byte is
undefined. -/
def State.streamByte (s : State) (a : Nat) : Byte :=
  match (s.src.knownByte a).isSome || (s.src.buffered a).isSome, s.eccByte a with
  | _, .none => s.supByte s.src s.iss.pc a
  | true, _ => s.supByte s.src s.iss.pc a
  | false, _ => Config.freeByte s.free a

/-- A descriptor as the port holds it: reserved bits are zero (R5, R196, R197). -/
def descMasked (l : List Word) : List Word := ((l.getD 0 0 &&& 7) :: (l.drop 1).take 10) ++ List.replicate 5 0

/-- The sixteen words of the descriptor at a, every earlier store visible (R200). -/
def State.readDesc (s : State) (a : Nat) : List Word :=
  descMasked (wordsOfBytes 16 ((List.range 64).map fun i => s.streamByte (a + i)))

/-! ### The instructions (R199 to R203) -/

/-- `sbind` (R200). -/
def execSbind (o : FS) (s : State) : Host.Outcome State Fault Refusal :=
  s.runOp (s.gate o.g (operandCheck (s.src.portOk o.d && s.src.regOk o.a && s.src.bOk o.b))
      (usesRegs (o.a :: o.b.regs) [])) fun x =>
    let q := o.d.toNat
    let a := (s.rd o.a).toNat
    let acc : Acc := ⟨a, [(a, 64)]⟩
    let fault : Body := .trap .streamFault (nat32 q) 0 0
    if (s.src.core.port q).bound || !decide (a % 64 = 0) || !s.slotOk s.src a 64 false then fault
    else if s.readWaits acc then .stall
    else
      let d := s.readDesc a
      let start := (s.bval o.b).toNat
      if s.descOk d start then
        let c := x.tile.core
        let p : Port := ⟨true, descOut d, d, descTotal d, start, [], false, c.bindings⟩
        .ok { x with tile := { x.tile with core := { c.setPort q p with bindings := c.bindings + 1 } }, free := x.free + 1 }
      else fault

/-- Whether an output port has vectors that have not landed or are not yet visible (R201, R202). -/
def State.drainWaits (s : State) (q : Nat) : Bool :=
  let p := s.src.core.port q
  p.bound && p.out &&
    (!p.fifo.isEmpty || s.src.released.any Held.isWrite || s.src.portLoading)

/-- `sunbind` (R201). -/
def execSunbind (o : FD) (s : State) : Host.Outcome State Fault Refusal :=
  s.runOp (s.gate o.g (operandCheck (s.src.portOk o.d)) (usesRegs [] [])) fun x =>
    let q := o.d.toNat
    if s.drainWaits q then .stall
    else .ok { x with tile := x.tile.landOutputs.unbindPort q }

/-- `sdrain` (R202). -/
def execSdrain (o : FD) (s : State) : Host.Outcome State Fault Refusal :=
  s.runOp (s.gate o.g (operandCheck (s.src.portOk o.d)) (usesRegs [] [])) fun x =>
    let q := o.d.toNat
    let p := x.tile.core.port q
    if s.drainWaits q || s.src.mq.any XOp.isTst then .stall
    else if p.bound && !p.out then
      .ok { x with tile := { x.tile with core := x.tile.core.setPort q { p with fifo := [] } } }
    else .ok x

/-- `sstat` (R203). -/
def execSstat (o : FS) (s : State) : Host.Outcome State Fault Refusal :=
  s.runOp (s.gate o.g (operandCheck (s.src.regOk o.d && s.src.portOk o.a && s.src.bOk o.b))
      (usesRegs o.b.regs [o.d])) fun x =>
    let p := s.src.core.port o.a.toNat
    let put (v : Word) : Body := .ok (x.deliver 2 [(.sreg o.d, v)] 0)
    match (s.bval o.b).toNat with
    | 0 => put (s.src.portStatus o.a.toNat)
    | 1 => put (if p.bound then nat32 p.pos else 0)
    | 2 => put (if p.bound then nat32 p.total else 0)
    | _ => .trap .illegalOperand s.iss.raw 0 0

end Sys2Proof.Machine
end

