-- ==== Sys2Proof/Machine/Shale.lean ====
section
/-! DEFINITION. The Shale instructions (R367 to R373): waiting for a layer and pinning it, releasing it, and hints. -/

namespace Sys2Proof.Machine

/-- The object that SCTX names, if it is registered and the task's context owns it (R369). -/
def State.taskObj (s : State) : Option Obj :=
  match s.obj? s.src.task.sctx with
  | some o => if o.ctx = s.src.ctx then some o else none
  | none => none

/-- The object and layer that an instruction names, or illegal-operand (R369). -/
def State.layerBody (s : State) (r : Reg) (go : Obj → Nat → Body) : Body :=
  match s.taskObj with
  | some o =>
    let l := (s.rd r).toNat
    if l < s.objLayers o then go o l else .trap .illegalOperand s.iss.raw 0 0
  | none => .trap .illegalOperand s.iss.raw 0 0

/-! ### The pin set (R367) -/

def Core.pin? (c : Core) (obj layer : Nat) : Option Pin := c.pins.find? fun p => decide (p.obj = obj) && decide (p.layer = layer)

/-- One more pin of a layer: a deeper entry, or a new one. -/
def Core.pinOnce (c : Core) (obj layer : Nat) : Core :=
  match c.pin? obj layer with
  | some _ => { c with pins := c.pins.map fun p =>
      if p.obj = obj ∧ p.layer = layer then { p with depth := p.depth + 1 } else p }
  | none => { c with pins := c.pins ++ [⟨obj, layer, 1⟩] }

/-- One pin fewer; the entry leaves at depth 0. -/
def Core.unpinOnce (c : Core) (obj layer : Nat) : Core :=
  { c with pins := c.pins.filterMap fun p =>
      if p.obj = obj ∧ p.layer = layer then (if p.depth ≤ 1 then none else some { p with depth := p.depth - 1 }) else some p }

def State.pinHere (s : State) (o : Obj) (layer : Nat) : State :=
  { s with tile := { s.tile with core := s.tile.core.pinOnce o.num layer } }

/-! ### lwait (R370, R371) -/

/-- Layers i + 1 to min(i + LA, NL − 1) are requested. -/
def State.lookahead (s : State) (o : Obj) (layer : Nat) : State :=
  ((List.range (s.objLayers o)).filter fun i => decide (layer < i) && decide (i ≤ layer + s.objLa o)).foldl
    (fun s i => s.requestLayer o i false) s

/-- The wait has exceeded the limit of cr.lwlim. -/
def Tile.waitedOut (t : Tile) : Bool := decide (t.core.lwlim ≠ 0) && decide (1024 * t.core.lwlim.toNat < t.lwCount)

/-- The bundle waits one cycle more, for the layer it names (R370, R371). -/
def State.waitLayer (s : State) (obj layer : Nat) : State :=
  { s with tile := { s.tile with lwCount := s.tile.lwCount + 1, lwOn := some (obj, layer, false) } }

/-- Whether a load of the layer that the tile waits for has failed since the wait began (R374). -/
def Tile.waitFailed (t : Tile) (obj layer : Nat) : Bool := decide (t.lwOn = some (obj, layer, true))

/-- A layer pinned at its home, for the first time in the pin set. -/
def State.pinFresh (s : State) (o : Obj) (layer : Nat) : State :=
  let s := s.pinLayer o layer
  { s with tile := { s.tile with freshPins := s.tile.freshPins ++ [(o.num, layer)] } }

/-- What `lwait` finds at a layer that its tile does not hold. -/
def State.lwaitHome (s x : State) (o : FDA) (obj : Obj) (l : Nat) : Body :=
  let base := nat32 (s.layerStage obj l)
  if s.src.waitFailed obj.num l then .trap .swapFault (nat32 l) 0 0
  else
    match s.layerState obj l with
    | 3 => .trap .swapFault (nat32 l) 0 0
    | 2 => .ok ((((x.pinFresh obj l).pinHere obj l).lookahead obj l).endWait o.d base)
    | _ =>
      if s.src.waitedOut then .trap .swapTimeout (nat32 l) 0 0
      else .waiting ((s.requestLayer obj l true).waitLayer obj.num l)

def execLwait (o : FDA) (s : State) : Host.Outcome State Fault Refusal :=
  s.runOp { s.gate o.g (firstCause [(s.src.feat 4, .illegalInstruction),
      (s.src.regOk o.d && s.src.regOk o.a, .illegalOperand)]) (usesRegs [o.a] [o.d]) with ckop := true } fun x =>
    s.layerBody o.a fun obj l =>
      let depth := ((s.src.core.pin? obj.num l).map (·.depth)).getD 0
      if depth = 255 ∨ (depth = 0 ∧ 16 ≤ s.src.core.pins.length) then .trap .illegalOperand s.iss.raw 0 0
      else
        match s.src.logged s.iss.word false with
        | some v => .ok ((x.pinHere obj l).deliver 1 [(.sreg o.d, v)] 0)
        | none =>
          if depth = 0 then s.lwaitHome x o obj l
          else .ok ((x.pinHere obj l).endWait o.d (nat32 (s.layerStage obj l)))

/-! ### lrel and lhint (R372, R373) -/

/-- `lrel`: the unpin of an entry that leaves follows at the next checkpoint. -/
def execLrel (o : FA) (s : State) : Host.Outcome State Fault Refusal :=
  s.runOp (s.gate o.g (firstCause [(s.src.feat 4, .illegalInstruction), (s.src.regOk o.a, .illegalOperand)])
      (usesRegs [o.a] [])) fun x =>
    s.layerBody o.a fun obj l =>
      match x.tile.core.pin? obj.num l with
      | none => .trap .illegalOperand s.iss.raw 0 0
      | some p =>
        let t := { x.tile with core := x.tile.core.unpinOnce obj.num l }
        .ok { x with tile := if p.depth ≤ 1 then { t with unpins := t.unpins ++ [(obj.num, l)] } else t }

/-- `lhint` requests one layer, a FAILED one first returning to ABSENT (R362, R373). -/
def State.hintLayer (s : State) (o : Obj) (l : Nat) : State :=
  let s := if s.layerState o l = 3 then s.setLayerState o l 0 else s
  s.requestLayer o l false

def execLhint (o : FAB) (s : State) : Host.Outcome State Fault Refusal :=
  s.runOp (s.gate o.g (firstCause [(s.src.feat 4, .illegalInstruction),
      (s.src.regOk o.a && s.src.bOk o.b, .illegalOperand)]) (usesRegs (o.a :: o.b.regs) [])) fun x =>
    s.layerBody o.a fun obj l =>
      let n := (s.bval o.b).toNat
      if n = 0 ∨ 1024 < n then .trap .illegalOperand s.iss.raw 0 0
      else .ok (((List.range (s.objLayers obj)).filter fun i => decide (l ≤ i) && decide (i < l + n)).foldl
        (fun s i => s.hintLayer obj i) x)

end Sys2Proof.Machine
end

