-- ==== Sys2Proof/Machine/System.lean ====
section
/-! DEFINITION. The system instructions (R387 to R391): the return from a trap, tile images, event records and the grant
table. -/

namespace Sys2Proof.Machine

/-- The decode check of a supervisor instruction (R57). -/
def State.supChk (s : State) (ok : Bool) : Option Cause := firstCause [(s.src.core.sup, .privilege), (ok, .illegalOperand)]

/-! ### eret (R388) -/

/-- A rank that returns past its bundle has had it at the ribbon time that is due when the program goes on (R126, R388). -/
def RClock.noteSkip (k : RClock) (rank : Nat) (next : Bool) : RClock :=
  if next && k.outer.isSome then { k with skip := rank :: k.skip.filter fun p => decide (p ≠ rank) } else k

def State.noteSkip (s : State) (phys : Nat) (next : Bool) : State :=
  s.modClock phys fun r => { r with clock := r.clock.noteSkip (r.tiles.idxOf phys) next }

/-- `eret`: a checkpoint before its bundle whatever its guard, then the return, with rank 0's guard in a ribbon (R385). -/
def execEret (o : FB) (s : State) : Host.Outcome State Fault Refusal :=
  s.runOp { s.ctlGate o.g (s.supChk (s.src.bOk o.b)) (usesRegs o.b.regs []) with ckop := true } fun x =>
    let next := (s.bval o.b).getLsbD 0
    .ok ({ x with tile := x.tile.returned s.src.core next }.noteSkip s.src.phys next)

/-! ### Tile images (R389) -/

/-- A part of an image: its mask bit, its offset and its size. -/
structure Part where
  bit : Nat
  off : Nat
  size : Nat
deriving DecidableEq, Repr

def imageParts : List Part := [⟨0, 0, 0x2000⟩, ⟨1, 0x2000, 0x8000⟩, ⟨2, 0xA000, 0x20000⟩, ⟨3, 0x2A000, 0x40000⟩]

def partsOf (mask : Nat) : List Part := imageParts.filter fun p => mask.testBit p.bit

/-- Whether a scalar register is pending as a token or load. -/
def Tile.regPending (t : Tile) (r : Reg) : Bool := t.tokPending r || t.loadPending r

/-- The pending mask. -/
def Tile.pendMask (t : Tile) : Nat :=
  (List.range 64).foldl (fun a n => if t.regPending (BitVec.ofNat 6 n) then a + 2 ^ n else a) 0

/-- Words of the core part that have a home at offset o, a multiple of 4; none for the offsets the table leaves out. -/
def Tile.coreWord (t : Tile) (o : Nat) : Option Word :=
  let c := t.core
  if o < 0x100 then
    let r : Reg := BitVec.ofNat 6 (o / 4)
    some (if t.regPending r then 0xFFFFFFFF else c.reg r)
  else if o = 0x100 then some c.predsWord
  else if o = 0x104 then some c.flags
  else if o = 0x108 then some c.fpctl
  else if o = 0x10C then some c.lwlim
  else if o = 0x110 then some (nat32 t.pendMask)
  else if o = 0x114 then some (nat32 (t.pendMask / 2 ^ 32))
  else if 0x400 ≤ o ∧ o < 0x800 then some (c.latEl ((o - 0x400) / 4))
  else if 0x800 ≤ o ∧ o < 0x82C then some (c.cfgWord ((o - 0x800) / 4))
  else if o = 0x1000 ∨ (0x1400 ≤ o ∧ o < 0x1C00) then some (c.flint.word (o - 0x1000))
  else none

/-- The bytes that `save` writes for a part; where the image has nothing, undefined bytes. -/
def Tile.partBytes (t : Tile) (seed : Nat) (p : Part) : List Byte :=
  match p.bit with
  | 0 => (List.range (p.size / 4)).flatMap fun i =>
      match t.coreWord (4 * i) with
      | some w => bytesOfNat 4 w.toNat
      | none => (List.range 4).map fun k => Config.freeByte seed (4 * i + k)
  | 1 => t.wb0.read 0 0x4000 ++ t.wb1.read 0 0x4000
  | 2 => t.win.read 0x180000 p.size
  | _ => t.win.read 0x1A0000 p.size

/-- Whether a part holds a parity error, which `save` finds (R389). -/
def Tile.partBad (t : Tile) (p : Part) : Bool :=
  match p.bit with
  | 0 => !t.latBad.isEmpty || !t.flintBad.isEmpty
  | 1 => !t.wb0.bad.isEmpty || !t.wb1.bad.isEmpty
  | 2 => (t.win.badWord 0x180000 p.size).isSome
  | _ => (t.win.badWord 0x1A0000 p.size).isSome

/-- A part as one access within the own scratchpad or granted near store. -/
def State.partOk (s : State) (a : Nat) (write : Bool) (p : Part) : Bool :=
  let home := match placeOf s.src.ltile (a + p.off) with
    | .win l off => decide (l = s.src.ltile) && decide (regionOf off = .spad)
    | .near _ => true
    | .hole => false
  home && s.accessOk s.src s.src.core.sup (a + p.off) p.size write

/-- The checks of an image access, in the order of R389 and R178. -/
def State.imageBody (s : State) (a mask : Nat) (write : Bool) (go : List Part → Body) : Body :=
  let ps := partsOf mask
  if ps.isEmpty then .trap .illegalOperand s.iss.raw 0 0
  else if a % 64 ≠ 0 then .trap .misaligned (nat32 a) 0 0
  else match ps.find? fun p => !s.partOk a write p with
    | some p => .trap .accessFault (nat32 (a + p.off)) 0 0
    | none => go ps

/-- Something that the bundle does once all its operations have executed. -/
def State.addLate (s : State) (x : Late) : State := { s with iss := { s.iss with late := s.iss.late ++ [x] } }

/-- Bytes written by `save` to the own scratchpad, or to the near store once the bundle has issued (R48). -/
def State.putImage (s : State) (a : Nat) (bs : List Byte) : State :=
  match s.tile.ownOff a with
  | some off => { s with tile := s.tile.ownWrite off bs }
  | none => s.addLate (.near a bs)

def State.imageGate (s : State) (o : FAB) : Gate :=
  { s.gate o.g (s.supChk (s.src.regOk o.a && s.src.bOk o.b)) (usesRegs (o.a :: o.b.regs) []) with ckop := true }

/-- `save` (R389): waits as R82 requires, then writes the parts. -/
def execSave (o : FAB) (s : State) : Host.Outcome State Fault Refusal :=
  s.runOp { s.imageGate o with wait := s.src.flagsBusy } fun x =>
    let a := (s.rd o.a).toNat
    s.imageBody a ((s.bval o.b).toNat % 16) true fun ps =>
      if ps.any s.src.partBad then .ok { x with tile := x.tile.dataError }
      else
        let y := ps.foldl (fun y p => y.putImage (a + p.off) (s.src.partBytes s.free p)) x
        .ok { y with free := y.free + 1 }

/-- A word of the core part restored; a register keeps what it awaits, s0 and p0 are not written. -/
def State.setCoreWord (s : State) (o : Nat) (w : Word) : State :=
  let t := s.tile
  let put (c : Core) : State := { s with tile := { t with core := c } }
  if o < 0x100 then
    let r : Reg := BitVec.ofNat 6 (o / 4)
    if s.src.regPending r then s else { s with tile := { t.kill [.sreg r] with core := (t.kill [.sreg r]).core.setReg r w } }
  else if o = 0x100 then s.writeCr 3 w
  else if o = 0x104 then s.writeCr 1 w
  else if o = 0x108 then s.writeCr 2 w
  else if o = 0x10C then s.writeCr 6 w
  else if 0x400 ≤ o ∧ o < 0x800 then
    let d : Dst := .lat ((o - 0x400) / 4)
    { s with tile := (t.kill [d]).putAll [(d, w)] }
  else if 0x800 ≤ o ∧ o < 0x82C then put (t.core.setCfgWord ((o - 0x800) / 4) w)
  else if o = 0x1000 ∨ (0x1400 ≤ o ∧ o < 0x1C00) then
    { s with tile := { t with core := { t.core with flint := t.core.flint.setWord (o - 0x1000) w } }.wroteFlint (o + 0x1000) 4 }
  else s

/-- A part restored from its bytes. -/
def State.setPart (s : State) (p : Part) (bs : List Byte) : State :=
  let t := s.tile
  match p.bit with
  | 0 => (List.range (p.size / 4)).foldl (fun s i => s.setCoreWord (4 * i) (nat32 (natOfBytes ((bs.drop (4 * i)).take 4)))) s
  | 1 => { s with tile := { t with wb0 := t.wb0.write 0 (bs.take 0x4000), wb1 := t.wb1.write 0 (bs.drop 0x4000) } }
  | 2 =>
    let t := t.saveUnits 0x180000 p.size
    { s with tile := { t with win := t.win.write 0x180000 bs } }
  | _ => { s with tile := { t with win := t.win.write 0x1A0000 bs } }

/-- `rest` (R389): the state for the next bundle. -/
def execRest (o : FAB) (s : State) : Host.Outcome State Fault Refusal :=
  s.runOp (s.imageGate o) fun x =>
    let a := (s.rd o.a).toNat
    s.imageBody a ((s.bval o.b).toNat % 16) false fun ps =>
      let as := ps.flatMap fun p => (List.range p.size).map fun i => a + p.off + i
      s.eccOutcome (s.eccOf as) a (.ok (ps.foldl (fun y p => y.setPart p (s.seen s.src (a + p.off) p.size)) x))

/-! ### sev (R390) -/

/-- `sev`: the record and the end of the context come at release. -/
def execSev (o : FAB) (s : State) : Host.Outcome State Fault Refusal :=
  s.runOp (s.gate o.g (s.supChk (s.src.pairOk o.a && s.src.bOk o.b)) (usesRegs (o.a :: pairHi o.a :: o.b.regs) [])) fun x =>
    let b := s.bval o.b
    let code := b.toNat % 256
    if code < 0x80 then .trap .illegalOperand s.iss.raw 0 0
    else
      let c := s.src.core
      .ok (x.hold (.sev code (b.getLsbD 8) [s.rd o.a, s.rd (pairHi o.a), nat32 c.epc.toNat, c.ecause]))

/-! ### domw (R391, R392) -/

/-- The code of a request (R391): 3, then 1, then 2. -/
def State.domwCode (s : State) (c : Ctx) (base len rights : Nat) : Nat :=
  if base % 65536 ≠ 0 ∨ len % 65536 ≠ 0 ∨ (len = 0 ∧ rights ≠ 0) then 3
  else if !covered c.allocRanges base (base + len) then 1
  else if (reserveLo < base + len ∧ base < 2 ^ 32 ∧ 0 < len) ∨ s.meetsShale base (base + len) = true then 2
  else 0

/-- `domw` (R391): the entry is set once the bundle has issued, and no operation of the bundle sees it (R48). -/
def execDomw (o : FS) (s : State) : Host.Outcome State Fault Refusal :=
  s.runOp { s.gate o.g (s.supChk (s.src.regOk o.d && s.src.pairOk o.a && s.src.bOk o.b))
      (usesRegs (o.a :: pairHi o.a :: o.b.regs) [o.d]) with ckop := true } fun x =>
    let b := (s.bval o.b).toNat
    let e := b % 16
    let rights := b / 16 % 4
    let base := (s.rd o.a).toNat
    let len := (s.rd (pairHi o.a)).toNat
    if rights = 2 then .trap .illegalOperand s.iss.raw 0 0
    else s.onceOnly x o.d (
      match s.ctx? s.src.ctx with
      | none => .ok (x.endWait o.d 1)
      | some c =>
        let code := s.domwCode c base len rights
        let x := if code = 0 then
            x.addLate (.grant s.src.ctx e base len rights)
          else x
        .ok (x.endWait o.d (nat32 code)))

end Sys2Proof.Machine
end

