-- ==== Sys2Proof/Machine/Vector.lean ====
section
/-! DEFINITION. The vector instructions (R147 to R173). -/

namespace Sys2Proof.Machine

/-! ### Floating-point arithmetic (R155 to R158) -/

/-- D.e := f(type, A.e, B.e) over the float elements that T selects. -/
def vfl2 (t : BitVec 2) (f : FFmt → Nat → Nat → FRes) (a b : Vec) : Vec × Word :=
  let l := floatLayout t
  l.mapRes fun j => f (floatOf t) (l.get a j) (l.get b j)

def vfl1 (t : BitVec 2) (f : FFmt → Nat → FRes) (a : Vec) : Vec × Word :=
  let l := floatLayout t
  l.mapRes fun j => f (floatOf t) (l.get a j)

def vfl3 (t : BitVec 2) (f : FFmt → Nat → Nat → Nat → FRes) (d a b : Vec) : Vec × Word :=
  let l := floatLayout t
  l.mapRes fun j => f (floatOf t) (l.get d j) (l.get a j) (l.get b j)

def execVadd (o : FV) (s : State) : Host.Outcome State Fault Refusal :=
  s.vec2 o.g o.d o.a o.b 4 (vfl2 o.t fun f => f.add s.rm)
def execVsub (o : FV) (s : State) : Host.Outcome State Fault Refusal :=
  s.vec2 o.g o.d o.a o.b 4 (vfl2 o.t fun f => f.sub s.rm)
def execVmul (o : FV) (s : State) : Host.Outcome State Fault Refusal :=
  s.vec2 o.g o.d o.a o.b 4 (vfl2 o.t fun f => f.mul s.rm)
def execVmac (o : FV) (s : State) : Host.Outcome State Fault Refusal :=
  s.vec3 o.g o.d o.a o.b 4 (vfl3 o.t fun f => f.fma s.rm)
def execVmin (o : FV) (s : State) : Host.Outcome State Fault Refusal :=
  s.vec2 o.g o.d o.a o.b 4 (vfl2 o.t fun f => f.minmax false)
def execVmax (o : FV) (s : State) : Host.Outcome State Fault Refusal :=
  s.vec2 o.g o.d o.a o.b 4 (vfl2 o.t fun f => f.minmax true)
def execVabs (o : FVT) (s : State) : Host.Outcome State Fault Refusal :=
  s.vec1 o.g o.d o.a 4 (vfl1 o.t fun f => f.abs)
def execVround (o : FVT) (s : State) : Host.Outcome State Fault Refusal :=
  s.vec1 o.g o.d o.a 4 (vfl1 o.t fun f => f.roundIntegral s.rm)

def execVexp2 (o : FVA) (s : State) : Host.Outcome State Fault Refusal :=
  s.vec1 o.g o.d o.a 10 (vfl1 0 fun _ => fexp2 s.rm)
def execVrcp (o : FVA) (s : State) : Host.Outcome State Fault Refusal :=
  s.vec1 o.g o.d o.a 10 (vfl1 0 fun _ => frcp s.rm)
def execVrsqrt (o : FVA) (s : State) : Host.Outcome State Fault Refusal :=
  s.vec1 o.g o.d o.a 10 (vfl1 0 fun _ => frsqrt s.rm)

/-- All ones of the element's width where the relation holds. -/
def maskOf (w : Nat) (b : Bool) : Nat := if b then 2 ^ w - 1 else 0

/-- A.e < B.e (R158). -/
def fclt (f : FFmt) (x y : Nat) : FRes :=
  let a := f.decode x
  let b := f.decode y
  let nan := a.isNan || b.isNan
  ⟨maskOf f.width (!nan && decide (f.ord x < f.ord y)),
    flagIf nan fNV ||| flagIf (a.nonFinite || b.nonFinite) fNF⟩

/-- A.e = B.e (R158). -/
def fceq (f : FFmt) (x y : Nat) : FRes :=
  let a := f.decode x
  let b := f.decode y
  let nan := a.isNan || b.isNan
  ⟨maskOf f.width (!nan && decide (f.ord x = f.ord y)),
    flagIf (a.isSnan || b.isSnan) fNV ||| flagIf (a.nonFinite || b.nonFinite) fNF⟩

def execVclt (o : FV) (s : State) : Host.Outcome State Fault Refusal := s.vec2 o.g o.d o.a o.b 4 (vfl2 o.t fclt)
def execVceq (o : FV) (s : State) : Host.Outcome State Fault Refusal := s.vec2 o.g o.d o.a o.b 4 (vfl2 o.t fceq)

/-! ### Integers, bits and select (R159 to R162) -/

/-- `sat(n, w)` as an element, with SAT. -/
def satRes (w : Nat) (n : Int) : FRes :=
  let r := satI w n
  ⟨lowBits w r.1, r.2⟩

/-- D.e := f(w, A.e, B.e) over the integer elements that T selects. -/
def vin2 (t : BitVec 2) (f : Nat → Nat → Nat → FRes) (a b : Vec) : Vec × Word :=
  let w := widthOf t
  (intLayout t).mapRes fun j => f w (elemN w a j) (elemN w b j)

/-- The same on signed values, saturating. -/
def vsat2 (t : BitVec 2) (f : Int → Int → Int) : Vec → Vec → Vec × Word :=
  vin2 t fun w x y => satRes w (f (sextN w x) (sextN w y))

def execViadd (o : FV) (s : State) : Host.Outcome State Fault Refusal := s.vec2 o.g o.d o.a o.b 2 (vsat2 o.t (· + ·))
def execVisub (o : FV) (s : State) : Host.Outcome State Fault Refusal := s.vec2 o.g o.d o.a o.b 2 (vsat2 o.t (· - ·))
def execVimul (o : FV) (s : State) : Host.Outcome State Fault Refusal := s.vec2 o.g o.d o.a o.b 2 (vsat2 o.t (· * ·))

def vimacVec (t : BitVec 2) (d a b : Vec) : Vec × Word :=
  let w := widthOf t
  (intLayout t).mapRes fun j =>
    satRes w (sextN w (elemN w d j) + sextN w (elemN w a j) * sextN w (elemN w b j))

def execVimac (o : FV) (s : State) : Host.Outcome State Fault Refusal := s.vec3 o.g o.d o.a o.b 2 (vimacVec o.t)
def execVimin (o : FV) (s : State) : Host.Outcome State Fault Refusal :=
  s.vec2 o.g o.d o.a o.b 2 (vsat2 o.t fun x y => min x y)
def execVimax (o : FV) (s : State) : Host.Outcome State Fault Refusal :=
  s.vec2 o.g o.d o.a o.b 2 (vsat2 o.t fun x y => max x y)

/-- All 512 bits at once (R160). -/
def vbits (f : Word → Word → Word) (a b : Vec) : Vec × Word := (Vector.ofFn fun i => f (lane a i.val) (lane b i.val), 0)

def execVand (o : FV0) (s : State) : Host.Outcome State Fault Refusal := s.vec2 o.g o.d o.a o.b 2 (vbits (· &&& ·))
def execVor (o : FV0) (s : State) : Host.Outcome State Fault Refusal := s.vec2 o.g o.d o.a o.b 2 (vbits (· ||| ·))
def execVxor (o : FV0) (s : State) : Host.Outcome State Fault Refusal := s.vec2 o.g o.d o.a o.b 2 (vbits (· ^^^ ·))

def vselVec (d a b : Vec) : Vec × Word :=
  (Vector.ofFn fun i => (lane d i.val &&& lane a i.val) ||| (~~~lane d i.val &&& lane b i.val), 0)

def execVsel (o : FV0) (s : State) : Host.Outcome State Fault Refusal := s.vec3 o.g o.d o.a o.b 2 vselVec

/-- Shifts of one element (R161). -/
def eshl (w x n : Nat) : FRes := ⟨if n < w then x * 2 ^ n % 2 ^ w else 0, 0⟩
def eshr (w x n : Nat) : FRes := ⟨if n < w then x / 2 ^ n else 0, 0⟩
def esra (w x n : Nat) : FRes := ⟨lowBits w (sextN w x / 2 ^ (if n < w then n else w)), 0⟩

def execVshl (o : FV) (s : State) : Host.Outcome State Fault Refusal := s.vec2 o.g o.d o.a o.b 2 (vin2 o.t eshl)
def execVshr (o : FV) (s : State) : Host.Outcome State Fault Refusal := s.vec2 o.g o.d o.a o.b 2 (vin2 o.t eshr)
def execVsra (o : FV) (s : State) : Host.Outcome State Fault Refusal := s.vec2 o.g o.d o.a o.b 2 (vin2 o.t esra)

def execVilt (o : FV) (s : State) : Host.Outcome State Fault Refusal :=
  s.vec2 o.g o.d o.a o.b 2 (vin2 o.t fun w x y => ⟨maskOf w (decide (sextN w x < sextN w y)), 0⟩)
def execVieq (o : FV) (s : State) : Host.Outcome State Fault Refusal :=
  s.vec2 o.g o.d o.a o.b 2 (vin2 o.t fun w x y => ⟨maskOf w (decide (x = y)), 0⟩)

/-! ### Reductions and scans (R163 to R165) -/

/-- One level of the pairwise tree: neighbours added, flags collected (R163). -/
def pairSums (rm : RMode) : List Nat → List Nat × Word
  | x :: y :: l =>
    let r := FFmt.f32.add rm x y
    let q := pairSums rm l
    (r.bits :: q.1, r.fl ||| q.2)
  | _ => ([], 0)

/-- `depth` levels of the tree. -/
def treeSum (rm : RMode) : Nat → List Nat → Word → Nat × Word
  | 0, l, fl => (l.headD 0, fl)
  | n + 1, l, fl =>
    let r := pairSums rm l
    treeSum rm n r.1 (fl ||| r.2)

def laneNats (a : Vec) : List Nat := (List.range 16).map fun i => (lane a i).toNat

def vredsumVec (rm : RMode) (a : Vec) : Vec × Word :=
  let r := treeSum rm 4 (laneNats a) 0
  (Vector.replicate 16 (nat32 r.1), r.2)

def execVredsum (o : FVA) (s : State) : Host.Outcome State Fault Refusal := s.vec1 o.g o.d o.a 8 (vredsumVec s.rm)

def vredmaxVec (a : Vec) : Vec × Word :=
  let r := ((laneNats a).drop 1).foldl (fun (x : FRes) y =>
    let m := FFmt.f32.minmax true x.bits y
    ⟨m.bits, x.fl ||| m.fl⟩) ⟨(lane a 0).toNat, 0⟩
  (Vector.replicate 16 (nat32 r.bits), r.fl)

def execVredmax (o : FVA) (s : State) : Host.Outcome State Fault Refusal := s.vec1 o.g o.d o.a 8 vredmaxVec

/-- A value on its own: a NaN becomes the canonical NaN (R165). -/
def f32Own (x : Nat) : FRes :=
  match FFmt.f32.decode x with
  | .nan s => FFmt.f32.nanRes s
  | .inf _ => ⟨x, fNF⟩
  | .fin _ _ _ => ⟨x, 0⟩

/-- Running values of a step from a first one, with the flags of every step. -/
def runSums (f : Nat → Nat → FRes) : Nat → List Nat → Word → List Nat × Word
  | _, [], fl => ([], fl)
  | acc, x :: l, fl =>
    let r := f acc x
    let q := runSums f r.bits l (fl ||| r.fl)
    (r.bits :: q.1, q.2)

/-- The inclusive sums (R165). -/
def scanIncl (rm : RMode) (fp : Bool) (a : Vec) : List Nat × Word :=
  if fp then
    let r := f32Own (lane a 0).toNat
    let q := runSums (fun x y => FFmt.f32.add rm x y) r.bits ((laneNats a).drop 1) r.fl
    (r.bits :: q.1, q.2)
  else runSums (fun x y => satRes 32 (sextN 32 x + sextN 32 y)) 0 (laneNats a) 0

def vscanVec (rm : RMode) (k : BitVec 6) (a : Vec) : Vec × Word :=
  let r := scanIncl rm (k.getLsbD 1) a
  let l := if k.getLsbD 0 then 0 :: r.1 else r.1
  (Vector.ofFn fun i => nat32 (l.getD i.val 0), r.2)

/-- `vscan` (R165). -/
def execVscan (o : FVK) (s : State) : Host.Outcome State Fault Refusal := s.vec1 o.g o.d o.a 6 (vscanVec s.rm o.k)

/-! ### Permutes and the scalar ports (R166 to R168) -/

def vpermVec (t : BitVec 2) (a b : Vec) : Vec :=
  let w := widthOf t
  vecOfElems w fun j => elemN w a (elemN w b j % (512 / w))

def execVperm (o : FV) (s : State) : Host.Outcome State Fault Refusal :=
  s.vec2 o.g o.d o.a o.b 3 fun a b => (vpermVec o.t a b, 0)

/-- `vbcst` (R167). -/
def execVbcst (o : FVB) (s : State) : Host.Outcome State Fault Refusal :=
  s.runOp (s.gate o.g (operandCheck (s.src.vdOk o.d && s.src.regOk o.a)) ⟨[o.a], [], [], [o.d]⟩) fun x =>
    .ok (x.setV 2 o.d (vecOfElems (widthOf o.t) fun _ => (s.rd o.a).toNat) 0)

/-- `vext` (R167). -/
def execVext (o : FVE) (s : State) : Host.Outcome State Fault Refusal :=
  s.runOp (s.gate o.g (operandCheck (s.src.regOk o.d && s.src.vOk o.a)) ⟨[], [o.a], [o.d], []⟩) fun x =>
    .ok ((x.parity [o.a]).deliver 2 [(.sreg o.d, nat32 (elemN (widthOf o.t) (s.rdV o.a) o.i.toNat))] 0)

/-- A word with its element of w bits at position p replaced. -/
def setElem (w : Nat) (x : Word) (p v : Nat) : Word :=
  let mask := nat32 ((2 ^ w - 1) * 2 ^ (p * w))
  (x &&& ~~~mask) ||| (nat32 (v % 2 ^ w * 2 ^ (p * w)))

/-- `vins`: only the lane that holds the element is written (R167). -/
def execVins (o : FVN) (s : State) : Host.Outcome State Fault Refusal :=
  s.runOp (s.gate o.g (operandCheck (s.src.vrwOk o.d && s.src.regOk o.a)) ⟨[o.a], [o.d], [], [o.d]⟩) fun x =>
    let w := widthOf o.t
    let k := o.i.toNat / (32 / w)
    let v := setElem w (lane (s.rdV o.d) k) (o.i.toNat % (32 / w)) (s.rd o.a).toNat
    .ok ((x.parity [o.d]).deliver 2 [(.lat (o.d.index k), v)] 0)

/-- `vmov`: bit for bit (R168). -/
def execVmov (o : FVA) (s : State) : Host.Outcome State Fault Refusal := s.vec1 o.g o.d o.a 2 fun a => (a, 0)

/-! ### Top-k (R169, R170) -/

/-- The key of a lane: its place in the order of encodings, every NaN below all numbers. -/
def topKey (x : Nat) : Int := if (FFmt.f32.decode x).isNan then -(2 ^ 40) else FFmt.f32.key x

/-- Whether lane i ranks higher than lane j. -/
def outranks (a : Vec) (i j : Nat) : Bool :=
  let x := topKey (lane a i).toNat
  let y := topKey (lane a j).toNat
  decide (y < x) || (decide (x = y) && decide (i < j))

/-- The rank of a lane: how many outrank it. -/
def rankOf (a : Vec) (i : Nat) : Nat := ((List.range 16).filter fun j => outranks a j i).length

/-- The lane of a rank. -/
def laneOfRank (a : Vec) (r : Nat) : Nat := ((List.range 16).find? fun i => rankOf a i = r).getD 0

/-- NF for an infinity or a NaN in any lane, NV for a signalling NaN. -/
def topFlags (a : Vec) : Word :=
  let vs := (laneNats a).map FFmt.f32.decode
  flagIf (vs.any FVal.nonFinite) fNF ||| flagIf (vs.any FVal.isSnan) fNV

def vtopkVec (k : Nat) (a : Vec) : Vec × Word :=
  (Vector.ofFn fun i =>
    if i.val < k then
      let x := (lane a (laneOfRank a i.val)).toNat
      if (FFmt.f32.decode x).isNan then nat32 FFmt.f32.nan else nat32 x
    else 0xFF800000, topFlags a)

def vtopkIVec (k : Nat) (a : Vec) : Vec × Word :=
  (Vector.ofFn fun i => if i.val < k then nat32 (laneOfRank a i.val) else 0xFFFFFFFF, topFlags a)

def execVtopk (o : FVK) (s : State) : Host.Outcome State Fault Refusal := s.vec1 o.g o.d o.a 6 (vtopkVec o.k.toNat)
def execVtopkI (o : FVK) (s : State) : Host.Outcome State Fault Refusal := s.vec1 o.g o.d o.a 6 (vtopkIVec o.k.toNat)

/-! ### Classes, exponents and checks (R171 to R173) -/

/-- Whether an encoding is a subnormal number. -/
def FFmt.isSub (f : FFmt) (x : Nat) : Bool := decide ((x / 2 ^ f.fbits) % 2 ^ f.ebits = 0)

/-- The class bit of an encoding (R171). -/
def fclass (f : FFmt) (x : Nat) : FRes :=
  match f.decode x with
  | .nan sg => ⟨if sg then 2 ^ 8 else 2 ^ 9, fNF ||| flagIf sg fNV⟩
  | .inf neg => ⟨if neg then 2 ^ 0 else 2 ^ 7, fNF⟩
  | .fin neg m _ =>
    let k := if m = 0 then (if neg then 3 else 4)
      else if f.isSub x then (if neg then 2 else 5) else if neg then 1 else 6
    ⟨2 ^ k, 0⟩

def execVcls (o : FVT) (s : State) : Host.Outcome State Fault Refusal := s.vec1 o.g o.d o.a 4 (vfl1 o.t fclass)

/-- ⌊log2 |a|⌋ as a signed integer of the element's width (R172). -/
def fexpo (f : FFmt) (x : Nat) : FRes :=
  match f.decode x with
  | .fin _ m e => ⟨if m = 0 then 2 ^ (f.width - 1) else lowBits f.width (e + bitLen m - 1), 0⟩
  | _ => ⟨2 ^ (f.width - 1) - 1, fNV ||| fNF⟩

def execVsclf (o : FVT) (s : State) : Host.Outcome State Fault Refusal := s.vec1 o.g o.d o.a 4 (vfl1 o.t fexpo)

/-- `vchk`: a difference is a data error (R173, R142). -/
def execVchk (o : FVC) (s : State) : Host.Outcome State Fault Refusal :=
  s.runOp (s.gate o.g (operandCheck (s.src.vOk o.a && s.src.vOk o.b)) (usesVecs [o.a, o.b] [])) fun x =>
    let x := x.parity [o.a, o.b]
    .ok (if s.rdV o.a = s.rdV o.b then x else { x with tile := x.tile.dataError })

end Sys2Proof.Machine
end

