-- ==== Sys2Proof/Machine/TileEvents.lean ====
section
/-! DEFINITION. The events of the focused tile: results and loads landing, notifications, checkpoints, recovery, jobs and
their page walks, streams, releases and X-pipe operations. An event that cannot happen in a state leaves it as it is. -/

namespace Sys2Proof.Machine

/-- After something a halting task waits for: the task may now end (R133). -/
def State.settled (s : State) : State := s.finishHalt s.tile.phys

/-! ### Results (R51, R185, R188) -/

/-- RESULT_LAND: the i-th result on its way. -/
def execResultLand (i : Nat) (s : State) : Host.Outcome State Fault Refusal := .next { s with tile := s.tile.land i }

/-- LOAD_RETURN: the i-th outstanding load or atomic. -/
def execLoadReturn (i : Nat) (s : State) : Host.Outcome State Fault Refusal := .next (s.returnLoad i)

/-! ### Notifications (R378, R382, R384) -/

/-- Whether a tile delivers a notification: enabled in cr.ntmask, with a handler to enter. -/
def Tile.delivers (t : Tile) (n : Note) : Bool :=
  decide (t.tvec ≠ noHandler) &&
  match n with
  | .retired _ => t.core.ntmask.getLsbD 1
  | .preempt => t.core.ntmask.getLsbD 0

/-- Whether a tile can be given a notification: outside supervisor mode, or, in a launch with SUP = 1, one that was held at its
latest `eret` (R378). -/
def Tile.notesOpen (t : Tile) : Bool := !t.core.sup || (!t.core.inHandler && decide (t.core.noteDue ≠ 0))

def Note.cause : Note → Cause
  | .retired _ => .tileRetired
  | .preempt => .preempt

def Note.info : Note → Word
  | .retired p => nat32 (p % 512)
  | .preempt => 1

/-- NOTIFICATION: the oldest held notification is taken between bundles; one that is not enabled was only recorded. A data error or
a poisoned register goes first, and the notification stays held (R146, R280). -/
def execNotification (s : State) : Host.Outcome State Fault Refusal :=
  match s.tile.notes with
  | [] => .next s
  | n :: rest =>
    if s.tile.stat ≠ .running ∨ s.tile.notesOpen = false ∨ s.tile.inRerun = true ∨ s.errorPending = true ∨
        (s.ranks.any fun p => (s.getTile p).waitsEngine) = true then .next s
    else
      let t := s.tile
      let s1 : State := { s with tile := { t with notes := rest, core := { t.core with noteDue := t.core.noteDue - 1 } } }
      if t.delivers n then
        let first := s.drain.errorPending || s.drain.rankPoison.isSome
        .next ((if first then s else s1).enterTrap n.cause t.core.pc n.info 0 0 (s.lengthAt t t.core.pc.toNat) 0)
      else .next s1

/-! ### Checkpoints and recovery (R137, R142) -/

/-- CHECKPOINT. -/
def execCheckpoint (s : State) : Host.Outcome State Fault Refusal := .next s.checkpointPoint

/-- RECOVERY_RESTORE. -/
def execRecoveryRestore (s : State) : Host.Outcome State Fault Refusal :=
  .next (if s.errorPending || s.tile.recov.phase = .restoreB then s.recoveryRestore else s)

/-- RERUN_END. -/
def execRerunEnd (s : State) : Host.Outcome State Fault Refusal := .next s.rerunEnd

/-! ### Jobs (R232 to R241, R319, R351) -/

/-- Whether a released action is a store, or keeps later writes waiting: a step of a barrier object or of a counter does neither for a
job (R233, R248). -/
def Held.holdsJobs : Held → Bool
  | .stf _ _ _ => true
  | .phaseRel _ => true
  | h => h.isWrite

/-- Whether writes of the tile that a job must see, or follow, are still to be made. -/
def Tile.writesPending (t : Tile) : Bool := t.released.any Held.holdsJobs

/-- Whether a job is a remote atomic that returns its old value, which follows no earlier `phase.rel` (R258, R353). -/
def Tile.returns (t : Tile) (j : Job) : Bool := t.loads.any fun l => decide (l.src = .xold j.sq)

/-- A waiting job whose edges have all cleared: it runs, unless the list that it has only now been able to read gives it others
(R216). -/
def State.startJob (s : State) (j : Job) : State :=
  let j := if j.scan then s.tile.scanJob j else j
  { s with tile := s.tile.setJob (if (s.tile.edgesLeft j).isEmpty then { j with state := .running } else j) }

/-- JOB_START: a waiting job whose edges have all cleared starts to run. The reads of a job, a post or a remote store see every
earlier store of the tile, and a remote store or plain remote atomic follows an earlier `phase.rel` (R233, R258, R322, R352). -/
def execJobStart (slot : Nat) (s : State) : Host.Outcome State Fault Refusal :=
  match s.tile.job? slot with
  | none => .next s
  | some j =>
    if j.state = .waiting ∧ (s.tile.edgesLeft j).isEmpty = true ∧ (s.tile.writesPending = false ∨ s.tile.returns j = true) then
      .next (s.startJob j)
    else .next s

/-- The capacity of an L1 and of an L2 TLB (R236). -/
def l1Cap : Nat := 64
def l2Cap : Nat := 8192

/-- A walked leaf enters the job's translations and the TLBs of its tile and cluster. -/
def State.installWalk (s : State) (j : Job) (e : TlbEntry) : State :=
  let t := s.tile
  let cl := t.phys / 16
  let mine := (s.dev.l2tlb.filter fun p => decide (p.1 = cl)).map Prod.snd
  { s with
    tile := { t.setJob { j with xl := e :: j.xl } with tlb := installTlb l1Cap t.tlb e }
    dev := { s.dev with
      l2tlb := ((installTlb l2Cap mine e).map fun e => (cl, e)) ++ s.dev.l2tlb.filter fun p => decide (p.1 ≠ cl) } }

/-- A walk ends: with a leaf, or with none, which drops a prefetch and parks any other job (R230, R240), or at an entry that cannot be
corrected (R428). -/
def State.endWalk (s : State) (j : Job) (va : Nat) (wr : Bool) : State :=
  if s.walkBad s.tile.pasid.toNat va then { s with tile := s.tile.setJob { j with status := 4 } }
  else match s.walk s.tile.pasid.toNat va with
  | some e => s.installWalk j e
  | none => if j.kind = .cpf then { s with tile := s.tile.setJob { j with status := 3 } } else s.parkJob s.tile.phys j va wr

/-- PAGE_WALK_COMPLETE: the walk for the first address of the job in a slot that no TLB serves. -/
def execPageWalkComplete (slot : Nat) (s : State) : Host.Outcome State Fault Refusal :=
  match s.tile.job? slot with
  | none => .next s
  | some j =>
    if j.state = .running ∧ j.status = 0 then
      match s.jobMiss s.tile j with
      | none => .next s
      | some (va, wr) => .next (s.applied (.walker (s.tile.phys / 16)) (·.endWalk j va wr))
    else .next s

/-- A pair is declared unreachable, with event 0x33: its device, its port, the operations that end (R344, R347). -/
def State.declareDown (s : State) (dev ended : Nat) : State :=
  let p := s.pair dev
  if p.unreachable then s
  else (s.setPair { p with unreachable := true, unacked := [], resend := [], unsent := [] }).portEvent p.port 0x33
    [nat32 (dev % 4096 + p.port % 128 * 2 ^ 16), nat32 ended]

/-- The status that a running job is about to end with for want of a pair, if it is that (R241, R344, R351). -/
def State.endsUnreachable (s : State) (t : Tile) (j : Job) : Bool :=
  decide (j.status = 0) && decide (j.phase = 0) &&
  match j.kind, j.card with
  | .post _, _ => false
  | .xst _ _ _ _, _ => decide (s.fabricStatus t j = 8)
  | .xatom _ _ _ _, _ => decide (s.fabricStatus t j = 8)
  | .cfence, some l => decide (s.fenceEnd t j (Card.ofWords l) = 8) && (s.counterDev t j (Card.ofWords l)).isSome
  | .cfence, none => false
  | _, some l => decide (s.jobStatus t j (Card.ofWords l) = 8)
  | _, none => false

/-- A pair with a device that the schedule does not name is unreachable from its first operation, which ends with status 8
(R344). -/
def State.noteDown (s : State) (t : Tile) (j : Job) : State :=
  if s.endsUnreachable t j then
    match ((t.jobTouches j).filterMap fun p => s.devOf t j p.1).find? fun d => !s.reachable d with
    | some d => s.declareDown d 1
    | none => s
  else s

/-- A running copy job with its card goes on (R234). -/
def State.completeCopy (s : State) (phys : Nat) (j : Job) (c : Card) : State :=
  let t := s.getTile phys
  match s.copyEnd t j c with
  | .wait => s
  | .send s' k =>
    let s1 := s'.modTile phys (·.setJob k)
    if k.phase = 2 ∧ k.status = 0 then s.spoilCopy s1 t j else s1
  | .done s' 0 => if j.phase = 2 then s'.freeJob phys j 0 else s.spoilCopy (s'.freeJob phys j 0) t j
  | .done s' st => s'.freeJob phys j st

/-- The end of a running job by its kind. -/
def State.completeJob (s : State) (j : Job) : State :=
  let phys := s.tile.phys
  match j.kind with
  | .post _ => if j.status ≠ 0 then s.freeJob phys j j.status else s
  | .cfence => s.completeFence phys j
  | .xst dva fva src len =>
    if j.status ≠ 0 then (if j.phase = 0 then s else s.undefVas s.tile j ((List.range len.toNat).map (dva + ·))).freeJob phys j j.status
    else s.spoilXst (s.completeXst phys j dva fva src len) s.tile j
  | .xatom op va v e =>
    if j.status ≠ 0 then
      (if j.phase = 0 then s else s.undefVas s.tile j ((List.range 4).map (va + ·))).endAtomic phys j 0 j.status
    else s.completeXatom phys j op va v e
  | _ =>
    match j.card with
    | none => s.freeJob phys j j.status
    | some l => s.completeCopy phys j (Card.ofWords l)

/-- JOB_COMPLETE: a running job with every address translated reaches DONE. -/
def execJobComplete (slot : Nat) (s : State) : Host.Outcome State Fault Refusal :=
  match s.tile.job? slot with
  | none => .next s
  | some j =>
    if j.state = .running ∧ (j.status ≠ 0 ∨ (s.jobMiss s.tile j).isNone = true) then
      .next ((s.noteDown s.tile j).completeJob j).settled
    else .next s

/-! ### Migration (R242, R243) -/

/-- MIGRATION: nothing where the page is not mapped as named, or where its new place cannot hold it. -/
def execMigration (m : MigrateArgs) (s : State) : Host.Outcome State Fault Refusal :=
  .next (match s.walk m.pasid m.va with
    | some e =>
      if e.t = m.t ∧ (s.migrate m.pasid m.va m.cls m.dev m.base).isSome = true then
        s.applied .migration fun s => (s.migrate m.pasid m.va m.cls m.dev m.base).getD s
      else s
    | none => s)

/-! ### Streams (R195, R205) -/

/-- STREAM_FETCH: the next vector of an input port arrives; it sees every earlier store of the tile, stream vectors among
them (R205). -/
def execStreamFetch (q : Nat) (s : State) : Host.Outcome State Fault Refusal :=
  let p := s.tile.core.port q
  let k := p.pos + p.fifo.length
  if p.bound && !p.out && decide (p.fifo.length < 8) && decide (k < p.total) && !s.tile.mq.any XOp.isTst &&
      !s.tile.portLoading && !((List.range 12).any fun r => s.tile.outPending r) then
    let a := p.addrOf k
    let bs := (List.range 64).map fun i => ({ s with src := s.tile }).streamByte (a + i)
    .next { s with
      tile := { s.tile with core := s.tile.core.setPort q { p with fifo := p.fifo ++ [vecOfBytes bs] } }
      free := s.free + 1 }
  else .next s

/-- STREAM_VECTOR_LAND: the oldest vector of an output port. -/
def execStreamVectorLand (q : Nat) (s : State) : Host.Outcome State Fault Refusal :=
  .next (if s.tile.outPending q then { s with tile := s.tile.landVector q }.settled else s)

/-- STREAM_COMPLETION_ARRIVAL: the i-th released action. -/
def execStreamCompletionArrival (i : Nat) (s : State) : Host.Outcome State Fault Refusal :=
  .next (s.performStreamDone s.tile.phys i).settled

/-! ### Releases (R136, R193, R255, R258) -/

/-- RELEASE_PERFORM: the i-th released action. -/
def execReleasePerform (i : Nat) (s : State) : Host.Outcome State Fault Refusal :=
  .next (s.performRelease s.tile.phys i).settled

/-- STF_RELEASE: the i-th released action. -/
def execStfRelease (i : Nat) (s : State) : Host.Outcome State Fault Refusal := .next (s.performStf s.tile.phys i).settled

/-! ### X-pipe operations (R273) -/

/-- MATRIX_OP_COMPLETE: the oldest queued operation. -/
def execMatrixOpComplete (s : State) : Host.Outcome State Fault Refusal := .next s.runHead

end Sys2Proof.Machine
end

