-- ==== Sys2Proof/Machine/TreeEvents.lean ====
section
/-! DEFINITION. The events of trees (R313 to R316, R321, R325, R326): flits arriving at routers, refills, posts reading their
sources, deliveries, and freezes and thaws ending. -/

namespace Sys2Proof.Machine

/-- A live tree that is not frozen and whose context runs. -/
def State.movingTree (s : State) (idx : Nat) : Option Tree :=
  match s.tree? idx with
  | some t => if s.treeFrozen t then none else some t
  | none => none

/-! ### Flits and refills (R313, R316) -/

def TreeData.isAt (d : TreeData) (f : TreeFlit) : Bool :=
  decide (d.node = f.node) && decide (d.child = f.child) && decide (d.seg % 2 ^ 32 = f.seg)

/-- A router's refill counter goes up by one (R316). -/
def State.countRefill (s : State) (router : Nat) : State :=
  let n := ((s.dev.refills.find? fun p => decide (p.1 = router)).map Prod.snd).getD 0
  { s with dev := { s.dev with refills := (router, n + 1) :: s.dev.refills.filter fun p => decide (p.1 ≠ router) } }

/-- Flits at a router that lacks the record: held; the first of them is a miss and asks for a refill. -/
def State.missFlit (s : State) (t : Tree) (d : TreeData) : State :=
  let x := t.nodeFor d
  let x' := { x with held := x.held ++ [d], missing := true }
  if x.missing then s.setTree (t.setNode x')
  else
    let s := s.setTree { t.setNode x' with misses := (t.misses + 1) % 2 ^ 32 }
    s.countRefill (s.placeNode t.ctx (t.descFor d.seg) d.node)

/-- Flits at a router that has the record; a fifth segment waits at the child's output (R313). -/
def State.hitFlit (s : State) (t : Tree) (d : TreeData) : State :=
  match t.accept d with
  | none => s
  | some t' =>
    let s := s.setTree (t'.setNode { t'.nodeFor d with used := s.dev.stamp }).settle
    { s with dev := { s.dev with stamp := s.dev.stamp + 1 } }

/-- TREE_FLIT_ARRIVAL. -/
def execTreeFlitArrival (f : TreeFlit) (s : State) : Host.Outcome State Fault Refusal :=
  match s.movingTree f.tree with
  | none => .next s
  | some t =>
    match t.flight.find? (·.isAt f) with
    | none => .next s
    | some d =>
      let t' := { t with flight := t.flight.erase d }
      .next (if (t.nodeFor d).present then s.hitFlit t' d else s.missFlit t' d)

/-- TREE_REFILL_COMPLETE: the walker finds the entry live. The flits of an entry that was freed ended with it (R327). -/
def execTreeRefillComplete (idx n : Nat) (s : State) : Host.Outcome State Fault Refusal :=
  match s.movingTree idx with
  | none => .next s
  | some t =>
    match t.nodes.find? fun x => decide (x.node = n) && x.missing with
    | some x => .next (s.applied .refill (·.refillNode idx x.eff n))
    | none => .next s

/-! ### Posts (R321) -/

/-- A byte that a tree reads for a post: undefined where the word is uncorrectable, to which R179 gives no outcome. -/
def State.postByte (s : State) (t : Tile) (a : Nat) : Byte :=
  if (s.mapBad t.ctx t.ltile a 1).isSome then Config.freeByte s.free a else s.mapByte t.ctx t.ltile a

/-- Whether a member device of a tree cannot be reached. -/
def State.pathDown (s : State) (t : Tree) (seg : Nat) : Bool :=
  (t.descFor seg).members.any fun m => decide (m.dev ≠ s.dev.devid.toNat) && !s.reachable m.dev

/-- A post leaves its tree, and its token lands. -/
def State.closePost (s : State) (t : Tree) (tile slot status : Nat) : State :=
  let s := (s.setTree { t with posts := t.posts.filter fun (p : Post) => !p.isIn tile slot }.sendEmpties.settle.dropResults).endPost
    t.ctx tile slot status
  match s.logical t.ctx tile with
  | some u => s.finishHalt u.phys
  | none => s

/-- Whether an earlier post of the same tile to the tree has still to be sent: posts leave in index order (R319). -/
def Tree.sendsLater (t : Tree) (p : Post) : Bool :=
  t.posts.any fun q => decide (q.tile = p.tile) && !q.read && decide (q.seg < p.seg)

/-- A member whose device path is down ends its post with status 8. -/
def State.readPost (s : State) (j : Job) (t : Tree) (p : Post) : State :=
  let me := s.tile.ltile
  if s.pathDown t p.seg then s.closePost t me j.slot 8
  else
    let bs := (List.range p.len).map fun i => s.postByte s.tile (p.src + i)
    let t1 := { t with posts := t.posts.map fun (q : Post) => if q.isIn me j.slot then { q with read := true } else q }
    let t2 := (t1.send p.dev p.tile p.seg (tElems t.oper t.tfmt bs)).sendEmpties.settle
    let s := { s with free := s.free + 1 }
    if p.rcv = 0 then s.closePost t2 me j.slot 0 else s.setTree t2

/-- POST_SOURCE_READ: the source has been read in full and is sent; a member that does not receive lands status 0. -/
def execPostSourceRead (slot : Nat) (s : State) : Host.Outcome State Fault Refusal :=
  match s.tile.job? slot, s.postOf s.tile slot with
  | some j, some (t, p) =>
    .next (if j.state = .running ∧ j.status = 0 ∧ p.read = false ∧ t.sendsLater p = false ∧ s.treeFrozen t = false then
      s.readPost j t p else s)
  | _, _ => .next s

/-! ### Delivery (R321, R322) -/

/-- Bytes that an agent other than the memory slot writes: none into an uncorrectable word it does not write whole (R179). -/
def State.agentWrite (s : State) (ctx own a : Nat) (bs : List Byte) : State :=
  let ok (x : Nat) : Bool := (s.mapBad ctx own x 1).isNone || (decide (a ≤ x / 4 * 4) && decide (x / 4 * 4 + 4 ≤ a + bs.length))
  (runsOf ((cellsOf a bs).filter fun c => ok c.1)).foldl (fun s r => s.mapWrite ctx own r.1 r.2) s

/-- TREE_DELIVERY: a segment's result at a receiver: bytes, barrier step, token. -/
def execTreeDelivery (idx seg member : Nat) (s : State) : Host.Outcome State Fault Refusal :=
  match s.movingTree idx with
  | none => .next s
  | some t =>
    match t.posts.find? (fun p => decide (p.seg % 2 ^ 32 = seg) && decide (p.tile = member) && p.read && decide (p.rcv ≠ 0) &&
        t.results.any fun r => decide (r.1 = p.seg)), s.logical t.ctx member with
    | some p, some u =>
      let r := (t.results.find? fun r => decide (r.1 = p.seg)).getD (0, [])
      let bs := tBytes t.oper t.tfmt r.2
      let s := s.agentWrite u.ctx u.ltile p.rcv bs
      let s := if p.bar = 0 then s else s.barStep u.ctx u.ltile p.bar 1 (-(bs.length : Int)) 0
      .next (s.closePost t p.tile p.slot 0)
    | _, _ => .next s

/-! ### Freezing and thawing (R325, R326) -/

/-- Code 0 lands in every tile that waits for a tree. -/
def State.landTree (s : State) (idx : Nat) : State :=
  let land (u : Tile) : Tile := u.landWaiting (.tree idx) false 0
  { s with tile := land s.tile, others := s.others.map land }

/-- The frozen image written: header, handle, and bytes whose layout is internal. -/
def State.writeFrozen (s : State) (t : Tree) (a : Nat) : State :=
  let near := s.dev.near.undefine a (a + t.bound) s.free
  let near := { near with bad := near.bad.filter fun w => !(decide (a ≤ w) && decide (w < a + t.bound)) }
  { s with
    dev := { s.dev with near := (near.writeNat a 4 imageMagic).writeNat (a + 4) 4 (s.handle t.idx).toNat }
    free := s.free + 1 }

/-- TREE_FREEZE_COMPLETE: the image is complete, the entry frozen, and code 0 lands. -/
def execTreeFreezeComplete (idx : Nat) (s : State) : Host.Outcome State Fault Refusal :=
  match s.tree? idx with
  | none => .next s
  | some t =>
    match t.freezing with
    | none => .next s
    | some a =>
      let seed := s.free
      let s := s.writeFrozen t a
      let t := { t with frozen := true, freezing := none, image := (seed, a) }
      let s := s.setTree t
      let s := { s with dev := { s.dev with images := s.dev.images ++ [(seed, a, t)] } }
      .next (s.landTree idx)

/-- The tree as an image holds it, at the entry that thaws it, with the posts released since and their indices (R325, R326). -/
def Tree.fromImage (t img : Tree) : Tree :=
  let u := { img with
    idx := t.idx
    ctx := t.ctx
    posts := t.posts
    empties := t.empties
    misses := t.misses }
  t.posts.foldl (fun u p => if u.prevOf p.dev p.tile < p.seg then u.setPrev p.dev p.tile p.seg else u) u

/-- TREE_THAW_COMPLETE: records, partials and raw data are on the routers now chosen, and code 0 lands. -/
def execTreeThawComplete (idx : Nat) (s : State) : Host.Outcome State Fault Refusal :=
  match s.tree? idx with
  | none => .next s
  | some t =>
    match t.thawing with
    | none => .next s
    | some a =>
      let u := match s.imageAt t a with
        | some (seed, img) => if seed = some t.image.1 then t else t.fromImage img
        | none => t
      let s := (s.setTree { u with frozen := false, freezing := none, thawing := none }).placeAll idx
      .next (s.landTree idx)

end Sys2Proof.Machine
end

