-- ==== Sys2Proof/Machine/LelumEvents.lean ====
section
/-! DEFINITION. The events of the Lelum ports (R334 to R346): rotor slots and relay, flits received and the operations they
carry, acknowledgements and replay, unreachable pairs, and laser inputs. -/

namespace Sys2Proof.Machine

/-! ### Rotor slots (R334 to R336, R344) -/

/-- The lowest lit port that the current slot joins to a device. -/
def State.portTo (s : State) (dev : Nat) : Option Nat :=
  (List.range 128).find? fun k => decide ((s.lport k).lit ≠ 0) && decide ((s.joinedTo k).map Prod.fst = some dev)

/-- Relayed flits whose destination a port now reaches leave; the others stay (R336). -/
def State.relayOut (s : State) : State :=
  s.dev.relay.foldl (fun s f =>
    match s.portTo f.dst with
    | some k => s.transmit k f
    | none => { s with dev := { s.dev with relay := s.dev.relay ++ [f] } })
    { s with dev := { s.dev with relay := [] } }

/-- An unreachable pair that Mynyx now brings to a common sequence number carries new traffic again (R344). -/
def State.resync (s : State) (p : Pair) : State :=
  match if p.unreachable && s.named p.dev then Config.resync s.dev.slots p.dev else none with
  | some n => s.setPair { p with
      next := n % 2 ^ 24
      expected := n % 2 ^ 24
      unacked := []
      resend := []
      unsent := []
      reorder := []
      awaiting := none
      owed := false
      unreachable := false }
  | none => s

/-- ROTOR_SLOT_START: the next matching; every stripe counter returns to 0, relayed flits leave for the devices now joined, and
then every pair sends what it can. -/
def execRotorSlotStart (s : State) : Host.Outcome State Fault Refusal :=
  match s.dev.rotor with
  | none => .next s
  | some r =>
    let s1 : State := { s with dev := { s.dev with
      rotorSlot := if s.dev.rotorSlot + 1 < r.length then s.dev.rotorSlot + 1 else 0
      slots := s.dev.slots + 1
      lports := s.dev.lports.map fun p => { p with stripe := 0 } } }
    let s2 := s1.dev.pairs.foldl State.resync s1.relayOut
    .next ((s2.dev.pairs.map (·.dev)).foldl State.pump s2)

/-! ### Replay (R343) -/

/-- A pair sends every unacknowledged flit again, before any new one. -/
def State.replayPair (s : State) (dev : Nat) : State :=
  let p := s.pair dev
  let s := s.setPair { p with replays := p.replays + 1, resend := p.unacked }
  let l := s.lport p.port
  (s.setLport { l with replayed := l.replayed + p.unacked.length }).pump dev

/-- REPLAY_TIMEOUT: 20 µs without a new acknowledgement. -/
def execReplayTimeout (dev : Nat) (s : State) : Host.Outcome State Fault Refusal :=
  .next (if (s.pair dev).unacked.isEmpty then s else s.replayPair dev)

/-! ### Acknowledgements (R342) -/

/-- ACK_RECEIVE. -/
def execAckReceive (dev num : Nat) (s : State) : Host.Outcome State Fault Refusal := .next (s.takeAck dev num)

/-- ACK_TIMER: an acknowledgement flit leaves while the pair has delivered flits it has not acknowledged; it stays owed while the
pair's port reaches no peer that takes it. -/
def execAckTimer (dev : Nat) (s : State) : Host.Outcome State Fault Refusal :=
  let p := s.pair dev
  .next (if p.owed && s.carries p.port dev then (s.transmit p.port (s.ackFlit dev)).setPair { p with owed := false } else s)

/-! ### Operations that flits carry (R340) -/

/-- The addressed bytes that data flit k of a command carries: unit k of the range, words FIRST to FIRST + NW. -/
def flitBytes (cmd f : Flit) (k : Nat) : List (Nat × Byte) :=
  let base := cmd.dword 8 / 128 * 128 + 128 * k
  (List.range (4 * (f.nw + 1))).filterMap fun i =>
    let o := 4 * f.first + i
    let a := base + o
    if cmd.dword 8 ≤ a ∧ a < cmd.dword 8 + cmd.word 0x10 then (f.payload[o]?).map fun b => (a, b) else none

def flitData (cmd : Flit) (ds : List Flit) : List (Nat × Byte) := ds.zipIdx.flatMap fun d => flitBytes cmd d.1 d.2

/-- A response to a command: its PASID, address, length and tag. -/
def responseTo (cmd : Flit) (op : Nat) : Command :=
  ⟨op, 0, 0, cmd.pasid, cmd.dword 8, cmd.word 0x10, 0, 0, cmd.word 0x1C, 0⟩

/-- Whether every byte of a range can be reached for a write in the command's PASID. -/
def State.fwdOk (s : State) (pasid va n : Nat) (write : Bool) : Bool :=
  match s.cmdCheck pasid va write n with
  | .ok _ => true
  | .error _ => false

def State.fwdWrite (s : State) (pasid : Nat) (l : List (Nat × Byte)) : State :=
  l.foldl (fun s b => match s.cmdWrite pasid b.1 [b.2] with
    | .ok s' => s'
    | .error _ => s) s

def State.fwdNat (s : State) (pasid va n : Nat) : Nat :=
  match s.cmdNat pasid va n with
  | .ok v => v
  | .error _ => 0

def State.fwdPut (s : State) (pasid va n v : Nat) : State :=
  s.fwdWrite pasid ((bytesOfNat n v).zipIdx.map fun b => (va + b.2, b.1))

/-- A 64-bit flag or counter increased (R352). -/
def State.fwdFlag (s : State) (pasid va n : Nat) : State := s.fwdPut pasid va 8 ((s.fwdNat pasid va 8 + n) % 2 ^ 64)

/-- A command that cannot be carried out has no effect, and is answered all the same, with undefined values (R3). -/
def State.denyFlit (s : State) (cmd : Flit) : State :=
  let s1 := { s with free := s.free + 1 }
  match cmd.op with
  | 1 => s1.sendFlits cmd.src (withData (responseTo cmd 2) (cmd.dword 8)
      ((List.range (cmd.word 0x10)).map fun i => Config.freeByte s.free i))
  | 3 => s1.sendFlits cmd.src [{ responseTo cmd 6 with opa := (Config.freeWord s.free).toNat }.body]
  | 4 => s1.sendFlits cmd.src [{ responseTo cmd 6 with opa := (Config.freeWord s.free).toNat }.body]
  | 5 => s1.sendFlits cmd.src [{ responseTo cmd 6 with opa := (Config.freeWord s.free).toNat }.body]
  | _ => s.sendFlits cmd.src [(responseTo cmd 9).body]

/-- The other device on which this device's own tables place an address of a command. -/
def State.farDev (s : State) (cmd : Flit) (write : Bool) (va : Nat) : Option Nat :=
  match s.cmdLoc cmd.pasid va write with
  | .ok (.remote d _) => some d
  | _ => none

/-- The bytes among some of a command's that other devices hold, device by device. -/
def State.farBytes (s : State) (cmd : Flit) (write : Bool) (l : List (Nat × Byte)) : List (Nat × List (Nat × Byte)) :=
  ((l.filterMap fun x => s.farDev cmd write x.1).eraseDups).map fun d =>
    (d, l.filter fun x => decide (s.farDev cmd write x.1 = some d))

/-- The lowest number that no command passed on has. -/
def State.freeReply (s : State) : Nat :=
  ((List.range (s.dev.replies.length + 1)).find? fun n => !s.dev.replies.any fun r => decide (r.num = n)).getD 0

/-- The tag of a command passed on. -/
def State.passTag (s : State) : Nat := 2 ^ 30 + s.freeReply

/-- A command is passed on to the devices that hold what it names, under a tag of this device; its response waits for their answers.
One that cannot be reached leaves it without effect there (R344). -/
def State.passOn (s : State) (cmd : Flit) (ds : List Flit) (stage : Nat) (l : List (Nat × List FlitBody)) : State :=
  if l.all fun x => s.reachable x.1 then
    let n := s.freeReply
    let r := s.sendAll l
    { r.1 with dev := { r.1.dev with replies := r.1.dev.replies ++ [⟨n, cmd, ds, r.2, stage, 0⟩] } }
  else s.denyFlit cmd

/-- The on-chip bytes, by key, that a command names. -/
def State.fwdKeys (s : State) (pasid : Nat) (vas : List Nat) : List Nat :=
  vas.filterMap fun va => match s.cmdLoc pasid va true with
    | .ok (.chip a) => s.chipKey (s.ctxOfPasid pasid) 0 a
    | _ => none

/-- What a write of another device leaves of the barrier objects in use (R250). -/
def State.spoilFwd (s s1 : State) (pasid : Nat) (vas : List Nat) : State :=
  s1.spoil (s.barsInUse none) (s.fwdKeys pasid vas)

/-- The acknowledgement of a command leaves on the reverse pair. -/
def State.fwdAck (s : State) (cmd : Flit) : State := s.sendFlits cmd.src [(responseTo cmd 9).body]

/-- The flag of a write from another device, once its data is written; one with another home goes there as a flag increment, and the
write is acknowledged after it (R352). -/
def State.fwdStoreFlag (s : State) (cmd : Flit) (ds : List Flit) : State :=
  let fva := cmd.dword 0x20
  if fva = 0 then s.fwdAck cmd
  else match s.cmdLoc cmd.pasid fva true with
    | .ok (.remote d _) =>
      (s.fwdFlag cmd.pasid fva 1).passOn cmd ds 2 [(d, [{ responseTo cmd 8 with va := fva, len := 8, opa := 1, tag := s.passTag }.body])]
    | .ok _ => (s.fwdFlag cmd.pasid fva 1).fwdAck cmd
    | .error _ => s.fwdAck cmd

/-- A write from another device: its bytes, those of a third device passed on to it, then its flag. -/
def State.fwdStore (s : State) (cmd : Flit) (ds : List Flit) : State :=
  let data := flitData cmd ds
  let s1 := s.spoilFwd (s.fwdWrite cmd.pasid data) cmd.pasid (data.map Prod.fst)
  match s.farBytes cmd true data with
  | [] => s1.fwdStoreFlag cmd ds
  | far => s1.passOn cmd ds 1 (far.map fun x => (x.1, dataCommands { responseTo cmd 0 with tag := s.passTag } (runsOf x.2)))

/-- The bytes of a read request return as a read-data command with its data flits. -/
def State.fwdReturn (s : State) (cmd : Flit) : State :=
  match s.cmdRead cmd.pasid (cmd.dword 8) (cmd.word 0x10) with
  | .ok bs => s.sendFlits cmd.src (withData (responseTo cmd 2) (cmd.dword 8) bs)
  | .error _ => s.denyFlit cmd

/-- A read request: bytes that a third device holds are asked for there first. -/
def State.fwdRead (s : State) (cmd : Flit) : State :=
  match s.farBytes cmd false ((List.range (cmd.word 0x10)).map fun i => (cmd.dword 8 + i, 0)) with
  | [] => s.fwdReturn cmd
  | far => s.passOn cmd [] 1 (far.map fun x => (x.1, readCommands { responseTo cmd 1 with tag := s.passTag } (runsOf x.2)))

/-- Elements of a forwarded reduce-add: each source element stands in the low bits of its destination element; those whose destination
a third device holds are passed on to it. -/
def State.fwdReduce (s : State) (cmd : Flit) (ds : List Flit) : State :=
  let sf := cmd.word 0 / 2 ^ 8 % 16
  let df := cmd.word 0 / 2 ^ 12 % 16
  let w := bitsOf df / 8
  let data := flitData cmd ds
  let get (a : Nat) : Nat := (((data.find? fun p => decide (p.1 = a)).map Prod.snd).getD 0).toNat
  let n := cmd.word 0x10 / w
  let s1 := (List.range n).foldl (fun s i =>
    let a := cmd.dword 8 + w * i
    let x := (List.range w).foldl (fun acc k => acc + get (a + k) * 256 ^ k) 0 % 2 ^ bitsOf sf
    s.fwdPut cmd.pasid a w (combine sf df (s.fwdNat cmd.pasid a w) x)) s
  let s2 := s.spoilFwd s1 cmd.pasid (data.map Prod.fst)
  match s.farBytes cmd true data with
  | [] => s2.fwdAck cmd
  | far => s2.passOn cmd ds 1 (far.map fun x =>
      (x.1, dataCommands { responseTo cmd 7 with fmt := cmd.word 0 / 2 ^ 8 % 256, tag := s.passTag } (runsOf x.2)))

/-- A flag or counter increase (R234, R352): here, or passed on to the device that holds it. -/
def State.fwdIncrease (s : State) (cmd : Flit) : State :=
  let s1 := s.fwdFlag cmd.pasid (cmd.dword 8) (cmd.word 0x14)
  match s.farDev cmd true (cmd.dword 8) with
  | none => s1.fwdAck cmd
  | some d => s1.passOn cmd [] 1 [(d, [{ responseTo cmd 8 with opa := cmd.word 0x14, tag := s.passTag }.body])]

/-- A remote atomic (R348, R353): performed here, the page's executor, or passed on to the device to which the page has moved. -/
def State.fwdAtomic (s : State) (cmd : Flit) (op : AtomOp) : State :=
  let va := cmd.dword 8
  let old := nat32 (s.fwdNat cmd.pasid va 4)
  let v := nat32 (if op = .cas then cmd.word 0x18 else cmd.word 0x14)
  let s1 := s.fwdPut cmd.pasid va 4 (op.apply old v (nat32 (cmd.word 0x14))).toNat
  match s.farDev cmd true va with
  | some d => s1.passOn cmd [] 1
      [(d, [{ responseTo cmd cmd.op with opa := cmd.word 0x14, opb := cmd.word 0x18, tag := s.passTag }.body])]
  | none =>
    let page := ((s.lookup s.dev.xtlb cmd.pasid va).map (·.va)).getD va
    (s1.pageAtomic cmd.pasid page cmd.src).sendFlits cmd.src [{ responseTo cmd 6 with opa := old.toNat }.body]

/-- A command passed on goes on, its answers in. -/
def State.resumeReply (s : State) (r : Reply) : State :=
  match r.cmd.op with
  | 0 => if r.stage = 1 then s.fwdStoreFlag r.cmd r.ds else s.fwdAck r.cmd
  | 1 => s.fwdReturn r.cmd
  | 7 => s.fwdAck r.cmd
  | 8 => s.fwdAck r.cmd
  | _ => s.sendFlits r.cmd.src [{ responseTo r.cmd 6 with opa := r.old }.body]

/-! ### Answers (R340, R341) -/

/-- A byte of another device's memory as an answer gives it: the image of that memory holds it from then on. -/
def State.learnByte (s : State) (dev : Nat) (l : Option Loc) (b : Byte) : State :=
  match l with
  | some (.remote d a) =>
    if d = dev then { s with dev := { s.dev with remote := s.dev.remote.write (remoteAddr d a) [b] } } else s
  | _ => s

/-- The bytes that an answer brings: read data, or the old value of an atomic's word. -/
def answerData (cmd : Flit) (ds : List Flit) : List (Nat × Byte) :=
  match cmd.op with
  | 2 => flitData cmd ds
  | 6 => (bytesOfNat 4 (cmd.word 0x14)).zipIdx.map fun b => (cmd.dword 8 + b.2, b.1)
  | _ => []

/-- The tile whose job a tag names (R340): the one that is now the logical tile of its context. -/
def State.taggedTile (s : State) (tag : Nat) : Option Tile := s.logical (tag / 2 ^ 24 % 64) (tag / 2 ^ 15 % 512)

/-- The answer to a command of a tile's job. -/
def State.answerTile (s : State) (cmd : Flit) (ds : List Flit) : State :=
  let tag := cmd.word 0x1C
  match (s.taggedTile tag).bind fun t => (t.job? (tag / 256 % 128)).map fun j => (t, j) with
  | none => s
  | some (t, j) =>
    if j.sq % 256 = tag % 256 ∧ j.acks.contains (cmd.src, cmd.dword 8) = true then
      ((answerData cmd ds).foldl (fun s b => s.learnByte cmd.src (s.jobLoc t j b.1) b.2) s).modTile t.phys
        (·.setJob { j with acks := j.acks.erase (cmd.src, cmd.dword 8) })
    else s

/-- The answer to a command of a COPY. -/
def State.answerCmd (s : State) (cmd : Flit) (ds : List Flit) : State :=
  let q := (cmd.word 0x1C - 2 ^ 31) / 2 ^ 20
  match (s.queue? q).bind fun x => x.cmds.find? fun c =>
      decide (c.sq % 2 ^ 20 = cmd.word 0x1C % 2 ^ 20) && c.acks.contains (cmd.src, cmd.dword 8) with
  | none => s
  | some c =>
    ((answerData cmd ds).foldl (fun s b => s.learnByte cmd.src ((s.walk cmd.pasid b.1).map (·.loc b.1)) b.2) s).putCmd q
      { c with acks := c.acks.erase (cmd.src, cmd.dword 8) }

/-- The answer to a command passed on: read data, or the old value of an atomic; with the last of them the command goes on (R241, R348,
R352). -/
def State.answerReply (s : State) (cmd : Flit) (ds : List Flit) : State :=
  match s.dev.replies.find? fun r =>
      decide (r.num = cmd.word 0x1C % 2 ^ 30) && r.acks.contains (cmd.src, cmd.dword 8) with
  | none => s
  | some r =>
    let s := if cmd.op = 2 then (answerData cmd ds).foldl (fun s b =>
        s.learnByte cmd.src ((s.walk r.cmd.pasid b.1).map (·.loc b.1)) b.2) s else s
    let r1 : Reply := { r with
      acks := r.acks.erase (cmd.src, cmd.dword 8)
      old := if cmd.op = 6 then cmd.word 0x14 else r.old }
    let rest := s.dev.replies.filter fun x => decide (x.num ≠ r.num)
    if r1.acks.isEmpty then { s with dev := { s.dev with replies := rest } }.resumeReply r1
    else { s with dev := { s.dev with replies := rest ++ [r1] } }

/-- Read data, an atomic response or a write acknowledgement goes, by its tag, to what awaits it. -/
def State.takeAnswer (s : State) (cmd : Flit) (ds : List Flit) : State :=
  if cmd.word 0x1C < 2 ^ 30 then s.answerTile cmd ds
  else if cmd.word 0x1C < 2 ^ 31 then s.answerReply cmd ds
  else s.answerCmd cmd ds

/-- A command with all its data takes effect in the destination's own tables (R340, R341). -/
def State.applyFlit (s : State) (cmd : Flit) (ds : List Flit) : State :=
  match cmd.op with
  | 0 => s.fwdStore cmd ds
  | 1 => s.fwdRead cmd
  | 3 => s.fwdAtomic cmd .add
  | 4 => s.fwdAtomic cmd .incb
  | 5 => s.fwdAtomic cmd .cas
  | 7 => s.fwdReduce cmd ds
  | 8 => s.fwdIncrease cmd
  | _ => s.takeAnswer cmd ds

/-- Every page that a command touches is permitted. -/
def State.flitPermitted (s : State) (cmd : Flit) : Bool :=
  match cmd.op with
  | 0 => s.fwdOk cmd.pasid (cmd.dword 8) (cmd.word 0x10) true
  | 1 => s.fwdOk cmd.pasid (cmd.dword 8) (cmd.word 0x10) false
  | 2 => true
  | 6 => true
  | 9 => true
  | 8 => s.fwdOk cmd.pasid (cmd.dword 8) 8 true
  | 7 => s.fwdOk cmd.pasid (cmd.dword 8) (cmd.word 0x10) true
  | _ => s.fwdOk cmd.pasid (cmd.dword 8) 4 true && s.fwdOk cmd.pasid (cmd.dword 8) 4 false

def State.discard (s : State) : State := { s with dev := { s.dev with discards := s.dev.discards + 1 } }

/-- Whether a command is one that R340 allows: its OP, its announced data and its length. -/
def Flit.allowed (f : Flit) : Bool := decide (f.op < 10) && decide (f.ndata ≤ 64) && decide (f.word 0x10 ≤ 8192)

/-- A command whose data is complete. -/
def State.finishFlit (s : State) (cmd : Flit) (ds : List Flit) : State :=
  if s.flitPermitted cmd then s.applyFlit cmd ds else s.denyFlit cmd

/-- A flit in its turn: a command, or the next data of the command before it. -/
def State.deliverFlit (s : State) (f : Flit) : State :=
  let p := s.pair f.src
  let s := s.setPair { p with expected := (p.expected + 1) % 2 ^ 24, owed := true }
  let p := s.pair f.src
  if f.type = 0 then
    if !Flit.allowed f then (s.setPair { p with awaiting := none }).discard
    else if f.ndata = 0 then s.finishFlit f [] else s.setPair { p with awaiting := some (f, []) }
  else
    match p.awaiting with
    | none => s
    | some (cmd, ds) =>
      let ds := ds ++ [f]
      if cmd.ndata ≤ ds.length then (s.setPair { p with awaiting := none }).finishFlit cmd ds
      else s.setPair { p with awaiting := some (cmd, ds) }

/-- Held flits that now follow in sequence are delivered (R341). -/
def releaseGo (dev : Nat) : Nat → State → State
  | 0, s => s
  | n + 1, s =>
    let p := s.pair dev
    match p.reorder.find? fun f => decide (f.sq = p.expected) with
    | none => s
    | some f => releaseGo dev n ((s.setPair { p with reorder := p.reorder.filter fun g => decide (g.sq ≠ f.sq) }).deliverFlit f)

/-! ### FLIT_RECEIVE (R336, R339, R341) -/

/-- Flits that the relay and reorder region of 256 MiB holds. -/
def relayCap : Nat := 2 ^ 28 / 144

def State.regionFull (s : State) : Bool :=
  decide (relayCap ≤ s.dev.relay.length + s.dev.pairs.foldl (fun a p => a + p.reorder.length) 0)

/-- A data or command flit of a pair. -/
def State.takeFlit (s : State) (f : Flit) : State :=
  let p := s.pair f.src
  let d := (f.sq + 2 ^ 24 - p.expected % 2 ^ 24) % 2 ^ 24
  if d = 0 then releaseGo f.src p.reorder.length (s.deliverFlit f)
  else if 2 ^ 23 ≤ d then s.discard
  else if p.reorder.any fun g => decide (g.sq = f.sq) then s.discard
  else if s.regionFull then s.discard
  else s.setPair { p with reorder := p.reorder ++ [f] }

/-- FLIT_RECEIVE: the flit has taken one hop more than its header says. One for another device is held for a later slot, unless
it has taken two hops or the region is full (R336). -/
def execFlitReceive (f : Flit) (s : State) : Host.Outcome State Fault Refusal :=
  .next (
    if !f.crcOk || decide (3 ≤ f.type) then s.discard
    else if f.dst ≠ s.dev.devid.toNat then
      if 1 ≤ f.hop ∨ s.regionFull = true then s.discard
      else { s with dev := { s.dev with relay := s.dev.relay ++ [f.hopped] } }
    else if f.type = 2 then s.takeAck f.src (natOfBytes (f.payload.take 4) % 2 ^ 24)
    else s.takeFlit f)

/-! ### PAIR_UNREACHABLE (R344) -/

/-- Whether a job, a COPY command or a command passed on awaits answers of a device. -/
def awaits (dev : Nat) (acks : List (Nat × Nat)) : Bool := acks.any fun a => decide (a.1 = dev)

/-- Whether an operation ends when the pair with a device is declared unreachable. -/
def Job.fails (j : Job) (dev : Nat) : Bool := awaits dev j.acks
def Cmd.fails (c : Cmd) (dev : Nat) : Bool := awaits dev c.acks

/-- Every operation of a tile that waits for the pair ends with status 8, and awaits nothing more. -/
def Tile.failPair (t : Tile) (dev : Nat) : Tile :=
  { t with jobs := t.jobs.map fun (j : Job) => if j.fails dev then { j with status := if j.status = 0 then 8 else j.status, acks := [] } else j }

def Tile.pairJobs (t : Tile) (dev : Nat) : Nat := (t.jobs.filter (·.fails dev)).length

/-- The COPY commands that wait for the pair. -/
def Queue.failPair (x : Queue) (dev : Nat) : Queue :=
  { x with cmds := x.cmds.map fun (c : Cmd) => if c.fails dev then { c with early := if c.early = 0 then 8 else c.early, acks := [] } else c }

def Queue.pairCmds (x : Queue) (dev : Nat) : Nat := (x.cmds.filter (·.fails dev)).length

/-- The operations of the pair with a device: of tiles, of tiles in a save area, and COPY commands. -/
def State.pairOps (s : State) (dev : Nat) : Nat :=
  s.tiles.foldl (fun a t => a + t.pairJobs dev) 0 +
    (s.dev.ctxs.foldl (fun a c => a + c.saved.foldl (fun a t => a + t.pairJobs dev) 0) 0) +
    s.dev.queues.foldl (fun a x => a + x.pairCmds dev) 0

/-- The posts of trees with a member on a device: every one that has not ended ends with status 8 (R321). -/
def State.treePosts (s : State) (dev : Nat) : List (Nat × Post) :=
  s.dev.trees.flatMap fun t =>
    (t.posts.filter fun p => (t.descFor p.seg).members.any fun m => decide (m.dev = dev)).map fun p => (t.idx, p)

def State.failTrees (s : State) (dev : Nat) : State :=
  (s.treePosts dev).foldl (fun s p => match s.tree? p.1 with
    | some t => s.closePost t p.2.tile p.2.slot 8
    | none => s) s

def execPairUnreachable (dev : Nat) (s : State) : Host.Outcome State Fault Refusal :=
  if (s.pair dev).unacked.isEmpty || (s.pair dev).unreachable then .next s
  else
    let n := s.pairOps dev + (s.treePosts dev).length
    let s1 : State := { s with
      tile := s.tile.failPair dev
      others := s.others.map fun t => t.failPair dev
      dev := { s.dev with
        ctxs := s.dev.ctxs.map fun (c : Ctx) => { c with saved := c.saved.map fun t => t.failPair dev }
        queues := s.dev.queues.map fun x => x.failPair dev
        replies := s.dev.replies.filter fun r => !awaits dev r.acks } }
    let s2 := (s.dev.replies.filter fun r => awaits dev r.acks).foldl (fun s r => s.denyFlit r.cmd) s1
    .next ((s2.declareDown dev n).failTrees dev)

/-! ### Laser inputs (R345, R346) -/

def LPort.setInput (p : LPort) (i : Nat) (x : Laser) : LPort := { p with inputs := p.inputs.setIfInBounds i x }

/-- A change of an input that has no further effect. -/
def State.laserMove (s : State) (port input : Nat) (f : Laser → Option Laser) : State :=
  let p := s.lport port
  match p.inputs[input]? with
  | none => s
  | some x =>
    match f x with
    | some y => if port < 128 then s.setLport (p.setInput input y) else s
    | none => s

/-- LASER_POWER_LOW. -/
def execLaserPowerLow (port input : Nat) (s : State) : Host.Outcome State Fault Refusal :=
  .next (s.laserMove port input fun
    | .lit => some .fading
    | .waking => some .dark
    | _ => none)

/-- LASER_POWER_HIGH. -/
def execLaserPowerHigh (port input : Nat) (s : State) : Host.Outcome State Fault Refusal :=
  .next (s.laserMove port input fun
    | .fading => some .lit
    | .dark => some .waking
    | _ => none)

/-- The port that takes over the pairs of one that is down: the lowest that is lit. -/
def State.otherPort (s : State) (port : Nat) : Nat :=
  ((List.range 128).find? fun k => decide (k ≠ port) && decide ((s.lport k).lit ≠ 0)).getD port

/-- Every pair of a port that is down is reassigned and replayed, and the port is given no new pair (R346). -/
def State.portDown (s : State) (port : Nat) : State :=
  let ds := s.pairsOn port
  let q := s.otherPort port
  let s := s.setLport { s.lport port with down := true }
  let s := ds.foldl (fun s d => (s.setPair { s.pair d with port := q }).replayPair d) s
  s.portEvent port 0x32 [nat32 port, nat32 ds.length]

/-- Payload word 0 of events 0x30 and 0x31. -/
def laserWord (port input before after : Nat) : Word := nat32 (port + input * 2 ^ 8 + before * 2 ^ 12 + after * 2 ^ 16)

/-- LASER_INPUT_LOST: the 20-cycle count has run. The port restripes over the wavelengths left and replays its pairs. -/
def execLaserInputLost (port input : Nat) (s : State) : Host.Outcome State Fault Refusal :=
  let p := s.lport port
  if p.inputs[input]? = some .fading ∧ port < 128 then
    let p' := { p.setInput input .dark with stripe := 0 }
    let s := s.setLport p'
    let ds := s.pairsOn port
    let n := ds.foldl (fun a d => a + (s.pair d).unacked.length) 0
    let s := ds.foldl State.replayPair s
    let s := s.portEvent port 0x30 [laserWord port input p.lit p'.lit, nat32 n]
    .next (if p'.lit = 0 then s.portDown port else s)
  else .next s

/-- LASER_INPUT_RESTORED: the 1 ms count has run. -/
def execLaserInputRestored (port input : Nat) (s : State) : Host.Outcome State Fault Refusal :=
  let p := s.lport port
  if p.inputs[input]? = some .waking ∧ port < 128 then
    let p' := { p.setInput input .lit with stripe := 0 }
    .next ((s.setLport p').portEvent port 0x31 [laserWord port input p.lit p'.lit, 0])
  else .next s

end Sys2Proof.Machine
end

