-- ==== Sys2Proof/Machine/ShaleEvents.lean ====
section
/-! DEFINITION. The events of the layer manager (R358, R359, R362 to R366, R371, R374 to R376): loads starting, completing
and failing, and the limit of a layer wait. -/

namespace Sys2Proof.Machine

/-! ### The checks of an entry (R358, R359, R363) -/

def State.layerSrc (s : State) (o : Obj) (layer : Nat) : Nat := s.dev.near.readNat (entryAddr o layer) 8

/-- The formats of a key or value cache, and of its summaries. -/
def kvFormats : List Nat := [0x03, 0x04, 0x01, 0x02, 0x05, 0x09]
def sumFormats : List Nat := [0x00, 0x01, 0x02]

/-- An entry that keeps R358 and R359. -/
def State.entryOk (s : State) (o : Obj) (layer : Nat) : Bool :=
  let f := s.dev.near.readNat (entryAddr o layer + 0x10) 4
  let blk := s.dev.near.readNat (entryAddr o layer + 0x14) 2
  let size := s.layerSize o layer
  s.layerSrc o layer % 64 = 0 && size % 64 = 0 && decide (64 ≤ size) && decide (size ≤ 0x40000000) &&
    s.layerStage o layer % 64 = 0 && kvFormats.contains (f % 256) && kvFormats.contains (f / 2 ^ 8 % 256) &&
    sumFormats.contains (f / 2 ^ 16 % 256) && [16, 32, 64, 128, 256].contains blk

/-- The staging budget in bytes (R366). -/
def State.budget (s : State) : Nat := s.dev.lbud.toNat % 65536 * 65536

/-- The staging range is the context's to stage in. -/
def Ctx.stageOk (c : Ctx) (lo hi : Nat) : Bool :=
  covered c.allocRanges lo hi && !(c.grantRanges.any fun r => decide (r.1 < r.2) && meets lo hi r) && !meets lo hi (reserveLo, relayHi)

/-- The cause for which a load fails before a byte is copied: 1 entry, 5 budget, 2 grant (R363, R376). -/
def State.loadRefused (s : State) (o : Obj) (layer : Nat) : Option Nat :=
  let lo := s.layerStage o layer
  let size := s.layerSize o layer
  if !s.entryOk o layer then some 1
  else if s.budget < size then some 5
  else match s.ctx? o.ctx with
    | some c => if c.stageOk lo (lo + size) then none else some 2
    | none => some 2

/-! ### Failure (R363, R374, R376) -/

/-- A tile that waits for a layer whose load has failed: its `lwait` raises swap-fault when it next issues, whatever becomes of the
layer before (R374, R377). -/
def Tile.failWait (t : Tile) (obj layer : Nat) : Tile :=
  if t.lwOn = some (obj, layer, false) then { t with lwOn := some (obj, layer, true) } else t

def State.failWaits (s : State) (obj layer : Nat) : State :=
  { s with tile := s.tile.failWait obj layer, others := s.others.map fun t => t.failWait obj layer }

/-- FAILED: the waits for the layer, the counter, and event 0x40 of the layer manager. -/
def State.failLayer (s : State) (o : Obj) (layer cause : Nat) : State :=
  (((s.failWaits o.num layer).setLayerState o layer 3).bumpObj o 6).srcEvent 0x3000 0x40 o.ctx
    [nat32 (o.num % 256 + layer % 1024 * 2 ^ 8 + cause % 16 * 2 ^ 20), nat32 (s.layerSrc o layer / 2 ^ 25 % 2 ^ 32)]

/-! ### The start of a load (R364, R365) -/

/-- The place of a request in the order of tries: the higher priority first, demands first. -/
def State.tryKey (s : State) (r : LoadReq) : Nat :=
  2 * (7 - ((s.obj? r.obj).map s.objPrio).getD 0) + (if r.demand then 0 else 1)

/-- An element put behind those of an equal key. -/
def insertAfter {α : Type} (key : α → Nat) : List α → α → List α
  | [], a => [a]
  | b :: l, a => if key a < key b then a :: b :: l else b :: insertAfter key l a

/-- Queued requests in the order of tries. -/
def State.tries (s : State) : List LoadReq := s.dev.reqs.foldl (insertAfter s.tryKey) []

/-- The evictions of a load that starts. One larger than the budget, which no eviction makes room for and which fails for it, still
starts with its staging range free (step 1 of R364, R363). -/
def State.startRoom (s : State) (o : Obj) (layer : Nat) : Option (List Staged) :=
  if s.budget < s.layerSize o layer then s.rangeRoom o layer else s.room o layer

/-- One try of a request: none while room cannot be made. What its start finds wrong with the entry, the grant or the budget fails
it afterwards (R362, R363). -/
def State.tryLoad (s : State) (r : LoadReq) : Option State :=
  let s1 : State :=
    { s with dev := { s.dev with reqs := s.dev.reqs.filter fun q => !(decide (q.obj = r.obj) && decide (q.layer = r.layer)) } }
  match s.obj? r.obj with
  | none => some s1
  | some o =>
    (s.startRoom o r.layer).map fun evs =>
      let s2 := (evs.foldl State.evict s1).setLayerState o r.layer 1
      { s2 with dev := { s2.dev with loading := s2.dev.loading ++ [{ r with cause := (s.loadRefused o r.layer).getD 0 }] } }

/-- LAYER_LOAD_START: the first queued load that can start. -/
def execLayerLoadStart (s : State) : Host.Outcome State Fault Refusal :=
  if 8 ≤ s.dev.loading.length ∨ (s.tries.findSome? s.tryLoad).isNone = true then .next s
  else .next (s.applied .layers fun s => (s.tries.findSome? s.tryLoad).getD s)

/-! ### The end of a load (R362, R363) -/

/-- A location with its context's tiles out of account: a load reads LPDDR and host memory only. -/
def Loc.isLoadable : Loc → Bool
  | .lpddr _ => true
  | .host _ => true
  | _ => false

/-- Whether a location holds an uncorrectable word. -/
def State.loadBad (s : State) : Loc → Bool
  | .lpddr a => (s.dev.lpddr.badWord a 1).isSome
  | .host a => (s.dev.hostMem.badWord a 1).isSome
  | _ => false

/-- The leaf of an address of WSRC, where a load may read through it. -/
def State.loadLoc (s : State) (pasid va : Nat) : Option Loc :=
  (s.lookup s.dev.xtlb pasid va).bind fun e => if e.rd && (e.loc va).isLoadable then some (e.loc va) else none

/-- The pages of a source range, by the addresses at which they begin. -/
def pagesOf (va n : Nat) : List Nat :=
  va :: ((List.range (n / 4096 + 1)).map fun i => (va / 4096 + i + 1) * 4096).filter fun a => decide (a < va + n)

/-- The cause for which the copy of a LOADING layer fails: 3 a page, 4 its data. -/
def State.copyFails (s : State) (o : Obj) (layer : Nat) : Option Nat :=
  let pasid := ((s.ctx? o.ctx).map (·.pasid)).getD 0
  let va := s.layerSrc o layer
  let n := s.layerSize o layer
  if (pagesOf va n).any fun a => (s.loadLoc pasid a).isNone then some 3
  else if (List.range n).any fun i => ((s.loadLoc pasid (va + i)).map s.loadBad).getD false then some 4
  else none

def Device.stopLoad (d : Device) (obj layer : Nat) : Device :=
  { d with loading := d.loading.filter fun q => !(decide (q.obj = obj) && decide (q.layer = layer)) }

/-- The bytes of WSRC at STAGE. -/
def State.copyLayer (s : State) (o : Obj) (layer : Nat) : State :=
  let pasid := ((s.ctx? o.ctx).map (·.pasid)).getD 0
  let va := s.layerSrc o layer
  let bs := (List.range (s.layerSize o layer)).map fun i => ((s.loadLoc pasid (va + i)).map (s.locByte o.ctx 0)).getD 0
  { s with dev := { s.dev with near := s.dev.near.write (s.layerStage o layer) bs } }

/-- RESIDENT: a generation more, the stamp, and the counter. -/
def State.becomeResident (s : State) (o : Obj) (layer : Nat) : State :=
  let w := s.res o layer
  ((s.setRes o layer 2 (resGen w + 1) (resPins w)).putStamp o layer).bumpObj o 4

/-- The load of a LOADING layer of a registered object. -/
def State.loadingLayer (s : State) (obj layer : Nat) : Option (Obj × LoadReq) :=
  (s.obj? obj).bind fun o =>
    if layer < s.objLayers o ∧ s.layerState o layer = 1 then
      (s.dev.loading.find? fun q => decide (q.obj = obj) && decide (q.layer = layer)).map fun q => (o, q)
    else none

/-- The cause for which a load fails, if it does. -/
def State.loadFails (s : State) (o : Obj) (q : LoadReq) : Option Nat :=
  if q.cause = 0 then s.copyFails o q.layer else some q.cause

/-- LAYER_LOAD_COMPLETE: every byte of the layer has been written. -/
def execLayerLoadComplete (obj layer : Nat) (s : State) : Host.Outcome State Fault Refusal :=
  match s.loadingLayer obj layer with
  | none => .next s
  | some (o, q) =>
    if (s.loadFails o q).isSome then .next s
    else .next (s.applied .layers fun s =>
      { s with dev := s.dev.stopLoad obj layer }.copyLayer o layer |>.becomeResident o layer)

/-- A load ends FAILED: the bytes already copied, of one whose copy has begun, are undefined. -/
def State.failLoading (s : State) (o : Obj) (q : LoadReq) (cause : Nat) : State :=
  let lo := s.layerStage o q.layer
  let s1 : State := { s with dev := s.dev.stopLoad o.num q.layer }
  let s2 : State :=
    if q.cause = 0 then
      { s1 with dev := { s1.dev with near := s1.dev.near.undefine lo (lo + s.layerSize o q.layer) s.free }, free := s1.free + 1 }
    else s1
  s2.failLayer o q.layer cause

/-- LAYER_LOAD_FAIL. -/
def execLayerLoadFail (obj layer cause : Nat) (s : State) : Host.Outcome State Fault Refusal :=
  match s.loadingLayer obj layer with
  | none => .next s
  | some (o, q) =>
    if s.loadFails o q = some cause then .next (s.applied .layers (·.failLoading o q cause)) else .next s

/-! ### The wait limit (R371) -/

/-- LWAIT_TIMEOUT: the focused tile's waiting `lwait` has waited beyond its limit: swap-timeout at its bundle, with the layer in
cr.einfo. `iss` is that of the bundle that waits. -/
def execLwaitTimeout (s : State) : Host.Outcome State Fault Refusal :=
  if s.tile.stat = .running ∧ s.tile.waitedOut = true ∧ s.iss.pc = s.tile.core.pc then
    match decodeWord s.iss.raw with
    | .ok (.lwait o) => .next (s.enterTrap .swapTimeout s.tile.core.pc (s.tile.core.reg o.a) 0 s.iss.word s.iss.len 0)
    | _ => .next s
  else .next s

end Sys2Proof.Machine
end

