-- ==== Sys2Proof/Machine/Mynyx.lean ====
section
/-! DEFINITION. Voted machines (R393, R431), the command processors (R397 to R405), launches and their binding (R21, R118 to
R125, R136, R394, R400), and the commands that act at once. -/

namespace Sys2Proof.Machine

/-- RESYNC_COMPLETE: TRIPLEX again; a second soft error on the way stops the machine. -/
def execResyncComplete (m : Nat) (s : State) : Host.Outcome State Fault Refusal :=
  let x := s.dev.machine m
  if x.state = .resync then
    if x.struck = 0 then
      let s := s.setMachine { x with state := .triplex }
      .next { s with dev := { s.dev with vres := s.dev.vres + 1 } }
    else .next (s.stopMachine x)
  else .next s

/-! ### Budget windows (R396) -/

/-- BUDGET_WINDOW: the shares in force at a resource are, from its window boundary on, those last commanded. -/
def execBudgetWindow (r : Nat) (s : State) : Host.Outcome State Fault Refusal :=
  .next { s with dev := { s.dev with windows := (r, s.dev.shares) :: s.dev.windows.filter fun p => decide (p.1 ≠ r) } }

/-! ### Commands (R399, R400, R404) -/

def Cmd.typ (c : Cmd) : Nat := c.word 0 % 256
def Cmd.sub (c : Cmd) : Nat := c.word 0 / 2 ^ 16 % 256
def Cmd.ord (c : Cmd) : Bool := c.word 0 / 2 ^ 9 % 2 = 1

/-- A command of a TYPE and SUB that the tables name (R400, R401). -/
def Cmd.known (c : Cmd) : Bool :=
  decide (1 ≤ c.typ) && decide (c.typ ≤ 8) && (c.typ ≠ 5 || decide (c.sub ≤ 2)) && (c.typ ≠ 6 || decide (c.sub ≤ 13))

def allBits : Nat := 0xFFFFFFFF

/-- The bits of the words of the body, from 0x10 on, that a command's fields occupy (R400, R402). -/
def bodyMasks (typ sub : Nat) : List Nat :=
  let f := allBits
  match typ, sub with
  | 1, _ => [f, f, f, f, 0x3FFFF, f]
  | 2, _ => [f, f]
  | 3, _ => [f, f, f, f]
  | 4, _ => [f, f, f, f]
  | 5, _ => [f, f, f, f, f]
  | 6, 0 => [0x03FF073F, 0xFFFFF, f, f, f, f, f, f]
  | 6, 1 => [0x3F]
  | 6, 2 => [0xFF]
  | 6, 3 => [0x03FF073F, 0xFFFFF, f, f, f, f, f, f]
  | 6, 4 => [f, f, 0, 0, 0, 0, 0, 0, 0, 0, f, f]
  | 6, 5 => [0xFF]
  | 6, 6 => [0x33F, f, f]
  | 6, 7 => [0x3F, 0xFFFFF, 0xFFFFF, 0, f, f]
  | 6, 8 => [0x3F, f, 0, 0, 0, 0, 0, 0, 0, 0, f, f]
  | 6, 9 => [0xFF]
  | 6, 10 => [f, f]
  | 6, 11 => [0xFFFFF, 0, f, f, f, f]
  | 6, 12 => [0x3F, 0x1FF, 0xFF, 1]
  | 6, 13 => [f, f, 0x1F]
  | 7, _ => [0xF]
  | _, _ => []

/-- No reserved bit of the command is set (R403). -/
def Cmd.bodyOk (c : Cmd) : Bool :=
  decide (c.word 0 &&& 0xFF00FC00 = 0) && decide (c.word 4 = 0) &&
    (List.range 12).all fun i => decide (c.word (0x10 + 4 * i) &&& (allBits - (bodyMasks c.typ c.sub).getD i 0) = 0)

/-- Whether the ladder keeps a queue's commands from starting (R407, R408). -/
def State.laddered (s : State) (x : Queue) : Bool :=
  x.num ≠ 0 && ((s.ctx? x.ctx).map fun c => decide (c.state ≠ .run)).getD true

/-- Whether an earlier command of the queue keeps a later one from starting: one that has not started itself, but for a
SIGNAL waiting to act; a WAIT, a FENCE, or a POWER held by a thermal trip (R404, R433). -/
def Cmd.holds (e : Cmd) (tripped : Bool) : Bool :=
  e.state ≠ .done && ((e.state = .fetched && !(e.typ = 3 && !e.ord)) || e.typ = 4 || e.typ = 8 || (tripped && e.typ = 7))

def Queue.earlier (x : Queue) (c : Cmd) : List Cmd := x.cmds.filter fun e => decide (e.sq < c.sq)

/-- Every earlier command of the queue has completed. -/
def Queue.clear (x : Queue) (c : Cmd) : Bool := (x.earlier c).all fun e => decide (e.state = .done)

def State.mayStart (s : State) (x : Queue) (c : Cmd) : Bool :=
  decide (s.dev.host.stage = 6) && (decide (x.state = .active) || decide (x.state = .faulted)) && !s.laddered x &&
    decide (c.state = .fetched) && ((x.earlier c).all fun e => !e.holds s.dev.tripped) && (!c.ord || x.clear c)

/-- What a command that starts comes to: it must wait with nothing done, it goes on, or it completes with a status. -/
inductive CmdEnd where
  | hold
  | wait (s : State)
  | done (s : State) (status : Nat)

def CmdEnd.finish (q : Nat) (c : Cmd) (s : State) : CmdEnd → State
  | .hold => s
  | .wait s' => s'
  | .done s' st => s'.completeCmd q c.sq st

/-- Whether a command would wait without a change of anything. -/
def CmdEnd.still (s : State) : CmdEnd → Bool
  | .hold => true
  | .wait s' => decide (s' = s)
  | .done _ _ => false

/-- The machine that carries out a command: the migration engine a COPY, the queue's command processor a SIGNAL, WAIT or FENCE,
firmware the rest. -/
def Cmd.by (c : Cmd) (q : Nat) : Voted :=
  match c.typ with
  | 2 => .migration
  | 3 => .processor q
  | 4 => .processor q
  | 8 => .processor q
  | _ => .firmware

def State.beginCmd (s : State) (q : Nat) (c : Cmd) : State := s.putCmd q { c with state := .started }

/-- A command of a type starts, if it is its turn: status 0x02 where its queue may not give it, 0x01 where it is malformed. -/
def State.doCmd (s : State) (q sq typ : Nat) (sub : Option Nat) (permitted : Queue → Cmd → Bool)
    (go : State → Queue → Cmd → CmdEnd) : Host.Outcome State Fault Refusal :=
  match s.queue? q, s.cmd? q sq with
  | some x, some c =>
    if c.typ = typ ∧ (sub = none ∨ sub = some c.sub) ∧ s.mayStart x c = true then
      if !permitted x c then .next (s.applied (c.by q) (·.completeCmd q sq 2))
      else if !c.bodyOk then .next (s.applied (c.by q) (·.completeCmd q sq 1))
      else if (go (s.beginCmd q c) x c).still s then .next s
      else .next (s.applied (c.by q) fun s => (go (s.beginCmd q c) x c).finish q c s)
    else .next s
  | _, _ => .next s

/-- A started command that waits goes on. -/
def State.againCmd (s : State) (q sq typ : Nat) (go : State → Queue → Cmd → CmdEnd) : Host.Outcome State Fault Refusal :=
  match s.queue? q, s.cmd? q sq with
  | some x, some c =>
    if c.typ = typ ∧ c.state = .started ∧ (go s x c).still s = false then
      .next (s.applied (c.by q) fun s => (go s x c).finish q c s)
    else .next s
  | _, _ => .next s

/-! ### Fetching (R397, R399, R404, R405, R427) -/

/-- The doorbell of a queue (R426). -/
def Device.doorbell (d : Device) (q : Nat) : Nat := ((d.host.dbell.find? fun p => decide (p.1 = q)).map Prod.snd).getD 0

def XErr.fcause : XErr → Nat
  | .invalid => 1
  | .denied => 2

/-- A queue's own context in its event records. -/
def Queue.recCtx (x : Queue) : Nat := if x.num = 0 then noCtx else x.ctx

/-- QUEUE_FAULTED: event 0x23 of the command processor. -/
def State.ringFault (s : State) (x : Queue) (e : XErr) : State :=
  (s.faultQueue x.num e.fcause).srcEvent (0x5000 + x.num) 0x23 (Queue.recCtx x) [nat32 x.num, nat32 e.fcause]

/-- Sixteen words from their bytes. -/
def cmdWords (bs : List Byte) : List Word := (List.range 16).map fun i => BitVec.ofNat 32 (natOfBytes ((bs.drop (4 * i)).take 4))

/-- The place of a queue's command in the device's order of POWERs, where it is one that its queue may give (R432). -/
def Cmd.point (c : Cmd) (x : Queue) : List (Nat × Nat × Nat) :=
  if c.typ = 7 ∧ x.priv = true ∧ c.bodyOk = true then [(x.num, c.sq, c.word 0x10 % 16)] else []

/-- A fetched command joins its queue; a POWER takes its place in the device's order (R432). -/
def State.takeCmd (s : State) (x : Queue) (bs : List Byte) : State :=
  let c : Cmd := ⟨x.head, cmdWords bs, .fetched, 0, false, 0, [], 0, none, [], []⟩
  let s := s.putQueue { x with head := x.head + 1, cmds := x.cmds ++ [c] }
  { s with dev := { s.dev with pointNext := s.dev.pointNext ++ c.point x } }

/-- The status of a command that no table names: status 0x02 where CTX is not accepted (R401), 0x01 otherwise. -/
def Cmd.unknownStatus (c : Cmd) (x : Queue) : Nat := if c.typ = 6 ∧ x.priv = false then 2 else 1

/-- The next fetch of a queue, once its machine's output is applied. -/
def State.fetchCmd (s : State) (x : Queue) : State :=
  match s.cmdRead (s.queuePasid x) (x.ring + 64 * (x.head % 2 ^ x.logn)) 64 with
  | .error e => s.ringFault x e
  | .ok bs => s.takeCmd x bs

/-- COMMAND_FETCH: a fetched command of no known kind completes in its turn; otherwise the next command is fetched. -/
def execCommandFetch (q : Nat) (s : State) : Host.Outcome State Fault Refusal :=
  match s.queue? q with
  | none => .next s
  | some x =>
    match x.cmds.find? fun c => !c.known && s.mayStart x c with
    | some c => .next (s.applied (.processor q) (·.completeCmd q c.sq (c.unknownStatus x)))
    | none =>
      if s.dev.host.stage ≠ 6 ∨ x.state ≠ .active ∨ s.laddered x = true ∨
          x.head % 2 ^ x.logn = s.dev.doorbell q % 2 ^ x.logn then .next s
      else .next (s.applied (.processor q) (·.fetchCmd x))

/-! ### Code images (R29, R119) -/

/-- Packets of a code store. -/
def codePackets : Nat := 87381

/-- Places in the code stores that images occupy: those of handlers and of launches. -/
def State.usedCode (s : State) : List (Nat × Nat) :=
  s.dev.ctxs.map (fun c => (c.hBase, c.hBase + c.hSize)) ++
    s.dev.launches.map fun l => (l.task.imgBase, l.task.imgBase + l.task.imgSize)

/-- The first place for an image among used ones. -/
def roomAmong (used : List (Nat × Nat)) (size : Nat) : Option Nat :=
  (0 :: used.map Prod.snd).find? fun b =>
    decide (b + size ≤ codePackets) && !(used.any fun r => decide (b < r.2) && decide (r.1 < b + size))

/-- The image base that the firmware chooses for an image: the first place free in every code store. -/
def State.codeRoom (s : State) (size : Nat) : Option Nat := roomAmong s.usedCode size

/-- An image written into the code stores of some clusters. -/
def State.placeCode (s : State) (clusters : List Nat) (base : Nat) (bs : List Byte) : State :=
  { s with dev := { s.dev with code := clusters.foldl (fun m cl => m.write (codeStore cl + 12 * base) bs) s.dev.code } }

/-- The clusters that hold some logical tiles of a context. -/
def State.clustersOf (s : State) (ctx : Nat) (ls : List Nat) : List Nat :=
  (ls.filterMap fun l => (s.logical ctx l).map fun t => t.phys / 16).eraseDups

/-! ### The launch header (R120, R121, R124) -/

/-- The device's feature mask, cr.fmask and cr.fmaskh (R124, R379). -/
def featureMask : Nat := 0x7F

/-- n bytes at an offset. -/
def fieldAt (bs : List Byte) (off n : Nat) : Nat := natOfBytes ((bs.drop off).take n)

/-- Fields of a header (R120). -/
structure Header where
  ver : Nat
  rlen : Nat
  skew : Nat
  entry : Nat
  size : Nat
  widths : List Nat
  sregs : Nat
  lrows : Nat
  strms : Nat
  tregs : Nat
  jobs : Nat
  spad : Nat
  bars : Nat
  sctx : Nat
  feat : Nat
  reserved : Bool
deriving DecidableEq, Repr

/-- The reserved bits of the header's words. -/
def headerReserved : List Nat :=
  [0xFF000000, 0xFFF00000, 0xFFF00000, allBits, 0, 0xFFFFFC00, 0, 0xFFFFFF00, 0, 0xFFFF0000, 0xFFFF0000, allBits, 0, 0,
    allBits, allBits]

def Header.ofBytes (bs : List Byte) : Header :=
  let w := fieldAt bs 0x10 8
  { ver := fieldAt bs 0 1
    rlen := fieldAt bs 1 1
    skew := fieldAt bs 2 1
    entry := fieldAt bs 4 4 % 2 ^ 20
    size := fieldAt bs 8 4 % 2 ^ 20
    widths := (List.range 6).map fun i => w / 2 ^ (7 * i) % 128
    sregs := fieldAt bs 0x18 1
    lrows := fieldAt bs 0x19 1
    strms := fieldAt bs 0x1A 1
    tregs := fieldAt bs 0x1B 1
    jobs := fieldAt bs 0x1C 1
    spad := fieldAt bs 0x20 4
    bars := fieldAt bs 0x24 2
    sctx := fieldAt bs 0x28 2
    feat := fieldAt bs 0x30 8
    reserved := (List.range 16).any fun i => decide (fieldAt bs (4 * i) 4 &&& headerReserved.getD i 0 ≠ 0) }

def Header.total (h : Header) : Nat := h.widths.foldl (· + ·) 0

/-- Whether a declaration lies outside the range of R120. -/
def Header.badDecl (h : Header) : Bool :=
  h.sregs = 0 || decide (64 < h.sregs) || decide (16 < h.lrows) || decide (12 < h.strms) || decide (8 < h.tregs) ||
    h.jobs = 0 || decide (96 < h.jobs) || h.spad % 64 ≠ 0 || decide (0x180000 < h.spad)

/-- The status that refuses a header for an identifier count: 0x04 for the FEAT row alone, else 0x03 (R121). -/
def Header.refused (h : Header) (n : Nat) : Option Nat :=
  if h.ver ≠ 1 || h.reserved || (h.widths.any fun w => decide (64 < w)) || decide (64 < h.total) ||
      (decide (h.total < 64) && decide (2 ^ h.total < n)) || h.badDecl || decide (h.spad < 16 * h.bars) ||
      decide (h.size ≤ h.entry) || decide (codePackets < h.size) || h.rlen = 0 || decide (16 < h.rlen) ||
      (h.skew ≠ 0 && h.rlen = 1) || (decide (1 < h.rlen) && h.feat.testBit 5) then some 3
  else if h.feat &&& featureMask ≠ h.feat then some 4
  else none

/-- What the tasks of a launch share (R118, R123). -/
def Header.task (h : Header) (q sq : Nat) (sup : Bool) (base : Nat) : Task where
  q := q
  sq := sq
  spawned := false
  supLaunch := sup
  wid := 0
  wf := Vector.replicate 6 0
  rank := 0
  rlen := h.rlen
  skew := h.skew
  sregs := h.sregs
  lrows := h.lrows
  strms := h.strms
  tregs := h.tregs
  jobs := h.jobs
  spad := h.spad
  bars := h.bars
  sctx := h.sctx
  feat := BitVec.ofNat 64 h.feat
  imgBase := base
  imgSize := h.size
  trigDone := false

/-! ### LAUNCH (R21, R119, R394, R400) -/

/-- Whether logical tiles l to l + n − 1 stand on consecutive tiles of one cluster (R125). -/
def State.isRun (s : State) (ctx l n : Nat) : Bool :=
  match s.logical ctx l with
  | none => false
  | some t => (List.range n).all fun k =>
      ((s.logical ctx (l + k)).map fun u => decide (u.phys = t.phys + k) && decide (u.phys / 16 = t.phys / 16)).getD false

/-- The first tiles of the runs among logical tiles l to n − 1, the lowest first and none overlapping. -/
def State.runsFrom (s : State) (ctx len n : Nat) : Nat → Nat → List Nat
  | 0, _ => []
  | fuel + 1, l =>
    if n < l + len then []
    else if s.isRun ctx l len then l :: s.runsFrom ctx len n fuel (l + len)
    else s.runsFrom ctx len n fuel (l + 1)

/-- The tiles or ribbons that the firmware lists: the lowest logical tiles of the context (R394). -/
def State.placements (s : State) (ctx tiles rlen : Nat) : List Nat :=
  if rlen ≤ 1 then List.range tiles else s.runsFrom ctx rlen tiles tiles 0

/-- Bind records of a launch, in its list's order (R394). -/
def State.bindsOf (s : State) (ctx seq rlen : Nat) (list : List Nat) : List Bind :=
  list.zipIdx.flatMap fun p => (List.range rlen).filterMap fun k => (s.logical ctx (p.1 + k)).map fun t =>
    ⟨t.phys, p.1 + k, ctx, true, if k = 0 then rlen - 1 else 0, seq % (2 ^ 32 - 1), p.2⟩

/-- The spad and near sections of a launch block lie in the scratchpad and in the near store, which cannot hold more (R9, R119). -/
def sectionsOk (lb : List Byte) : Bool :=
  let spad := fieldAt lb 0x58 4
  let near := fieldAt lb 0x5C 4
  (spad = 0 || decide (fieldAt lb 0x60 4 + spad ≤ 0x180000)) &&
    (near = 0 || (decide (0x80000000 ≤ fieldAt lb 0x64 4) && decide (fieldAt lb 0x64 4 + near ≤ 2 ^ 32)))

/-- Bytes put into the scratchpad of a tile from outside its program (R138). -/
def State.placeSpad (s : State) (ctx base : Nat) (bs : List Byte) (l : Nat) : State :=
  match s.logical ctx l with
  | some t => s.putTile ((t.setWin base bs).noteExt base bs.length)
  | none => s

/-- Bytes put into the near store. -/
def State.placeNear (s : State) (base : Nat) (bs : List Byte) : State :=
  { s with dev := { s.dev with near := s.dev.near.write base bs } }

/-- The launch starts: its spad image into every tile that it may bind, once each, and its near image (R119). -/
def State.beginLaunch (s : State) (l : Launch) : Option State :=
  let pasid := ((s.ctx? l.ctx).map (·.pasid)).getD 0
  match s.cmdRead pasid l.image.spadVa l.image.spadSz, s.cmdRead pasid l.image.nearVa l.image.nearSz with
  | .ok spad, .ok near =>
    let s := l.allTiles.foldl (fun s t => s.placeSpad l.ctx l.image.spadBase spad t) s
    let s := s.placeNear l.image.nearBase near
    some (s.setLaunch { l with started := true })
  | _, _ => none

/-- Whether the launch that a launch depends on has met R136: every identifier has triggered or halted, or it has
completed (R400). -/
def State.depMet (s : State) (l : Launch) : Bool :=
  match l.dep with
  | none => true
  | some d => match s.launch? l.q d with
    | some p => decide (p.n ≤ p.met)
    | none => true

/-- Whether a context runs, so that what the ladder keeps from starting may start (R407, R408). -/
def State.ctxRuns (s : State) (ctx : Nat) : Bool := ((s.ctx? ctx).map fun c => decide (c.state = .run)).getD false

/-- A launch whose dependence is met starts, or completes with status 0x06 where its images cannot be read. -/
def State.tryBegin (s : State) (l : Launch) : State :=
  if l.started = false ∧ s.depMet l = true then
    match s.beginLaunch l with
    | some s' => s'
    | none => (s.dropLaunch l).completeCmd l.q l.sq 6
  else s

/-- DEPSEQ names an earlier LAUNCH of the same queue. -/
def Queue.depOk (x : Queue) (c : Cmd) : Bool :=
  c.word 0x20 / 2 ^ 17 % 2 = 0 ||
    (decide (c.word 0x24 < c.sq) && x.cmds.any fun e => decide (e.sq = c.word 0x24) && decide (e.typ = 1))

/-- A LAUNCH whose header was accepted: tiles, code image, bind records. -/
def State.placeLaunch (s : State) (x : Queue) (c : Cmd) (ctx : Ctx) (lb : List Byte) : CmdEnd :=
  let h := Header.ofBytes lb
  let k := c.word 0x20 % 65536
  let list := s.placements ctx.num (if k = 0 then ctx.ntile else k) h.rlen
  if ctx.ntile < k ∨ list.isEmpty = true then .done s 5
  else
    match s.cmdRead ctx.pasid (fieldAt lb 0x40 8) (12 * h.size) with
    | .error _ => .done s 6
    | .ok code =>
      let binds := s.bindsOf ctx.num s.dev.lseq h.rlen list
      match s.codeRoom h.size with
      | none => .hold
      | some base =>
        if 4096 < s.dev.binds.length + binds.length then .hold
        else
          let l : Launch := {
            q := x.num
            sq := c.sq
            ctx := ctx.num
            lseq := s.dev.lseq
            freed := []
            task := h.task x.num c.sq (c.word 0x20 / 2 ^ 16 % 2 = 1) base
            entry := BitVec.ofNat 20 h.entry
            n := c.dword 0x18
            next := 0
            list := list
            live := 0
            met := 0
            dep := if c.word 0x20 / 2 ^ 17 % 2 = 1 then some (c.word 0x24) else none
            started := false
            widths := h.widths
            image := ⟨fieldAt lb 0x48 8, fieldAt lb 0x50 8, fieldAt lb 0x58 4, fieldAt lb 0x5C 4, fieldAt lb 0x60 4,
              fieldAt lb 0x64 4⟩ }
          let s1 := s.placeCode (s.clustersOf ctx.num l.allTiles) base code
          let s2 : State := { s1 with dev := { s1.dev with 
            launches := s1.dev.launches ++ [l]
            lseq := s1.dev.lseq + 1
            binds := s1.dev.binds ++ binds } }
          .wait (s2.tryBegin l)

/-- LAUNCH: it starts, or, started and over, completes. -/
def execLaunch (q sq : Nat) (s : State) : Host.Outcome State Fault Refusal :=
  if (s.launch? q sq).isSome then .next (s.checkLaunch q sq)
  else s.doCmd q sq 1 none (fun x c => x.num ≠ 0 && (x.priv || c.word 0x20 / 2 ^ 16 % 2 = 0)) fun s x c =>
    let lbva := c.dword 0x10
    match s.ctx? x.ctx with
    | none => .done s 1
    | some ctx =>
      if !x.depOk c ∨ lbva % 8 ≠ 0 then .done s 1
      else
        match s.cmdRead ctx.pasid lbva 0x68 with
        | .error _ => .done s 6
        | .ok lb =>
          match (Header.ofBytes lb).refused (c.dword 0x18) with
          | some st => .done s st
          | none => if !sectionsOk lb then .done s 1 else if c.dword 0x18 = 0 then .done s 0 else s.placeLaunch x c ctx lb

/-- LAUNCH_DEPENDENT_START: the l-th launch. -/
def execLaunchDependentStart (l : Nat) (s : State) : Host.Outcome State Fault Refusal :=
  match s.dev.launches[l]? with
  | none => .next s
  | some x => .next (if x.started = false ∧ s.depMet x = true ∧ s.ctxRuns x.ctx = true then s.applied .firmware (·.tryBegin x) else s)

/-! ### Binding (R22, R122, R125, R394) -/

/-- The fields of an identifier, each cut to 32 bits (R122). -/
def widFields (i : Nat) : List Nat → List Word
  | [] => []
  | w :: ws => nat32 (i % 2 ^ w) :: widFields (i / 2 ^ w) ws

/-- The bind records of a list position of a launch, rank 0's first (R394). -/
def State.bindRecords (s : State) (l : Launch) (i : Nat) : List Bind :=
  s.dev.binds.filter fun b => b.v && decide (b.ctx = l.ctx) && (decide (b.lseq = l.recSeq) || decide (b.lseq = allBits)) &&
    decide (b.ord = i)

/-- Whether physical tiles are consecutive in raster order, and of one cluster (R125). -/
def aRun : List Nat → Bool
  | [] => false
  | p :: l => decide (l = (List.range l.length).map (p + 1 + ·)) && l.all (near0 p)

/-- The tiles that the records of a list position name, if they are a run and all of them idle (R20, R125). -/
def State.idleAt (s : State) (l : Launch) (i : Nat) : Option (List Tile) :=
  let bs := s.bindRecords l i
  let ts := bs.map fun b => s.getTile b.ptile
  match bs with
  | [] => none
  | b :: _ =>
    if bs.length = b.rl + 1 ∧ aRun (ts.map (·.phys)) = true ∧ ts.all (fun t => s.isIdle t && t.boundTo l.ctx) = true then some ts
    else none

/-- Where the next identifier goes: to its own list position once that is idle, or, past the list, to the position that became idle
first since the last identifier was bound (R394). One whose position is no run of tiles any more, a tile of it having been moved, goes to
the first that is an idle run (R125). -/
def State.bindPlace (s : State) (l : Launch) : Option (Nat × List Tile) :=
  let place (i : Nat) : Option (Nat × List Tile) := (s.idleAt l i).map fun ts => (i, ts)
  let n := l.list.length
  if n ≤ l.next then l.freed.findSome? place
  else if aRun ((s.bindRecords l l.next).map (·.ptile)) then place l.next
  else (List.range n).findSome? place

/-- The next identifier starts on its tiles. -/
def State.bindTask (s : State) (l : Launch) (ts : List Tile) : State :=
  let fs := widFields l.next l.widths
  let task : Task := { l.task with wid := BitVec.ofNat 64 l.next, wf := Vector.ofFn fun i => fs.getD i.val 0 }
  let s := ts.zipIdx.foldl (fun s p => s.startTask p.1.phys { task with rank := p.2 } l.entry []) s
  let s := s.setLaunch { l with next := l.next + 1, live := l.live + ts.length, freed := [] }
  if l.task.rlen ≤ 1 then s
  else { s with dev := { s.dev with ribbons := s.dev.ribbons ++ [⟨ts.map (·.phys), l.task.skew, RClock.zero, RClock.zero⟩] } }

/-- TASK_BIND: the next identifier of the l-th launch. -/
def execTaskBind (l : Nat) (s : State) : Host.Outcome State Fault Refusal :=
  match s.dev.launches[l]? with
  | none => .next s
  | some x =>
    if x.started = true ∧ x.next < x.n ∧ s.ctxRuns x.ctx = true then
      match s.bindPlace x with
      | some (_, ts) => .next (s.applied .dispatch (·.bindTask x ts))
      | none => .next s
    else .next s

/-! ### COPY (R400, R406) -/

/-- The pages that the job still misses are walked; the first address with an invalid leaf is in the answer. An entry that cannot be
corrected ends the job with status 4 (R428). -/
def State.gatherGo (s : State) (t : Tile) : Nat → Job → Job × Option (Nat × Bool)
  | 0, j => (j, none)
  | n + 1, j =>
    match s.jobMiss t j with
    | none => (j, none)
    | some (va, wr) =>
      if s.walkBad t.pasid.toNat va then ({ j with status := if j.status = 0 then 4 else j.status }, none)
      else match s.walk t.pasid.toNat va with
      | some e => s.gatherGo t n { j with xl := e :: j.xl }
      | none => (j, some (va, wr))

/-- A COPY parks: event 0x10 of the migration engine (R406, R414). -/
def State.parkCopy (s : State) (x : Queue) (c : Cmd) (t : Tile) (va : Nat) (wr : Bool) : State :=
  (s.putCmd x.num { c with state := .started, parked := true }).srcEvent 0x7000 0x10 t.ctx
    [nat32 (va % 2 ^ 32), nat32 (va / 2 ^ 32 % 2 ^ 25 + if wr then 2 ^ 31 else 0),
     nat32 (t.pasid.toNat + 0x1FF * 2 ^ 20), nat32 (x.num % 256)]

/-- A COPY with every page translated goes on as a copy job does (R234, R241, R413). -/
def State.moveCopy (s : State) (x : Queue) (c : Cmd) (t : Tile) (j : Job) : CmdEnd :=
  let s := s.noteDown t j
  match s.copyEnd t j j.cardOf with
  | .wait => .wait s
  | .send s' k =>
    let s1 := s'.putCmd x.num { c with state := .started, early := k.status, acks := k.acks, phase := k.phase, frame := k.frame, asked := k.asked, sent := k.sent }
    .wait (if k.phase = 2 ∧ k.status = 0 then s.spoilCopy s1 t j else s1)
  | .done s' 0 => .done (if j.phase = 2 then s' else s.spoilCopy s' t j) 0
  | .done s' st => .done s' st

/-- A COPY runs: its card read and checked, its pages walked, its elements moved. -/
def State.runCopy (s : State) (x : Queue) (c : Cmd) : CmdEnd :=
  match s.ctx? x.ctx with
  | none => .done s 1
  | some ctx =>
    let va := c.dword 0x10
    if va % 16 ≠ 0 then .done s 9
    else
      if s.cmdBad ctx.pasid va 128 then .done s 4
      else match s.cmdRead ctx.pasid va 128 with
      | .error _ => .done s 6
      | .ok bs =>
        let t := s.migrator ctx
        let s : State := { s with free := s.free + 2 }
        let j := migrationJob x.num c ((List.range 32).map fun i => nat32 (fieldAt bs (4 * i) 4))
        if j.cardOf.refused .cpy [] then .done s 9
        else
          match s.gatherGo t (t.jobTouches j).length j with
          | (j, some (va, wr)) =>
            if c.early ≠ 0 then .done ((s.undefDest t j).completionActs t j j.cardOf j.cardOf.destBytes) c.early
            else .wait (s.parkCopy x c t va wr)
          | (j, none) =>
            let s : State := { s with dev := { s.dev with xtlb := j.xl.foldl (installTlb l1Cap) s.dev.xtlb } }
            s.moveCopy x c t j

/-- Whether the jobs of a queue's context go on: they stand still from the Save rung to the restore (R245, R408). -/
def State.jobsRun (s : State) (q : Nat) : Bool :=
  (((s.queue? q).bind fun x => s.ctx? x.ctx).map fun c => decide (c.state = .run) || decide (c.state = .drain)).getD false

/-- COPY: it starts, or, its fault answered or its answers in, goes on while its context runs or drains. -/
def execCopy (q sq : Nat) (s : State) : Host.Outcome State Fault Refusal :=
  match s.cmd? q sq with
  | some c =>
    if c.state = .started then if c.parked || !s.jobsRun q then .next s else s.againCmd q sq 2 State.runCopy
    else s.doCmd q sq 2 none (fun x _ => x.num ≠ 0) State.runCopy
  | none => .next s

/-! ### SIGNAL, WAIT, FENCE (R400, R404) -/

/-- SIGNAL, once every earlier command has completed. -/
def execSignal (q sq : Nat) (s : State) : Host.Outcome State Fault Refusal :=
  s.doCmd q sq 3 none (fun _ _ => true) fun s x c =>
    let va := c.dword 0x10
    if !x.clear c then .hold
    else if va % 8 ≠ 0 then .done s 1
    else
      match s.cmdNat (s.queuePasid x) va 8 with
      | .error _ => .done s 6
      | .ok v =>
        match s.cmdWrite (s.queuePasid x) va (bytesOfNat 8 ((v + c.dword 0x18) % 2 ^ 64)) with
        | .error _ => .done s 6
        | .ok s' => .done s' 0

/-- What a WAIT finds. -/
def State.lookAt (s : State) (x : Queue) (c : Cmd) : CmdEnd :=
  let va := c.dword 0x10
  if va % 8 ≠ 0 then .done s 1
  else
    match s.cmdNat (s.queuePasid x) va 8 with
    | .error _ => .done s 6
    | .ok v => if c.dword 0x18 ≤ v then .done s 0 else .wait s

/-- WAIT starts. -/
def execWait (q sq : Nat) (s : State) : Host.Outcome State Fault Refusal := s.doCmd q sq 4 none (fun _ _ => true) State.lookAt

/-- WAIT_SATISFIED: a waiting WAIT finds its counter at its value or above. -/
def execWaitSatisfied (q sq : Nat) (s : State) : Host.Outcome State Fault Refusal := s.againCmd q sq 4 State.lookAt

/-- FENCE, once every earlier command has completed. -/
def execFence (q sq : Nat) (s : State) : Host.Outcome State Fault Refusal :=
  s.doCmd q sq 8 none (fun _ _ => true) fun s x c => if x.clear c then .done s 0 else .hold

/-! ### TREE (R323, R324, R327, R400) -/

/-- n bytes of the near store as Mynyx reads them: undefined where a word is uncorrectable. -/
def State.nearByte (s : State) (a : Nat) : Byte :=
  if (s.dev.near.badWord a 1).isSome then Config.freeByte s.free a else s.dev.near.readByte a

/-- Bytes of a context's near store. -/
def State.nearRange (s : State) (ctx a n : Nat) : Bool :=
  decide (0x80000000 ≤ a) && decide (a + n ≤ 2 ^ 32) && s.nearOk ctx a n false

/-- A result word at its VA; none written at VA 0 (R402). -/
def State.putResult (s : State) (x : Queue) (va v : Nat) : State := if va = 0 then s else s.cmdStore8 (s.queuePasid x) va v

/-- The status that refuses a result VA: misaligned, or not writable. -/
def State.resultBad (s : State) (x : Queue) (va : Nat) : Option Nat :=
  if va % 8 ≠ 0 then some 1
  else if va = 0 then none
  else match s.cmdCheck (s.queuePasid x) va true 8 with
    | .error _ => some 6
    | .ok _ => none

/-- A TREE may name its queue's own context, on a queue with PRIV any (R400). -/
def treePermitted (x : Queue) (c : Cmd) : Bool := x.priv || c.word 0x20 = x.ctx

/-- The checks that the TREE commands share, then the operation: its result, whether it succeeded, and the state. -/
def State.treeCmd (s : State) (x : Queue) (c : Cmd) (desc : Bool) (go : State → Nat → List Byte → Word × Bool × State) : CmdEnd :=
  let ctx := c.word 0x20
  let a := c.word 0x10
  let va := c.dword 0x18
  match s.ctx? ctx, s.resultBad x va with
  | none, _ => .done s 1
  | _, some st => .done s st
  | some _, none =>
    if desc ∧ a % 64 ≠ 0 then .done s 1
    else if desc ∧ !s.nearRange ctx a 64 then .done s 6
    else
      let r := go s ctx ((List.range 64).map fun i => s.nearByte (a + i))
      .done (r.2.2.putResult x va r.1.toNat) (if r.2.1 then 0 else 9)

/-- TREE make, as `hmk`: a handle, never below 0x1000, or a code. -/
def execTreeMake (q sq : Nat) (s : State) : Host.Outcome State Fault Refusal :=
  s.doCmd q sq 5 (some 0) treePermitted fun s x c => s.treeCmd x c true fun s ctx bs =>
    let r := s.makeTree ctx bs s.nearByte (s.nearRange ctx)
    (r.1, decide (0x1000 ≤ r.1.toNat), r.2)

/-- TREE edit, as `hedit`. -/
def execTreeEdit (q sq : Nat) (s : State) : Host.Outcome State Fault Refusal :=
  s.doCmd q sq 5 (some 1) treePermitted fun s x c => s.treeCmd x c true fun s ctx bs =>
    let r := s.editTree ctx (nat32 (c.word 0x14)) bs s.nearByte (s.nearRange ctx)
    (r.1, decide (r.1 = 0), r.2)

/-- TREE free, as `hfree`. -/
def execTreeFree (q sq : Nat) (s : State) : Host.Outcome State Fault Refusal :=
  s.doCmd q sq 5 (some 2) treePermitted fun s x c => s.treeCmd x c false fun s ctx _ =>
    let r := s.freeHandle ctx (nat32 (c.word 0x14))
    (r.1, decide (r.1 = 0), r.2)

/-! ### POWER (R432) -/

/-- POWER starts; it completes when its point is in force. -/
def execPower (q sq : Nat) (s : State) : Host.Outcome State Fault Refusal :=
  s.doCmd q sq 7 none (fun x _ => x.priv) fun s _ _ => .wait s

end Sys2Proof.Machine
end

