-- ==== Sys2Proof/Machine/Contexts.lean ====
section
/-! DEFINITION. The CTX commands (R401, R402, R406, R415), the pre-emption ladder (R407, R408) and the end of a context (R410,
R411). -/

namespace Sys2Proof.Machine

/-- A CTX command of a sub-operation: only on a queue with PRIV (R401). -/
def State.ctxCmd (s : State) (q sq sub : Nat) (go : State → Queue → Cmd → CmdEnd) : Host.Outcome State Fault Refusal :=
  s.doCmd q sq 6 (some sub) (fun x _ => x.priv) go

/-- Done where a condition holds, malformed elsewhere. -/
def doneIf (ok : Bool) (s s' : State) : CmdEnd := if ok then .done s' 0 else .done s 1

/-- A context that runs, by the number in a command (R403). -/
def State.runningCtx (s : State) (ctx : Nat) : Option Ctx := (s.ctx? ctx).bind fun c => if c.state = .run then some c else none

/-! ### CREATE -/

/-- A context as CTX CREATE makes it. -/
def Ctx.create (c : Cmd) (savePasid ntile : Nat) : Ctx where
  num := c.word 0x10 % 64
  pasid := c.word 0x14
  ptroot := c.dword 0x18
  savePasid := savePasid
  saveVa := c.dword 0x20
  saveSz := c.dword 0x28
  cls := c.word 0x10 / 2 ^ 8 % 8
  ntile := ntile
  grants := Vector.replicate 16 ⟨0, 0, 0⟩
  alloc := Vector.replicate 4 (0, 0)
  hBase := 0
  hSize := 0
  tvec := noHandler
  state := .run
  rung := 0
  t1 := 0
  t2 := 0
  endCause := 0
  waiters := []
  saveSeed := 0
  savePages := []
  saved := []
  savedRibs := []
  savedNear := Mem.empty
  answers := []
  flits := []
  doom := none

/-- A tile of the pool bound to a context as logical tile l. -/
def Tile.bindTo (t : Tile) (c : Ctx) (l : Nat) : Tile :=
  { t with
    stat := .idle
    ctx := c.num
    ltile := l
    ntile := c.ntile
    ctxn := BitVec.ofNat 6 c.num
    pasid := BitVec.ofNat 20 c.pasid
    tvec := c.tvec }

/-- Fields of CREATE and RESTORE that must be aligned. -/
def Cmd.rootsOk (c : Cmd) : Bool := c.dword 0x18 % 4096 = 0 && c.dword 0x20 % 4096 = 0

/-- CREATE: the lowest free tiles of the pool become logical tiles 0, 1, …. -/
def execCtxCreate (q sq : Nat) (s : State) : Host.Outcome State Fault Refusal :=
  s.ctxCmd q sq 0 fun s x c =>
    let n := c.word 0x10 / 2 ^ 16 % 1024
    if n = 0 ∨ 512 < n ∨ !c.rootsOk ∨ (s.ctx? (c.word 0x10 % 64)).isSome = true then .done s 1
    else if s.poolTiles.length < n then .done s 5
    else
      let cx := Ctx.create c (s.queuePasid x) n
      let s1 : State := { s with dev := { s.dev with ctxs := s.dev.ctxs ++ [cx] } }
      .done ((s.poolTiles.take n).zipIdx.foldl (fun s p => s.putTile ((s.getTile p.1).bindTo cx p.2)) s1) 0

/-! ### DESTROY, PREEMPT -/

/-- A command waits for the ladder or the end of a context. -/
def State.addWaiter (s : State) (ctx q sq : Nat) : State := s.modCtx ctx fun c => { c with waiters := c.waiters ++ [(q, sq)] }

/-- DESTROY: it completes when the context is reclaimed (R410). -/
def execCtxDestroy (q sq : Nat) (s : State) : Host.Outcome State Fault Refusal :=
  s.ctxCmd q sq 1 fun s _ c =>
    let n := c.word 0x10
    match s.ctx? n with
    | none => .done s 1
    | some _ => .wait ((s.addWaiter n q sq).killContext n 8)

/-- A rung is entered: it shows in the status word of every queue of the context. -/
def State.enterRung (s : State) (ctx rung : Nat) (st : CtxState) : State :=
  (s.modCtx ctx fun c => { c with state := st, rung := rung }).modQueuesOf ctx fun x => { x with rung := rung }

/-- The Reset rung: FCAUSE stays as it was (R410). -/
def State.enterReset (s : State) (ctx : Nat) : State :=
  (s.resetRung ctx).killContext ctx 0

/-- The rung after Drain: Save, or Reset where T2 = 0 skips it. -/
def State.afterDrain (s : State) (c : Ctx) : State := if c.t2 = 0 then s.enterReset c.num else s.enterSave c.num

/-- The pre-empt notification, once per running task (R384, R407). -/
def State.notifyAll (s : State) (ctx : Nat) : State :=
  (s.tilesOf ctx).foldl (fun s t =>
    if t.stat = .running ∨ t.stat = .halting then s.modTile t.phys fun u => { u with notes := u.notes ++ [.preempt] } else s) s

/-- PREEMPT: the ladder of the context of a queue. -/
def execCtxPreempt (q sq : Nat) (s : State) : Host.Outcome State Fault Refusal :=
  s.ctxCmd q sq 2 fun s _ c =>
    match (s.queue? (c.word 0x10)).bind fun x => if x.num = 0 then none else (s.ctx? x.ctx).map fun k => (x, k) with
    | none => .done s 1
    | some (x, k) =>
      if x.state = .dead then .done s 1 else
      match k.state with
      | .preempted => .done s 1
      | .dead => .done s 1
      | .run =>
        if k.saveSz < s.saveNeed k then .done s 8
        else
          let k := { k with t1 := x.t1, t2 := x.t2 }
          let s := (s.modCtx k.num fun _ => k).addWaiter k.num q sq
          .wait (if x.t1 = 0 then s.afterDrain k else ((s.enterRung k.num 1 .drain).notifyAll k.num).checkDrain k.num)
      | _ => .wait (s.addWaiter k.num q sq)

/-! ### The ladder's events (R407, R408) -/

/-- DRAIN_TIMEOUT: T1 expires; the timers stand still during a thermal trip (R433). -/
def execDrainTimeout (ctx : Nat) (s : State) : Host.Outcome State Fault Refusal :=
  match s.ctx? ctx with
  | some c => if c.state = .drain ∧ s.dev.tripped = false then .next (s.applied .firmware (·.afterDrain c)) else .next s
  | none => .next s

/-- SAVE_TIMEOUT: T2 expires. -/
def execSaveTimeout (ctx : Nat) (s : State) : Host.Outcome State Fault Refusal :=
  match s.ctx? ctx with
  | some c => if c.state = .save ∧ s.dev.tripped = false then .next (s.applied .firmware (·.enterReset ctx)) else .next s
  | none => .next s

/-- The jobs of a tile, by number, that cannot end before the host answers a fault: those that are parked, and those that wait for
one of them (R355). -/
def Tile.stuck (t : Tile) : List Nat :=
  t.jobs.foldl (fun l j =>
    if j.state = .parked ∨ (j.state = .waiting ∧ j.edges.any l.contains = true) then l ++ [j.sq] else l) []

/-- Whether a released fabric operation of a tile must still complete before the tile is saved; one that is stuck is saved as it
stands (R355). -/
def Tile.fabricBusy (t : Tile) : Bool :=
  t.jobs.any fun j => !t.stuck.contains j.sq && (decide (j.state = .waiting) || decide (j.state = .running)) &&
    match j.kind with
    | .xst _ _ _ _ => true
    | .xatom _ _ _ _ => true
    | _ => false

/-- Whether a result awaited from another engine is that of a stuck fabric operation. -/
def Tile.stuckLoad (t : Tile) (l : PLoad) : Bool :=
  match l.src with
  | .xold n => t.stuck.contains n
  | .xstatus n => t.stuck.contains n
  | _ => false

/-- Whether a rank of a tile's ribbon waits for a stuck fabric operation, so that it can take no checkpoint. -/
def State.heldUp (s : State) (t : Tile) : Bool :=
  (s.focus t.phys).ranks.any fun p => let u := s.getTile p; u.loads.any u.stuckLoad

/-- A tile of a saving context that must still take its checkpoint, or waits for a result that is on its way. -/
def State.unsaved (s : State) (t : Tile) : Bool :=
  decide (t.stat = .running) && ((!t.ckFresh && !s.heldUp t) || t.loads.any fun l => l.waits && !t.stuckLoad l)

/-- The tiles of a saving context come to bundle boundaries, each at a fresh checkpoint, or, where a parked operation keeps it from
one, with the operations of earlier bundles landed (R382 step 1, R293, R355). -/
def State.settleTiles (s : State) (ctx : Nat) : State :=
  ((s.tilesOf ctx).foldl (fun s t =>
    let u := s.getTile t.phys
    if u.stat = .running ∧ u.ckFresh = false then
      if s.heldUp u then (s.focus u.phys).land1 else (s.focus u.phys).checkpointPoint
    else s) s).focus s.tile.phys

/-- A tile as its image holds it: waits afresh, translations, bytes read from other devices and fetched input vectors left out (R245,
R370, R408). -/
def Tile.image (t : Tile) : Tile :=
  { t with
    lwCount := 0
    lwOn := none
    tlb := []
    jobs := t.jobs.map fun (j : Job) => { j with xl := [], asked := [] }
    core := { t.core with ports := Vector.ofFn fun (i : Fin 12) =>
      let p := t.core.ports[i]
      if p.out then p else { p with fifo := [] } } }

/-- Whether a context's tiles are ready to be saved: no error, no unsaved bundle, no fabric operation left, and no answer of another
device to a job on its way (R245, R355, R409). -/
def State.saveReady (s : State) (ctx : Nat) : Bool :=
  ((s.tilesOf ctx).all fun t =>
    decide (t.recov.phase = .run) && !s.unsaved t && !t.fabricBusy && t.jobs.all fun j => j.acks.isEmpty) && s.copiesQuiet ctx

/-- The words and elements of a tile that the save cannot read, by their addresses in its window (R291, R294). -/
def Tile.badPlaces (t : Tile) : List Nat :=
  t.win.bad ++ t.latBad.map (fun e => 0x1E0000 + 4 * e) ++ t.flintBad.map (fun o => 0x1F2000 + o) ++
    t.wb0.bad.map (fun w => 0x1F4000 + w) ++ t.wb1.bad.map fun w => 0x1F8000 + w

/-- A memory whose uncorrectable words are undefined. -/
def Mem.wiped (m : Mem) (seed : Nat) : Mem := { m.bad.foldl (fun m w => m.undefine w (w + 4) seed) m with bad := [] }

/-- Registers whose elements of bad parity are undefined. -/
def Core.wiped (c : Core) (els : List Nat) (flint : List Nat) (seed : Nat) : Core :=
  { c with
    lat := els.foldl (fun v e =>
      v.setIfInBounds e (BitVec.ofNat 32 (natOfBytes ((List.range 4).map fun i => Config.freeByte seed (0x1E0000 + 4 * e + i))))) c.lat
    flint := flint.foldl (fun f e => (List.range (flintSize e)).foldl (fun f i =>
      let o := e + i
      f.setWord (o / 4 * 4) (setWordByte (f.word (o / 4 * 4)) (o % 4) (Config.freeByte seed (0x1F2000 + o)))) f) c.flint }

/-- A tile as it is saved when parts of it cannot be read. -/
def Tile.wiped (t : Tile) (seed : Nat) : Tile :=
  { t with
    win := t.win.wiped seed
    wb0 := t.wb0.wiped (seed + 1)
    wb1 := t.wb1.wiped (seed + 2)
    ckWb0 := t.ckWb0.wiped (seed + 1)
    ckWb1 := t.ckWb1.wiped (seed + 2)
    core := t.core.wiped t.latBad t.flintBad seed
    ck := t.ck.wiped t.latBad t.flintBad seed
    latBad := []
    flintBad := [] }

/-- One tile goes to the save area; an event record names each place that could not be read, whose bytes are undefined. -/
def State.saveTileImage (s : State) (t : Tile) : State :=
  let s := t.badPlaces.foldl (fun s a => s.tileEvent t 0x12 [nat32 a]) s
  { s.putTile (t.wiped s.free).image with free := s.free + 3 }

/-- The tile images are in the save area, and the context is PREEMPTED at rung 2. -/
def State.saved (s : State) (ctx : Nat) : State :=
  let s1 := (s.tilesOf ctx).foldl State.saveTileImage s
  (s1.preempted ctx 2).fwEvent 0x24 ctx [nat32 ctx, 2]

/-- SAVE_COMPLETE: the save area is complete, at the end of Drain or at the Save rung with event 0x24. -/
def execSaveComplete (ctx : Nat) (s : State) : Host.Outcome State Fault Refusal :=
  match s.ctx? ctx with
  | none => .next s
  | some c =>
    if c.state = .drain then .next (s.checkDrain ctx)
    else if c.state ≠ .save ∨ c.doom ≠ none ∨ s.dev.tripped = true ∨ ((s.tilesOf ctx).any fun t => decide (t.recov.phase ≠ .run)) = true then .next s
    else
      let s1 := s.settleTiles ctx
      if s1.saveReady ctx ∧ s1.saveFits c = true then .next (s1.applied .firmware (·.saved ctx)) else .next s1

/-! ### RESTORE (R407) -/

/-- Whether the image of a saved context, n bytes, stands at an address: every byte as it was saved. -/
def State.saveStands (s : State) (pasid va : Nat) (c : Ctx) (n : Nat) : Bool :=
  (pagesFrom va n).zipIdx.all fun p =>
    match s.cmdLoc pasid p.1 false with
    | .error _ => false
    | .ok l => match s.dev.locMem l with
      | none => false
      | some (m, a) => (List.range 4096).all fun i =>
          decide (m.readByte (a + i) = Config.freeByte c.saveSeed (c.savePages.getD p.2 0 + i))

/-- The saved context whose image stands at an address. -/
def State.savedAt (s : State) (pasid va : Nat) : Option Ctx :=
  s.dev.ctxs.find? fun c => decide (c.state = .preempted) && s.saveStands pasid va c (s.saveNeed c)

/-- The image that stands at an address, of a context that another device has saved, or that is not PREEMPTED here any more. -/
def State.broughtAt (s : State) (pasid va : Nat) : Option SavedImage :=
  s.dev.brought.reverse.find? fun i => s.saveStands pasid va i.ctx (i.ctx.saveBytes i.trees)

/-- Numbers of tiles given to ribbons, each the first run of free tiles that holds it. -/
def placeRuns : List Nat → List Nat → Option (List (List Nat) × List Nat)
  | free, [] => some ([], free)
  | free, n :: ns =>
    match (runsAmong free n).head? with
    | none => none
    | some r => (placeRuns (free.filter fun p => !r.contains p) ns).map fun x => (r :: x.1, x.2)

/-- The tiles of the ranks whose task has not ended. -/
def Ribbon.live (r : Ribbon) : List Nat := r.tiles.filter fun p => decide (p ≠ endedRank)

/-- A placement of the saved tiles: pairs of an old and a new physical number. -/
def State.placement (s : State) (c : Ctx) : Option (List (Nat × Nat)) :=
  (placeRuns s.poolTiles (c.savedRibs.map fun r => r.live.length)).bind fun x =>
    let rib := (c.savedRibs.map Ribbon.live).flatten.zip x.1.flatten
    let solo := (c.saved.map (·.phys)).filter fun p => !(rib.any fun y => decide (y.1 = p))
    if x.2.length < solo.length then none else some (rib ++ solo.zip x.2)

def newPhys (pl : List (Nat × Nat)) (p : Nat) : Nat := ((pl.find? fun y => decide (y.1 = p)).map Prod.snd).getD p

/-- An answer kept with the save area (R406). -/
def Tile.answered (t : Tile) (a : Nat × Nat × Bool) : Tile :=
  if t.ltile = a.1 then
    match t.job? a.2.1 with
    | some j =>
      if j.state = .parked then t.setJob { j with state := .running, status := if a.2.2 then 1 else j.status } else t
    | none => t
  else t

/-- A saved tile put on its new physical tile, with its window and with the answers to its faults; that of a retired one is
now named (R395). -/
def State.putSaved (s : State) (c : Ctx) (pl : List (Nat × Nat)) (t : Tile) : State :=
  let p := newPhys pl t.phys
  let u : Tile := { t.moveTo (s.getTile p) with
    ctx := c.num
    ctxn := BitVec.ofNat 6 c.num
    pasid := BitVec.ofNat 20 c.pasid }
  let s := (s.putTile (c.answers.foldl Tile.answered u)).carryImages u t.phys p
  if t.doomed then s.tileEvent (s.getTile p) 0x20 [nat32 (t.phys + p * 2 ^ 16)] else s

/-- A number replaced by another. -/
def renum (old new n : Nat) : Nat := if n = old then new else n

/-- What belonged to the saved context belongs to it under its new number. -/
def Device.rename (d : Device) (old new : Nat) : Device :=
  { d with
    queues := d.queues.map fun (x : Queue) => if x.state = .dead then x else { x with ctx := renum old new x.ctx }
    launches := d.launches.map fun (x : Launch) => { x with ctx := renum old new x.ctx }
    trees := d.trees.map fun (x : Tree) => { x with ctx := renum old new x.ctx }
    objs := d.objs.map fun (x : Obj) => { x with ctx := renum old new x.ctx } }

/-- The context's launches take new launch sequences, and their bind records are written (R394). -/
def State.rebind (s : State) (ctx : Nat) : State :=
  (s.dev.launches.filter fun l => decide (l.ctx = ctx)).foldl (fun s l =>
    let n := s.dev.lseq
    let s := s.setLaunch { l with lseq := n }
    { s with dev := { s.dev with lseq := n + 1, binds := s.dev.binds ++ s.bindsOf ctx n l.task.rlen l.list } }) s

/-- The saved context runs again under the fields of the command. -/
def State.resume (s : State) (old : Ctx) (c : Cmd) (pasid : Nat) (pl : List (Nat × Nat)) : State :=
  let base := Ctx.create c pasid old.ntile
  let new : Ctx := { base with
    grants := old.grants
    alloc := old.alloc
    hBase := old.hBase
    hSize := old.hSize
    tvec := old.tvec
    answers := old.answers }
  let d := s.dev.rename old.num new.num
  let near := old.grants.toList.foldl (fun m g => if g.rights = 0 then m else m.copyRange old.savedNear g.base (g.base + g.len)) d.near
  let s1 : State := { s with dev := { d with
    near := near
    ctxs := d.ctxs.map fun k => if k.num = old.num then new else k
    ribbons := d.ribbons ++ old.savedRibs.map fun (r : Ribbon) => { r with tiles := r.tiles.map (newPhys pl) } } }
  let s2 := (old.saved.foldl (fun s t => s.putSaved new pl t) s1).modCtx new.num fun k => { k with answers := [] }
  let s3 := (s2.rebind new.num).placeTrees new.num
  s3.modQueuesOf new.num fun x => { x with state := .active, rung := 0, fcause := 0 }

/-- The union of the FEAT masks of some launches (R407). -/
def featUnion (l : List Launch) : Nat := (l.map fun x => x.task.feat.toNat).foldl (· ||| ·) 0

def State.savedFeat (s : State) (c : Ctx) : Nat := featUnion (s.dev.launches.filter fun l => decide (l.ctx = c.num))

/-! ### Images of other devices and of contexts that have ended (R375, R407, R409) -/

/-- An image comes into memory here, at the save area its context names; what is no memory in canonical form is no image. -/
def State.bringImage (s : State) (i : SavedImage) : State :=
  if !i.ctx.memWf then s else
  let n := i.ctx.saveBytes i.trees
  let c : Ctx := { i.ctx with state := .preempted, saveSeed := s.free, savePages := s.saveAddrs i.ctx n }
  let s1 := s.writeSave c n s.free
  { s1 with dev := { s1.dev with brought := s1.dev.brought ++ [{ i with ctx := c }] }, free := s.free + 1 }

/-- An image under the number and page tables of the command, its tiles on their places. -/
def SavedImage.place (i : SavedImage) (c : Cmd) (pl : List (Nat × Nat)) : SavedImage :=
  let new := Ctx.create c i.ctx.savePasid i.ctx.ntile
  { i with
    ctx := { i.ctx with
      num := new.num
      pasid := new.pasid
      ptroot := new.ptroot
      saved := i.ctx.saved.map fun (t : Tile) => { t with phys := newPhys pl t.phys }
      savedRibs := i.ctx.savedRibs.map fun (r : Ribbon) => { r with tiles := r.tiles.map (newPhys pl) } }
    launches := i.launches.map fun (l : Launch) => { l with ctx := new.num }
    queues := i.queues.map fun (x : Queue) => { x with ctx := new.num, state := .preempted }
    trees := i.trees.map fun (t : Tree) => { t with ctx := new.num }
    objs := i.objs.map fun (o : Obj) => { o with ctx := new.num } }

/-- Whether nothing here has the numbers and the allocation ranges of an image; a DEAD queue gives up its number to it. -/
def State.imageFits (s : State) (i : SavedImage) : Bool :=
  (i.objs.all fun o => (s.obj? o.num).isNone) &&
  (i.queues.all fun x => ((s.queue? x.num).map fun y => decide (y.state = .dead)).getD true) &&
  (i.trees.all fun t => (s.tree? t.idx).isNone) &&
  i.ctx.allocRanges.all fun a => !s.dev.ctxs.any fun k => k.allocRanges.any fun b => decide (b.1 < b.2) && meets a.1 a.2 b

/-- The code images of a saved context, by base and size. -/
def SavedImage.images (i : SavedImage) : List (Nat × Nat) :=
  ((i.ctx.hBase, i.ctx.hSize) :: i.launches.map fun l => (l.task.imgBase, l.task.imgSize)).filter fun g => g.2 ≠ 0

/-- New bases for some images, each the first place free. -/
def placeImages : List (Nat × Nat) → List (Nat × Nat) → Option (List (Nat × Nat))
  | _, [] => some []
  | used, g :: l => (roomAmong used g.2).bind fun b => (placeImages ((b, b + g.2) :: used) l).map ((g.1, b) :: ·)

/-- A task whose image stands at another base. -/
def Task.rebase (t : Task) (bs : List (Nat × Nat)) : Task := { t with imgBase := newPhys bs t.imgBase }

/-- A saved context with its images at other bases. -/
def SavedImage.rebase (i : SavedImage) (bs : List (Nat × Nat)) : SavedImage :=
  { i with
    ctx := { i.ctx with
      hBase := newPhys bs i.ctx.hBase
      saved := i.ctx.saved.map fun (t : Tile) => { t with task := t.task.rebase bs } }
    launches := i.launches.map fun (l : Launch) => { l with task := l.task.rebase bs }
    code := i.images.foldl (fun m g => m.move i.code (12 * g.1) (12 * newPhys bs g.1) (12 * g.2)) Mem.empty }

/-- The object's header and entries as saved, each layer ABSENT without a pin (R375). -/
def State.putObj (s : State) (i : SavedImage) (o : Obj) : State :=
  let n := 64 * (i.near.readNat (o.addr + 4) 4 % 2048 + 1)
  let s : State := { s with dev := { s.dev with near := s.dev.near.copyRange i.near o.addr (o.addr + n), objs := s.dev.objs ++ [o] } }
  (List.range (s.objLayers o)).foldl (fun s l => s.setRes o l 0 (resGen (s.res o l)) 0) s

/-- What an image that has been placed holds joins the device; its code stands in the stores of its tiles' clusters, and its trees have
the generations and the frozen images that they had (R326, R330); its POWERs come after those that wait here (R432). -/
def State.install (s : State) (i : SavedImage) : State :=
  let code := i.ctx.saved.foldl (fun m t => i.images.foldl (fun m g =>
    m.move i.code (12 * g.1) (codeStore (t.phys / 16) + 12 * g.1) (12 * g.2)) m) s.dev.code
  let mine (n : Nat) : Bool := i.queues.any fun x => decide (x.num = n)
  let s1 : State := { s with dev := { s.dev with
    code := code
    ctxs := s.dev.ctxs ++ [i.ctx]
    launches := s.dev.launches ++ i.launches
    queues := (s.dev.queues.filter fun x => !mine x.num) ++ i.queues
    pointNext := s.dev.pointNext ++ i.queues.flatMap fun x =>
      (x.cmds.filter fun c => decide (c.state ≠ .done)).flatMap fun c => c.point x
    gens := i.gens ++ s.dev.gens.filter fun g => !(i.gens.any fun h => decide (h.1 = g.1))
    images := s.dev.images ++ i.frozen.filter fun x => !s.dev.images.contains x
    trees := s.dev.trees ++ i.trees } }
  i.objs.foldl (fun s o => s.putObj i o) s1

/-- One pin of a saved pin set: its layer is made RESIDENT at its own STAGE, with evictions as R364 requires, and pinned. The
restore waits where room cannot be made, and cannot be done where the load fails (R375). -/
def State.stagePin (s : State) (p : Nat × Nat) : Except Bool State :=
  match s.obj? p.1 with
  | none => .error true
  | some o =>
    if s.layerState o p.2 = 2 then .ok (s.pinLayer o p.2)
    else
      match s.room o p.2 with
      | none => .error false
      | some evs =>
        let s1 := (evs.foldl State.evict s).setLayerState o p.2 1
        if (s.loadRefused o p.2).isSome || (s1.copyFails o p.2).isSome then .error true
        else .ok (((s1.copyLayer o p.2).becomeResident o p.2).pinLayer o p.2)

/-- Every pin of the saved tiles, in their order. -/
def State.stagePins (s : State) (c : Ctx) : Except Bool State := (c.saved.flatMap Tile.homePins).foldlM State.stagePin s

/-- The restore of an image that no PREEMPTED context here has: the checks of R407, then its pinned layers, then resumption. -/
def State.restoreBrought (s : State) (x : Queue) (c : Cmd) (i : SavedImage) : CmdEnd :=
  if (s.ctx? (c.word 0x10 % 64)).isSome = true then .done s 1
  else if featUnion i.launches &&& featureMask ≠ featUnion i.launches then .done s 4
  else
    match s.placement i.ctx with
    | none => .done s 5
    | some pl =>
      if !s.imageFits i then .done s 5
      else
        match placeImages s.usedCode i.images with
        | none => .hold
        | some bs =>
          let j := (i.rebase bs).place c pl
          match (s.install j).stagePins j.ctx with
          | .ok s1 => .done (s1.resume j.ctx c (s.queuePasid x) (j.ctx.saved.map fun t => (t.phys, t.phys))) 0
          | .error true => .done s 8
          | .error false => .hold

/-- RESTORE: its checks in order, then placement and resumption. -/
def execCtxRestore (q sq : Nat) (s : State) : Host.Outcome State Fault Refusal :=
  s.ctxCmd q sq 3 fun s x c =>
    let n := c.word 0x10 % 64
    if !c.rootsOk then .done s 1
    else
      match s.savedAt (s.queuePasid x) (c.dword 0x20) with
      | none =>
        match s.broughtAt (s.queuePasid x) (c.dword 0x20) with
        | some i => s.restoreBrought x c i
        | none => if (s.ctx? n).isSome then .done s 1 else .done s 8
      | some old =>
        if n ≠ old.num ∧ (s.ctx? n).isSome = true then .done s 1
        else if s.savedFeat old &&& featureMask ≠ s.savedFeat old then .done s 4
        else
          match s.placement old with
          | none => .done s 5
          | some pl => .done (s.resume old c (s.queuePasid x) pl) 0

/-! ### QUEUE, RESUMEQ -/

/-- A number as the result of a sub-operation, or a refusal code with status 0x09 (R402). -/
def State.answerNum (s : State) (x : Queue) (c : Cmd) (n : Nat) (st : Nat) : CmdEnd := .done (s.putResult x (c.dword 0x38) n) st

/-- The queue that a descriptor describes (R397). -/
def queueOf (num : Nat) (d : List Byte) : Queue where
  num := num
  ring := fieldAt d 0 8
  logn := fieldAt d 8 4 % 32
  priv := fieldAt d 8 4 / 2 ^ 8 % 2 = 1
  ctx := fieldAt d 8 4 / 2 ^ 14 % 64
  statVa := fieldAt d 0x10 8
  t1 := fieldAt d 0x18 4
  t2 := fieldAt d 0x1C 4
  head := 0
  state := .active
  fcause := 0
  rung := 0
  cmds := []

def Queue.descOk (x : Queue) : Bool := x.ring % 4096 = 0 && decide (4 ≤ x.logn) && decide (x.logn ≤ 16) && x.statVa % 8 = 0

/-- A new queue, its doorbell at 0 and its status word written (R398). -/
def State.addQueue (s : State) (x : Queue) : State :=
  let s1 : State := { s with dev := { s.dev with
    queues := s.dev.queues ++ [x]
    host := { s.dev.host with dbell := s.dev.host.dbell.filter fun p => decide (p.1 ≠ x.num) } } }
  s1.cmdStore8 (s1.queuePasid x) x.statVa x.status

/-- QUEUE. -/
def execCtxQueue (q sq : Nat) (s : State) : Host.Outcome State Fault Refusal :=
  s.ctxCmd q sq 4 fun s x c =>
    let va := c.dword 0x10
    if va % 64 ≠ 0 then .done s 1
    else
      match s.resultBad x (c.dword 0x38), s.cmdRead (s.queuePasid x) va 64 with
      | some st, _ => .done s st
      | _, .error _ => .done s 6
      | none, .ok d =>
        if !(queueOf 0 d).descOk ∨ (s.runningCtx (queueOf 0 d).ctx).isNone = true then .done s 1
        else
          match ((List.range 256).drop 1).find? fun i => (s.queue? i).isNone with
          | none => s.answerNum x c 1 9
          | some n => (s.addQueue (queueOf n d)).answerNum x c n 0

/-- RESUMEQ. -/
def execCtxResumeq (q sq : Nat) (s : State) : Host.Outcome State Fault Refusal :=
  s.ctxCmd q sq 5 fun s _ c =>
    match s.queue? (c.word 0x10) with
    | none => .done s 1
    | some y =>
      match y.state with
      | .active => .done s 0
      | .faulted => .done (s.putQueue { y with state := .active, fcause := 0 }) 0
      | _ => .done s 1

/-! ### GRANT, HANDLER -/

/-- GRANT. -/
def execCtxGrant (q sq : Nat) (s : State) : Host.Outcome State Fault Refusal :=
  s.ctxCmd q sq 6 fun s _ c =>
    let n := c.word 0x10 % 64
    let base := c.word 0x14
    let len := c.word 0x18
    doneIf ((s.ctx? n).isSome && base % 65536 = 0 && len % 65536 = 0 &&
        (len = 0 || (decide (0x80000000 ≤ base) && decide (base + len ≤ 2 ^ 32)))) s
      (s.modCtx n fun k => { k with alloc := k.alloc.setIfInBounds (c.word 0x10 / 2 ^ 8 % 4) (base, len) })

/-- HANDLER: the image in the code stores of the context's clusters; cr.tvec on all its tiles. -/
def execCtxHandler (q sq : Nat) (s : State) : Host.Outcome State Fault Refusal :=
  s.ctxCmd q sq 7 fun s x c =>
    let n := c.word 0x10
    let size := c.word 0x14
    let entry := c.word 0x18
    let va := c.dword 0x20
    match s.runningCtx n with
    | none => .done s 1
    | some k =>
      if size = 0 ∨ codePackets < size ∨ size ≤ entry ∨ va % 4096 ≠ 0 then .done s 1
      else
        match s.cmdRead (s.queuePasid x) va (12 * size), s.codeRoom size with
        | .error _, _ => .done s 6
        | _, none => .hold
        | .ok bs, some base =>
          let vec := BitVec.ofNat 20 entry
          let s := s.placeCode (s.clustersOf n (List.range k.ntile)) base bs
          let s := s.modCtx n fun k => { k with hBase := base, hSize := size, tvec := vec }
          .done ((s.tilesOf n).foldl (fun s t => s.modTile t.phys fun u => { u with tvec := vec }) s) 0

/-! ### OBJECT, OBJRESET (R356, R357, R360) -/

/-- A header that R357 allows. -/
def State.objHeaderOk (s : State) (a : Nat) : Bool :=
  let w (i : Nat) : Nat := s.dev.near.readNat (a + 4 * i) 4
  let nl := w 1 % 2048
  decide (w 0 = 1) && decide (1 ≤ nl) && decide (nl ≤ 1024) && decide (w 1 &&& 0xFFF8F800 = 0) && decide (w 2 / 64 = 0) &&
    decide (w 3 / 2048 = 0) && (List.range 9).all fun i => decide (w (7 + i) = 0)

/-- The code that refuses a registration (R402). -/
def State.objRefused (s : State) (k : Ctx) (a : Nat) : Option Nat :=
  if !s.objHeaderOk a then some 2
  else
    let hi := a + 64 * (s.dev.near.readNat (a + 4) 4 % 2048 + 1)
    let taken := (s.dev.ctxs.flatMap Ctx.grantRanges ++
      s.dev.objs.map fun o => (o.addr, o.addr + 64 * (s.objLayers o + 1))).filter fun r => decide (r.1 < r.2)
    if !covered k.allocRanges a hi ∨ reserveLo < hi ∨ taken.any (meets a hi) = true then some 3 else none

/-- The object enters the directory: OWNER, and every residency word ABSENT with GEN 0 and PINS 0. -/
def State.register (s : State) (o : Obj) : State :=
  let s0 := s.setNear (o.addr + 8) 4 (o.ctx % 64)
  let s1 : State := { s0 with dev := { s0.dev with objs := s0.dev.objs ++ [o] } }
  (List.range (s.objLayers o)).foldl (fun s i => s.setRes o i 0 0 0) s1

/-- OBJECT. -/
def execCtxObject (q sq : Nat) (s : State) : Host.Outcome State Fault Refusal :=
  s.ctxCmd q sq 8 fun s x c =>
    let a := c.word 0x14
    match s.runningCtx (c.word 0x10), s.resultBad x (c.dword 0x38) with
    | none, _ => .done s 1
    | _, some st => .done s st
    | some k, none =>
      if a % 64 ≠ 0 ∨ a < 0x80000000 then .done s 1
      else
        match (List.range 256).find? fun i => (s.obj? i).isNone with
        | none => s.answerNum x c 1 9
        | some n =>
          match s.objRefused k a with
          | some code => s.answerNum x c code 9
          | none => (s.register ⟨n, a, k.num⟩).answerNum x c n 0

/-- OBJRESET: FAILED layers return to ABSENT, and are requested (R362). -/
def execCtxObjreset (q sq : Nat) (s : State) : Host.Outcome State Fault Refusal :=
  s.ctxCmd q sq 9 fun s _ c =>
    match s.obj? (c.word 0x10) with
    | none => .done s 1
    | some o => .done ((List.range (s.objLayers o)).foldl (fun s i =>
        if s.layerState o i = 3 then (s.setLayerState o i 0).requestLayer o i false else s) s) 0

/-! ### BUDGET, INVAL, FAULT, EVRING -/

/-- BUDGET: the shares that each resource takes up at its next window (R396). -/
def execCtxBudget (q sq : Nat) (s : State) : Host.Outcome State Fault Refusal :=
  s.ctxCmd q sq 10 fun s _ c =>
    let sh (i : Nat) : Nat := c.word (0x10 + i / 4 * 4) / 2 ^ (8 * (i % 4)) % 256
    let all := (List.range 8).map sh
    doneIf (all.all (fun n => decide (n ≤ 64)) && decide (all.foldl (· + ·) 0 ≤ 64)) s
      { s with dev := { s.dev with shares := Vector.ofFn fun i => sh i.val } }

/-- INVAL (R243). -/
def execCtxInval (q sq : Nat) (s : State) : Host.Outcome State Fault Refusal :=
  s.ctxCmd q sq 11 fun s _ c =>
    let va := c.dword 0x18
    let len := c.dword 0x20
    doneIf (va % 4096 = 0 && len % 4096 = 0) s
      (if len = 0 then s.invalidate (c.word 0x10) 0 (2 ^ 57) else s.invalidate (c.word 0x10) va (va + len))

/-- The parked COPY of a queue that an answer names: the oldest. -/
def Queue.parkedCopy (x : Queue) : Option Cmd := x.cmds.find? fun c => c.parked && decide (c.state = .started)

/-- The image of a PREEMPTED context keeps what has been answered since (R406). -/
def State.modImage (s : State) (k : Ctx) (f : SavedImage → SavedImage) : State :=
  if k.state = .preempted then
    { s with dev := { s.dev with brought := s.dev.brought.map fun (i : SavedImage) =>
        if i.ctx.num = k.num ∧ i.ctx.saveSeed = k.saveSeed then f i else i } }
  else s

def Cmd.answered (c : Cmd) (abort : Bool) : Cmd := { c with parked := false, early := if abort then 1 else c.early }

/-- A parked COPY answered; it goes on while its context runs or drains (R406, R409). -/
def State.answerCopy (s : State) (k : Ctx) (q : Nat) (abort : Bool) : CmdEnd :=
  match (s.queue? q).bind fun x => if x.ctx = k.num ∧ x.num ≠ 0 then x.parkedCopy.map fun c => (x, c) else none with
  | none => .done s 0x0A
  | some (x, c) => .done ((s.putCmd x.num (c.answered abort)).modImage k fun i => { i with queues := i.queues.map fun (y : Queue) =>
      if y.num = q then { y with cmds := y.cmds.map fun d => if d.sq = c.sq then d.answered abort else d } else y }) 0

def Tile.parkedAt (t : Tile) (slot : Nat) : Bool := ((t.job? slot).map fun j => decide (j.state = .parked)).getD false

/-- A parked job of a tile answered: at once, or, its context being saved, with the restore (R406). -/
def State.answerJob (s : State) (k : Ctx) (l slot : Nat) (abort : Bool) : CmdEnd :=
  match s.logical k.num l with
  | some t => if t.parkedAt slot then .done (s.putTile (t.answered (l, slot, abort))) 0 else .done s 0x0A
  | none =>
    if (k.saved.any fun t => decide (t.ltile = l) && t.parkedAt slot) &&
        !(k.answers.any fun a => decide (a.1 = l) && decide (a.2.1 = slot)) then
      .done ((s.modCtx k.num fun k => { k with answers := k.answers ++ [(l, slot, abort)] }).modImage k fun i =>
        { i with ctx := { i.ctx with answers := i.ctx.answers ++ [(l, slot, abort)] } }) 0
    else .done s 0x0A

/-- FAULT: RETRY or ABORT. -/
def execCtxFault (q sq : Nat) (s : State) : Host.Outcome State Fault Refusal :=
  s.ctxCmd q sq 12 fun s _ c =>
    let l := c.word 0x14
    let slot := c.word 0x18
    let abort : Bool := c.word 0x1C = 1
    match s.ctx? (c.word 0x10) with
    | none => .done s 1
    | some k =>
      if l = 0x1FF then s.answerCopy k slot abort
      else if 96 ≤ slot then .done s 1
      else s.answerJob k l slot abort

/-- A record held since bring-up reaches the ring, or is dropped and counted; its SEQ is its own (R415). -/
def State.flushRecord (s : State) (r : Record) : State :=
  match s.ringWrite r with
  | some s' => s'
  | none =>
    let x := s.source r.src
    s.setSource { x with dropped := x.dropped + 1 }

/-- EVRING: the ring, EVHEAD and EVTAIL 0; the first also empties the early buffer. -/
def execCtxEvring (q sq : Nat) (s : State) : Host.Outcome State Fault Refusal :=
  s.ctxCmd q sq 13 fun s x c =>
    let va := c.dword 0x10
    let logn := c.word 0x18
    if va % 4096 ≠ 0 ∨ logn < 4 ∨ 16 < logn then .done s 1
    else
      let early := s.dev.early
      let s1 : State := { s with dev := { s.dev with
        evRing := some (s.queuePasid x, va, logn)
        early := []
        host := { s.dev.host with evhead := 0, evtail := 0 } } }
      .done (early.foldl State.flushRecord s1) 0

/-! ### The end of a context (R410, R411) -/

/-- Every flit that the context's jobs awaited is acknowledged, or its pair is unreachable (R355). -/
def State.flitsDone (s : State) (c : Ctx) : Bool :=
  c.flits.all fun f => (s.pair f.1).unreachable || !s.ackWaits [f]

/-- Fetched commands of a context's queues complete with status 0x07, but for a DESTROY that waits for its end (R408, R410). -/
def State.endCommands (s : State) (c : Ctx) : State :=
  (s.dev.queues.filter fun x => decide (x.ctx = c.num) && decide (x.num ≠ 0) && decide (x.state ≠ .dead)).foldl
    (fun s x => x.cmds.foldl (fun s k =>
      if c.waiters.contains (x.num, k.sq) && decide (k.typ = 6) && decide (k.sub = 1) then s else s.completeCmd x.num k.sq 7) s) s

/-- R410 step 4: trees, loads asked for since its end began, objects, launches, bind records and tiles. -/
def State.withdraw (s : State) (ctx : Nat) : State :=
  let s := s.dropLoads ctx
  let s := (s.dev.trees.filter fun t => decide (t.ctx = ctx)).foldl (fun s t => s.freeTree t.idx 5) s
  let s : State := { s with dev := { s.dev with
    objs := s.dev.objs.filter fun o => decide (o.ctx ≠ ctx)
    launches := s.dev.launches.filter fun l => decide (l.ctx ≠ ctx)
    binds := s.dev.binds.filter fun b => decide (b.ctx ≠ ctx)
    pointNext := s.dev.pointNext.filter fun p => ((s.queue? p.1).map fun x => decide (x.num = 0) || decide (x.ctx ≠ ctx)).getD true } }
  s.freeTiles ctx

/-- PASID_TEARDOWN: every translation of the PASID goes, event 0x26. -/
def State.teardown (s : State) (pasid : Nat) : State := (s.invalidate pasid 0 (2 ^ 57)).fwEvent 0x26 noCtx [nat32 pasid]

/-- Steps 4 to 6 of R410. -/
def State.reclaim (s : State) (c : Ctx) : State :=
  let s := ((s.endCommands c).withdraw c.num).teardown c.pasid
  let s := s.modQueuesOf c.num fun x =>
    { x with state := .dead, fcause := if c.endCause = 0 then x.fcause else c.endCause }
  let s := (s.fwEvent 0x25 c.num [nat32 c.num]).answerWaiters c.num 0
  { s with dev := { s.dev with ctxs := s.dev.ctxs.filter fun k => decide (k.num ≠ c.num) } }

/-- CONTEXT_QUIESCED; an end that has waited for the firmware comes first. -/
def execContextQuiesced (ctx : Nat) (s : State) : Host.Outcome State Fault Refusal :=
  match s.ctx? ctx with
  | none => .next s
  | some c =>
    if c.doom ≠ none then .next (s.killDoomed ctx)
    else if c.state ≠ .reset ∨ s.flitsDone c = false then .next s else .next (s.applied .firmware (·.reclaim c))

end Sys2Proof.Machine
end

