-- ==== Sys2Proof/Machine/Platform.lean ====
section
/-! DEFINITION. The host's side (R425 to R433): host registers, CXL.mem accesses, reset and bring-up, operating points, thermal
trips, received frames. -/

namespace Sys2Proof.Machine

/-! ### Reset (R430) -/

/-- Whether a tile is out of the pool for good: retired, or found to disagree and waiting to leave it (R24, R144). -/
def Tile.lost (t : Tile) : Bool := decide (t.stat = .retired) || t.doomed

/-- What remains of a tile: a lost one is retired (R24). -/
def Tile.afterReset (t : Tile) : Tile := if t.lost then { Tile.reset t.phys with stat := .retired } else Tile.reset t.phys

/-- Power-on and HCTL.HRST: the whole device in its reset state at stage 0. Its memories are undefined until bring-up zeroes
them; host memory, remote memories, frames and flits already sent and the light at the laser inputs are outside it. -/
def State.hardReset (s : State) : State :=
  let d := s.dev
  let fresh := Device.reset
  { s with
    tile := s.tile.afterReset
    others := (s.others.filter Tile.lost).map Tile.afterReset
    src := Tile.reset s.tile.phys
    iss := Issue.none
    dev := { fresh with
      near := Mem.empty.undefine 0x80000000 (2 ^ 32) s.free
      lpddr := Mem.empty.undefine 0 lpddrBytes (s.free + 1)
      hostMem := d.hostMem
      remote := d.remote
      txFrames := d.txFrames
      sent := d.sent
      lports := d.lports.map fun p => { p with stripe := 0, replayed := 0, down := decide (p.lit = 0) } }
    free := s.free + 2 }

/-- POWER_ON. -/
def execPowerOn (s : State) : Host.Outcome State Fault Refusal := .next s.hardReset

/-- HCTL_HRST. -/
def execHctlHrst (s : State) : Host.Outcome State Fault Refusal := .next s.hardReset

/-! ### Bring-up (R430) -/

def State.modHost (s : State) (f : HostRegs → HostRegs) : State := { s with dev := { s.dev with host := f s.dev.host } }

/-- Stage 3 is left: cr.devid takes DEVID, and GO reads 0 from then on. -/
def State.leaveWait (s : State) : State :=
  let s1 : State := { s with dev := { s.dev with devid := s.dev.host.devid } }
  s1.modHost fun h => { h with stage := 4, go := false }

/-- GO written 1: at stage 3 it is left; before, as soon as it is reached. -/
def State.go (s : State) : State :=
  if s.dev.host.stage = 3 then s.leaveWait
  else if s.dev.host.stage < 3 then s.modHost fun h => { h with go := true }
  else s

/-- HCTL_GO. -/
def execHctlGo (s : State) : Host.Outcome State Fault Refusal := .next s.go

/-- Stage 5: the rotor schedule is loaded; with RSCHPA = 0 there is none. -/
def State.loadRotor (s : State) : State :=
  let h := s.dev.host
  if h.rschpa = 0 then { s with dev := { s.dev with rotor := none } }
  else { s with dev := { s.dev with
    rotor := some (Config.rotorSlots (s.dev.hostMem.read h.rschpa.toNat h.rschlen.toNat))
    rotorSlot := 0 } }

/-- Queue 0: privileged, of no context, its addresses host physical, T1 and T2 0 (R397, R426). -/
def HostRegs.queue0 (h : HostRegs) : Queue where
  num := 0
  ring := h.q0ring.toNat
  logn := h.q0logn.toNat
  priv := true
  ctx := 64
  statVa := h.q0stva.toNat
  t1 := 0
  t2 := 0
  head := 0
  state := .active
  fcause := 0
  rung := 0
  cmds := []

/-- READY: queue 0 fetches. -/
def State.ready6 (s : State) : State :=
  let s1 : State := { s with dev := { s.dev with queues := [s.dev.host.queue0] } }
  s1.modHost fun h => { h with stage := 6 }

/-- Stage 4: the firmware boots; its table steers frames (R429). -/
def State.boot (s : State) : State :=
  let h := s.dev.host
  { s with dev := { s.dev with steer := Config.steerTable (s.dev.hostMem.read h.fwpa.toNat h.fwlen.toNat) } }

/-- BRINGUP_STAGE_DONE: the action of the stage is complete; `ok` is the outcome of the firmware check at stage 4. -/
def execBringupStageDone (ok : Bool) (s : State) : Host.Outcome State Fault Refusal :=
  match s.dev.host.stage with
  | 0 => .next (s.modHost fun h => { h with stage := 1 })
  | 1 =>
    let s1 : State := { s with dev := { s.dev with near := Mem.empty } }
    .next (s1.modHost fun h => { h with stage := 2 })
  | 2 =>
    let s1 : State := { s with dev := { s.dev with lpddr := Mem.empty } }
    let s2 := s1.modHost fun h => { h with stage := 3 }
    .next (if s.dev.host.go then s2.leaveWait else s2)
  | 4 =>
    if s.dev.host.fail then .next s
    else if ok then .next (s.boot.modHost fun h => { h with stage := 5 })
    else .next (s.modHost fun h => { h with fail := true })
  | 5 => .next s.loadRotor.ready6
  | _ => .next s

/-! ### Restarting a machine (R431) -/

/-- Whether two copies of a machine agree, so that it can be resynchronised. -/
def Machine.agrees (x : Machine) : Bool :=
  match x.state with
  | .triplex => decide (x.struck < 2)
  | .resync => decide (x.struck = 0)
  | .stopped => false

/-- A machine number written to MRST: a machine that is not STOPPED is resynchronised first, and is STOPPED on the way where no two
copies agree; then the machine starts from its initial state (R393). -/
def State.restart (s : State) (m : Nat) : State :=
  let x := s.dev.machine m
  let s := s.modHost fun h => { h with mach := BitVec.ofNat 8 m }
  let s := if x.agrees then { s with dev := { s.dev with vres := s.dev.vres + 1 } }
    else if x.state = .stopped then s else s.stopMachine x
  s.setMachine { x with state := .triplex, struck := 0 }

/-- MRST. -/
def execMrst (m : Nat) (s : State) : Host.Outcome State Fault Refusal := .next (s.restart m)

/-! ### EVHEAD and doorbells (R415, R426, R427) -/

/-- EVHEAD, taken into account at once. -/
def execEvhead (v : Nat) (s : State) : Host.Outcome State Fault Refusal := .next (s.modHost fun h => { h with evhead := nat32 v })

/-- A tail index written to a doorbell. -/
def State.ring (s : State) (q tail : Nat) : State :=
  if q < 256 then
    s.modHost fun h => { h with dbell := (q, tail % 65536) :: h.dbell.filter fun p => decide (p.1 ≠ q) }
  else s

/-- DBELL. -/
def execDbell (q tail : Nat) (s : State) : Host.Outcome State Fault Refusal := .next (s.ring q tail)

/-! ### Host registers (R426) -/

/-- Half of a 64-bit register replaced. -/
def setHalf (x : BitVec 64) (hi : Bool) (v : Nat) : BitVec 64 :=
  if hi then BitVec.ofNat 64 (x.toNat % 2 ^ 32 + v * 2 ^ 32) else BitVec.ofNat 64 (x.toNat / 2 ^ 32 * 2 ^ 32 + v)

def halfOf (x : BitVec 64) (hi : Bool) : Nat := if hi then x.toNat / 2 ^ 32 else x.toNat % 2 ^ 32

/-- A 32-bit write. -/
def State.writeReg (s : State) (off v : Nat) : State :=
  match off with
  | 0x04 => if v % 2 = 1 then s.hardReset else if v / 2 % 2 = 1 then s.go else s.modHost fun h => { h with go := false }
  | 0x08 => if s.dev.host.stage ≤ 3 then s.modHost fun h => { h with devid := BitVec.ofNat 12 v } else s
  | 0x10 => s.modHost fun h => { h with fwpa := setHalf h.fwpa false v }
  | 0x14 => s.modHost fun h => { h with fwpa := setHalf h.fwpa true v }
  | 0x18 => s.modHost fun h => { h with fwlen := nat32 v }
  | 0x20 => s.modHost fun h => { h with rschpa := setHalf h.rschpa false v }
  | 0x24 => s.modHost fun h => { h with rschpa := setHalf h.rschpa true v }
  | 0x28 => s.modHost fun h => { h with rschlen := nat32 v }
  | 0x30 => s.modHost fun h => { h with q0ring := setHalf h.q0ring false v }
  | 0x34 => s.modHost fun h => { h with q0ring := setHalf h.q0ring true v }
  | 0x38 => s.modHost fun h => { h with q0logn := BitVec.ofNat 5 v }
  | 0x40 => s.modHost fun h => { h with q0stva := setHalf h.q0stva false v }
  | 0x44 => s.modHost fun h => { h with q0stva := setHalf h.q0stva true v }
  | 0x48 => s.restart (v % 256)
  | 0x58 => s.modHost fun h => { h with evhead := nat32 v }
  | _ => if 0x10000 ≤ off ∧ off % 8 = 0 then s.ring ((off - 0x10000) / 8) v else s

/-- A 32-bit read: HSTAT, HCTL and the others; an offset that the table does not list reads 0. -/
def State.readReg (s : State) (off : Nat) : Nat :=
  let h := s.dev.host
  match off with
  | 0x00 => h.stage % 128 + if h.fail then 128 else 0
  | 0x04 => if h.go then 2 else 0
  | 0x08 => h.devid.toNat
  | 0x10 => halfOf h.fwpa false
  | 0x14 => halfOf h.fwpa true
  | 0x18 => h.fwlen.toNat
  | 0x20 => halfOf h.rschpa false
  | 0x24 => halfOf h.rschpa true
  | 0x28 => h.rschlen.toNat
  | 0x30 => halfOf h.q0ring false
  | 0x34 => halfOf h.q0ring true
  | 0x38 => h.q0logn.toNat
  | 0x40 => halfOf h.q0stva false
  | 0x44 => halfOf h.q0stva true
  | 0x48 => h.mach.toNat
  | 0x4C => h.hlink.toNat
  | 0x50 => h.temp.toNat
  | 0x58 => h.evhead.toNat
  | 0x5C => h.evtail.toNat
  | _ => if 0x10000 ≤ off ∧ off % 8 = 0 then s.dev.doorbell ((off - 0x10000) / 8) else 0

/-- A 64-bit read: the register at the offset, and what lies 4 bytes on. -/
def State.readReg64 (s : State) (off : Nat) : Nat := s.readReg off + s.readReg (off + 4) * 2 ^ 32

/-- HOST_REGISTER_WRITE: a 64-bit access reaches the register at its offset and what lies 4 bytes on. -/
def execHostRegisterWrite (off v : Nat) (wide : Bool) (s : State) : Host.Outcome State Fault Refusal :=
  .next (if wide then (s.writeReg off (v % 2 ^ 32)).writeReg (off + 4) (v / 2 ^ 32 % 2 ^ 32) else s.writeReg off (v % 2 ^ 32))

/-! ### CXL.mem (R425) -/

/-- The memory of a decoder, the address of its offset 0 and its size. -/
def Device.decoder (d : Device) (near : Bool) : Mem × Nat × Nat :=
  if near then (d.near, 0x80000000, 0x80000000) else (d.lpddr, 0, lpddrBytes)

/-- A byte as the host reads it: undefined where the word is uncorrectable. -/
def Mem.hostByte (m : Mem) (seed a : Nat) : Byte := if (m.badWord a 1).isSome then Config.freeByte seed a else m.readByte a

/-- CXL_MEM_READ: the bytes reach the host; both decoders lie untranslated and unchecked. -/
def execCxlMemRead (near : Bool) (addr len : Nat) (s : State) : Host.Outcome State Fault Refusal :=
  let (m, base, size) := s.dev.decoder near
  if size < addr + len then .fault .hostAddressAbsent
  else .next { s with
    dev := { s.dev with hostRead := (List.range len).map fun i => m.hostByte s.free (base + addr + i) }
    free := s.free + 1 }

/-- Bytes that a host store keeps: none into an uncorrectable word that it does not write whole (R179). -/
def Mem.hostWrite (m : Mem) (a : Nat) (bs : List Byte) : Mem :=
  let ok (x : Nat) : Bool := (m.badWord x 1).isNone || (decide (a ≤ x / 4 * 4) && decide (x / 4 * 4 + 4 ≤ a + bs.length))
  (runsOf ((cellsOf a bs).filter fun c => ok c.1)).foldl (fun m r => m.write r.1 r.2) m

/-- CXL_MEM_WRITE. A store of the host to a barrier object in use leaves its words undefined (R250). -/
def execCxlMemWrite (near : Bool) (addr : Nat) (bytes : List Byte) (s : State) : Host.Outcome State Fault Refusal :=
  let (m, base, size) := s.dev.decoder near
  if size < addr + bytes.length then .fault .hostAddressAbsent
  else
    let m' := m.hostWrite (base + addr) bytes
    .next (if near then
        { s with dev := { s.dev with near := m' } }.spoil (s.barsInUse none) ((List.range bytes.length).map (base + addr + ·))
      else { s with dev := { s.dev with lpddr := m' } })

/-- UCIE_MODULE_LOSS: bit m of HLINK clears. -/
def execUcieModuleLoss (m : Nat) (s : State) : Host.Outcome State Fault Refusal :=
  .next (s.modHost fun h => { h with hlink := h.hlink &&& ~~~(BitVec.ofNat 4 (2 ^ m)) })

/-! ### Frames (R429) -/

/-- The receive queue of a frame: the firmware's table names it by port, MAC address and priority; else queue 0. -/
def Device.steered (d : Device) (f : Frame) : Nat :=
  ((d.steer.find? fun e => decide (e.1 = f.port) && decide (e.2.1 = f.mac) && decide (e.2.2.1 = f.prio)).map fun e => e.2.2.2).getD 0

/-- FRAME_RECEIVE: a frame that fails its FCS is dropped and counted. -/
def execFrameReceive (f : Frame) (s : State) : Host.Outcome State Fault Refusal :=
  if f.fcsOk then .next { s with dev := { s.dev with rxFrames := s.dev.rxFrames ++ [⟨f.port, s.dev.steered f, f.bytes⟩] } }
  else .next { s with dev := { s.dev with frameDrops := s.dev.frameDrops + 1 } }

/-! ### Operating points and thermal trips (R432, R433) -/

/-- Whether the command of a place in the order of POWERs has started. -/
def State.pointStarted (s : State) (p : Nat × Nat × Nat) : Bool :=
  ((s.cmd? p.1 p.2.1).map fun c => decide (c.state = .started)).getD false

/-- The next POWER in the device's order, its command having started; one that the ladder keeps from starting holds no other queue's
(R407, R408). -/
def State.nextPoint (s : State) : Option (Nat × Nat × Nat) :=
  (s.dev.pointNext.find? fun p => s.pointStarted p || !((s.queue? p.1).map s.laddered).getD false).filter s.pointStarted

/-- OPERATING_POINT_IN_FORCE: a POWER completes at its point; during a trip only once every sensor has read below 95 °C,
when the clocks restart. -/
def execOperatingPointInForce (s : State) : Host.Outcome State Fault Refusal :=
  match s.nextPoint with
  | none => .next s
  | some (q, sq, n) =>
    if s.dev.tripped ∧ !s.dev.cool then .next s
    else
      .next (s.applied .firmware fun s =>
        { s with dev := { s.dev with
          point := n
          pointNext := s.dev.pointNext.erase (q, sq, n)
          tripped := false
          cool := false } }.completeCmd q sq 0)

/-- 105 °C and 95 °C in units of 1/16 °C. -/
def tripTemp : Nat := 105 * 16
def coolTemp : Nat := 95 * 16

/-- THERMAL_TRIP: a sensor reaches 105 °C: the arithmetic clocks stop, or stay stopped, event 0x28. -/
def execThermalTrip (sensor temp : Nat) (s : State) : Host.Outcome State Fault Refusal :=
  if temp < tripTemp then .next s
  else
    let s1 := s.modHost fun h => { h with temp := BitVec.ofNat 16 temp }
    let s2 : State := { s1 with dev := { s1.dev with tripped := true, cool := false } }
    .next (s2.fwEvent 0x28 noCtx [nat32 sensor, nat32 temp])

/-- THERMAL_CLEAR: every sensor has read below 95 °C; the hottest reading is some value below it. -/
def execThermalClear (s : State) : Host.Outcome State Fault Refusal :=
  let r := s.fresh
  let s1 := r.2.modHost fun h => { h with temp := BitVec.ofNat 16 (r.1.toNat % coolTemp) }
  .next { s1 with dev := { s1.dev with cool := s1.dev.tripped } }

/-! ### The outside world -/

/-- Bytes that the host stores in its own memory. -/
def State.hostStore (s : State) (a : Nat) (bs : List Byte) : State :=
  { s with dev := { s.dev with hostMem := s.dev.hostMem.write a bs } }

/-- Bytes of a remote device, as that device stores them. -/
def State.remoteStore (s : State) (d a : Nat) (bs : List Byte) : State :=
  { s with dev := { s.dev with remote := s.dev.remote.write (remoteAddr d a) bs } }

/-- What a member of a tree on another device has posted for a segment reaches the tree; R320 has been applied there. -/
def State.remotePost (s : State) (idx dev tile seg : Nat) (bs : List Byte) : State :=
  match s.tree? idx with
  | none => s
  | some t =>
    let raw := seg
    let seg := t.segOf dev tile seg
    if dev ≠ s.dev.devid.toNat ∧ ((t.descFor seg).members.any fun m => decide (m.dev = dev) && decide (m.tile = tile)) = true ∧
        follows raw (t.prevOf dev tile) = true then
      let u := t.setPrev dev tile seg
      s.setTree (if t.contributes seg dev tile then u.send dev tile seg (tElems t.oper t.tfmt bs) else u).settle
    else s

/-- A reading of the hottest sensor; one that reaches 105 °C comes with THERMAL_TRIP. -/
def State.reading (s : State) (t : Nat) : State :=
  if tripTemp ≤ t ∧ (s.dev.tripped = false ∨ s.dev.cool = true) then s else s.modHost fun h => { h with temp := BitVec.ofNat 16 t }

/-- The aligned word that holds a byte turns uncorrectable. -/
def Mem.spoil (m : Mem) (a : Nat) : Mem :=
  if m.bad.contains (a / 4 * 4) then m else { m with bad := m.bad ++ [a / 4 * 4] }

/-- An error of the hardware. A tile detects one only while it runs a task; a self-test runs at stage 1. -/
def State.upset (s : State) (u : Upset) : State :=
  let hit (p : Nat) (f : Tile → Tile) : State := if p < 512 then s.modTile p f else s
  match u with
  | .tile p => hit p fun t => if t.stat = .running then t.dataError else t
  | .lattice p e => hit p fun t =>
      if 256 ≤ e ∨ t.latBad.contains e = true then t else { t with latBad := t.latBad ++ [e] }
  | .window p off => hit p fun t => if off < 0x1E0000 then { t with win := t.win.spoil off } else t
  | .weights p second off => hit p fun t =>
      if 0x4000 ≤ off then t else if second then { t with wb1 := t.wb1.spoil off } else { t with wb0 := t.wb0.spoil off }
  | .flint p o => hit p fun t => if flintElement o && !t.flintBad.contains o then { t with flintBad := t.flintBad ++ [o] } else t
  | .corrected => { s with dev := { s.dev with corrected := s.dev.corrected + 1 } }
  | .near a => if 0x80000000 ≤ a ∧ a < 2 ^ 32 then { s with dev := { s.dev with near := s.dev.near.spoil a } } else s
  | .lpddr a => if a < lpddrBytes then { s with dev := { s.dev with lpddr := s.dev.lpddr.spoil a } } else s
  | .machine m =>
      let x := s.dev.machine m
      if x.state = .stopped then s else s.setMachine { x with struck := x.struck + 1 }
  | .selfTest p =>
      if s.dev.host.stage = 1 then hit p fun t => { t with stat := .retired } else s

end Sys2Proof.Machine
end

