-- ==== Sys2Proof/Machine/Dispatch.lean ====
section
/-! DEFINITION. The dispatch: one arm per row of the opcode table. -/

namespace Sys2Proof.Machine

def exec (i : Instr) (s : State) : Host.Outcome State Fault Refusal :=
  match i with
  | .nop => Sys2Proof.Machine.execNop s
  | .lpx o => Sys2Proof.Machine.execLpx o s
  | .br o => Sys2Proof.Machine.execBr o s
  | .brl o => Sys2Proof.Machine.execBrl o s
  | .jr o => Sys2Proof.Machine.execJr o s
  | .loop o => Sys2Proof.Machine.execLoop o s
  | .halt o => Sys2Proof.Machine.execHalt o s
  | .trap o => Sys2Proof.Machine.execTrap o s
  | .spawn o => Sys2Proof.Machine.execSpawn o s
  | .trig o => Sys2Proof.Machine.execTrig o s
  | .ckpt o => Sys2Proof.Machine.execCkpt o s
  | .chk o => Sys2Proof.Machine.execChk o s
  | .add o => Sys2Proof.Machine.execAdd o s
  | .sub o => Sys2Proof.Machine.execSub o s
  | .mul o => Sys2Proof.Machine.execMul o s
  | .mulh o => Sys2Proof.Machine.execMulh o s
  | .and o => Sys2Proof.Machine.execAnd o s
  | .or o => Sys2Proof.Machine.execOr o s
  | .xor o => Sys2Proof.Machine.execXor o s
  | .shl o => Sys2Proof.Machine.execShl o s
  | .shr o => Sys2Proof.Machine.execShr o s
  | .sra o => Sys2Proof.Machine.execSra o s
  | .min o => Sys2Proof.Machine.execMin o s
  | .max o => Sys2Proof.Machine.execMax o s
  | .clz o => Sys2Proof.Machine.execClz o s
  | .popc o => Sys2Proof.Machine.execPopc o s
  | .bext o => Sys2Proof.Machine.execBext o s
  | .bins o => Sys2Proof.Machine.execBins o s
  | .lea o => Sys2Proof.Machine.execLea o s
  | .mov o => Sys2Proof.Machine.execMov o s
  | .add64 o => Sys2Proof.Machine.execAdd64 o s
  | .rdcr o => Sys2Proof.Machine.execRdcr o s
  | .wrcr o => Sys2Proof.Machine.execWrcr o s
  | .fadd o => Sys2Proof.Machine.execFadd o s
  | .fmul o => Sys2Proof.Machine.execFmul o s
  | .fmac o => Sys2Proof.Machine.execFmac o s
  | .fmin o => Sys2Proof.Machine.execFmin o s
  | .fmax o => Sys2Proof.Machine.execFmax o s
  | .cmpI32 o => Sys2Proof.Machine.execCmpI32 o s
  | .cmpN32 o => Sys2Proof.Machine.execCmpN32 o s
  | .cmpF32 o => Sys2Proof.Machine.execCmpF32 o s
  | .pand o => Sys2Proof.Machine.execPand o s
  | .por o => Sys2Proof.Machine.execPor o s
  | .pxor o => Sys2Proof.Machine.execPxor o s
  | .pnot o => Sys2Proof.Machine.execPnot o s
  | .btst o => Sys2Proof.Machine.execBtst o s
  | .cvtF2i o => Sys2Proof.Machine.execCvtF2i o s
  | .cvtI2f o => Sys2Proof.Machine.execCvtI2f o s
  | .cvtF2b o => Sys2Proof.Machine.execCvtF2b o s
  | .vcvt o => Sys2Proof.Machine.execVcvt o s
  | .vpack o => Sys2Proof.Machine.execVpack o s
  | .vunpk o => Sys2Proof.Machine.execVunpk o s
  | .vqnt o => Sys2Proof.Machine.execVqnt o s
  | .vdqnt o => Sys2Proof.Machine.execVdqnt o s
  | .vscl o => Sys2Proof.Machine.execVscl o s
  | .vadd o => Sys2Proof.Machine.execVadd o s
  | .vsub o => Sys2Proof.Machine.execVsub o s
  | .vmul o => Sys2Proof.Machine.execVmul o s
  | .vmac o => Sys2Proof.Machine.execVmac o s
  | .vmin o => Sys2Proof.Machine.execVmin o s
  | .vmax o => Sys2Proof.Machine.execVmax o s
  | .vabs o => Sys2Proof.Machine.execVabs o s
  | .vexp2 o => Sys2Proof.Machine.execVexp2 o s
  | .vrcp o => Sys2Proof.Machine.execVrcp o s
  | .vrsqrt o => Sys2Proof.Machine.execVrsqrt o s
  | .vclt o => Sys2Proof.Machine.execVclt o s
  | .vceq o => Sys2Proof.Machine.execVceq o s
  | .vsel o => Sys2Proof.Machine.execVsel o s
  | .viadd o => Sys2Proof.Machine.execViadd o s
  | .visub o => Sys2Proof.Machine.execVisub o s
  | .vimul o => Sys2Proof.Machine.execVimul o s
  | .vimac o => Sys2Proof.Machine.execVimac o s
  | .vimin o => Sys2Proof.Machine.execVimin o s
  | .vimax o => Sys2Proof.Machine.execVimax o s
  | .vand o => Sys2Proof.Machine.execVand o s
  | .vor o => Sys2Proof.Machine.execVor o s
  | .vxor o => Sys2Proof.Machine.execVxor o s
  | .vshl o => Sys2Proof.Machine.execVshl o s
  | .vshr o => Sys2Proof.Machine.execVshr o s
  | .vsra o => Sys2Proof.Machine.execVsra o s
  | .vilt o => Sys2Proof.Machine.execVilt o s
  | .vieq o => Sys2Proof.Machine.execVieq o s
  | .vredsum o => Sys2Proof.Machine.execVredsum o s
  | .vredmax o => Sys2Proof.Machine.execVredmax o s
  | .vperm o => Sys2Proof.Machine.execVperm o s
  | .vbcst o => Sys2Proof.Machine.execVbcst o s
  | .vext o => Sys2Proof.Machine.execVext o s
  | .vins o => Sys2Proof.Machine.execVins o s
  | .vtopk o => Sys2Proof.Machine.execVtopk o s
  | .vtopkI o => Sys2Proof.Machine.execVtopkI o s
  | .vmov o => Sys2Proof.Machine.execVmov o s
  | .vscan o => Sys2Proof.Machine.execVscan o s
  | .vcls o => Sys2Proof.Machine.execVcls o s
  | .vchk o => Sys2Proof.Machine.execVchk o s
  | .vsclf o => Sys2Proof.Machine.execVsclf o s
  | .vround o => Sys2Proof.Machine.execVround o s
  | .ldw o => Sys2Proof.Machine.execLdw o s
  | .ldh o => Sys2Proof.Machine.execLdh o s
  | .ldb o => Sys2Proof.Machine.execLdb o s
  | .stw o => Sys2Proof.Machine.execStw o s
  | .sth o => Sys2Proof.Machine.execSth o s
  | .stb o => Sys2Proof.Machine.execStb o s
  | .vld o => Sys2Proof.Machine.execVld o s
  | .vst o => Sys2Proof.Machine.execVst o s
  | .vlds o => Sys2Proof.Machine.execVlds o s
  | .vsts o => Sys2Proof.Machine.execVsts o s
  | .pref o => Sys2Proof.Machine.execPref o s
  | .atomAdd o => Sys2Proof.Machine.execAtomAdd o s
  | .atomIncb o => Sys2Proof.Machine.execAtomIncb o s
  | .atomCas o => Sys2Proof.Machine.execAtomCas o s
  | .stf o => Sys2Proof.Machine.execStf o s
  | .sbind o => Sys2Proof.Machine.execSbind o s
  | .sunbind o => Sys2Proof.Machine.execSunbind o s
  | .sdrain o => Sys2Proof.Machine.execSdrain o s
  | .sstat o => Sys2Proof.Machine.execSstat o s
  | .cpy o => Sys2Proof.Machine.execCpy o s
  | .cpf o => Sys2Proof.Machine.execCpf o s
  | .cgat o => Sys2Proof.Machine.execCgat o s
  | .cscat o => Sys2Proof.Machine.execCscat o s
  | .cfence o => Sys2Proof.Machine.execCfence o s
  | .barv o => Sys2Proof.Machine.execBarv o s
  | .bartx o => Sys2Proof.Machine.execBartx o s
  | .barw o => Sys2Proof.Machine.execBarw o s
  | .wge o => Sys2Proof.Machine.execWge o s
  | .cadd o => Sys2Proof.Machine.execCadd o s
  | .phaseRel o => Sys2Proof.Machine.execPhaseRel o s
  | .phaseAcq o => Sys2Proof.Machine.execPhaseAcq o s
  | .tcfg o => Sys2Proof.Machine.execTcfg o s
  | .tld o => Sys2Proof.Machine.execTld o s
  | .tldw o => Sys2Proof.Machine.execTldw o s
  | .tst o => Sys2Proof.Machine.execTst o s
  | .wlat o => Sys2Proof.Machine.execWlat o s
  | .mmac o => Sys2Proof.Machine.execMmac o s
  | .mmacz o => Sys2Proof.Machine.execMmacz o s
  | .aread o => Sys2Proof.Machine.execAread o s
  | .azero o => Sys2Proof.Machine.execAzero o s
  | .arow o => Sys2Proof.Machine.execArow o s
  | .fsig o => Sys2Proof.Machine.execFsig o s
  | .fgrp o => Sys2Proof.Machine.execFgrp o s
  | .frep o => Sys2Proof.Machine.execFrep o s
  | .fscat o => Sys2Proof.Machine.execFscat o s
  | .fsum o => Sys2Proof.Machine.execFsum o s
  | .hmk o => Sys2Proof.Machine.execHmk o s
  | .hpost o => Sys2Proof.Machine.execHpost o s
  | .hedit o => Sys2Proof.Machine.execHedit o s
  | .hfrz o => Sys2Proof.Machine.execHfrz o s
  | .hthaw o => Sys2Proof.Machine.execHthaw o s
  | .hfree o => Sys2Proof.Machine.execHfree o s
  | .hstat o => Sys2Proof.Machine.execHstat o s
  | .xst o => Sys2Proof.Machine.execXst o s
  | .xadd o => Sys2Proof.Machine.execXadd o s
  | .xincb o => Sys2Proof.Machine.execXincb o s
  | .xcas o => Sys2Proof.Machine.execXcas o s
  | .lwait o => Sys2Proof.Machine.execLwait o s
  | .lrel o => Sys2Proof.Machine.execLrel o s
  | .lhint o => Sys2Proof.Machine.execLhint o s
  | .eret o => Sys2Proof.Machine.execEret o s
  | .save o => Sys2Proof.Machine.execSave o s
  | .rest o => Sys2Proof.Machine.execRest o s
  | .sev o => Sys2Proof.Machine.execSev o s
  | .domw o => Sys2Proof.Machine.execDomw o s
  | .resultLand o => Sys2Proof.Machine.execResultLand o s
  | .loadReturn o => Sys2Proof.Machine.execLoadReturn o s
  | .notification => Sys2Proof.Machine.execNotification s
  | .checkpoint => Sys2Proof.Machine.execCheckpoint s
  | .recoveryRestore => Sys2Proof.Machine.execRecoveryRestore s
  | .rerunEnd => Sys2Proof.Machine.execRerunEnd s
  | .taskBind o => Sys2Proof.Machine.execTaskBind o s
  | .launchDependentStart o => Sys2Proof.Machine.execLaunchDependentStart o s
  | .jobStart o => Sys2Proof.Machine.execJobStart o s
  | .pageWalkComplete o => Sys2Proof.Machine.execPageWalkComplete o s
  | .jobComplete o => Sys2Proof.Machine.execJobComplete o s
  | .migration o => Sys2Proof.Machine.execMigration o s
  | .streamFetch o => Sys2Proof.Machine.execStreamFetch o s
  | .streamVectorLand o => Sys2Proof.Machine.execStreamVectorLand o s
  | .streamCompletionArrival o => Sys2Proof.Machine.execStreamCompletionArrival o s
  | .releasePerform o => Sys2Proof.Machine.execReleasePerform o s
  | .stfRelease o => Sys2Proof.Machine.execStfRelease o s
  | .matrixOpComplete => Sys2Proof.Machine.execMatrixOpComplete s
  | .treeFlitArrival o => Sys2Proof.Machine.execTreeFlitArrival o s
  | .treeRefillComplete a b => Sys2Proof.Machine.execTreeRefillComplete a b s
  | .treeDelivery a b c => Sys2Proof.Machine.execTreeDelivery a b c s
  | .treeFreezeComplete o => Sys2Proof.Machine.execTreeFreezeComplete o s
  | .rotorSlotStart => Sys2Proof.Machine.execRotorSlotStart s
  | .flitReceive o => Sys2Proof.Machine.execFlitReceive o s
  | .ackReceive a b => Sys2Proof.Machine.execAckReceive a b s
  | .ackTimer o => Sys2Proof.Machine.execAckTimer o s
  | .replayTimeout o => Sys2Proof.Machine.execReplayTimeout o s
  | .pairUnreachable o => Sys2Proof.Machine.execPairUnreachable o s
  | .laserPowerLow a b => Sys2Proof.Machine.execLaserPowerLow a b s
  | .laserPowerHigh a b => Sys2Proof.Machine.execLaserPowerHigh a b s
  | .laserInputLost a b => Sys2Proof.Machine.execLaserInputLost a b s
  | .laserInputRestored a b => Sys2Proof.Machine.execLaserInputRestored a b s
  | .layerLoadStart => Sys2Proof.Machine.execLayerLoadStart s
  | .layerLoadComplete a b => Sys2Proof.Machine.execLayerLoadComplete a b s
  | .layerLoadFail a b c => Sys2Proof.Machine.execLayerLoadFail a b c s
  | .lwaitTimeout => Sys2Proof.Machine.execLwaitTimeout s
  | .resyncComplete o => Sys2Proof.Machine.execResyncComplete o s
  | .budgetWindow o => Sys2Proof.Machine.execBudgetWindow o s
  | .commandFetch o => Sys2Proof.Machine.execCommandFetch o s
  | .launch a b => Sys2Proof.Machine.execLaunch a b s
  | .copy a b => Sys2Proof.Machine.execCopy a b s
  | .signal a b => Sys2Proof.Machine.execSignal a b s
  | .wait a b => Sys2Proof.Machine.execWait a b s
  | .waitSatisfied a b => Sys2Proof.Machine.execWaitSatisfied a b s
  | .treeMake a b => Sys2Proof.Machine.execTreeMake a b s
  | .treeEdit a b => Sys2Proof.Machine.execTreeEdit a b s
  | .treeFree a b => Sys2Proof.Machine.execTreeFree a b s
  | .power a b => Sys2Proof.Machine.execPower a b s
  | .fence a b => Sys2Proof.Machine.execFence a b s
  | .ctxCreate a b => Sys2Proof.Machine.execCtxCreate a b s
  | .ctxDestroy a b => Sys2Proof.Machine.execCtxDestroy a b s
  | .ctxPreempt a b => Sys2Proof.Machine.execCtxPreempt a b s
  | .ctxRestore a b => Sys2Proof.Machine.execCtxRestore a b s
  | .ctxQueue a b => Sys2Proof.Machine.execCtxQueue a b s
  | .ctxResumeq a b => Sys2Proof.Machine.execCtxResumeq a b s
  | .ctxGrant a b => Sys2Proof.Machine.execCtxGrant a b s
  | .ctxHandler a b => Sys2Proof.Machine.execCtxHandler a b s
  | .ctxObject a b => Sys2Proof.Machine.execCtxObject a b s
  | .ctxObjreset a b => Sys2Proof.Machine.execCtxObjreset a b s
  | .ctxBudget a b => Sys2Proof.Machine.execCtxBudget a b s
  | .ctxInval a b => Sys2Proof.Machine.execCtxInval a b s
  | .ctxFault a b => Sys2Proof.Machine.execCtxFault a b s
  | .ctxEvring a b => Sys2Proof.Machine.execCtxEvring a b s
  | .drainTimeout o => Sys2Proof.Machine.execDrainTimeout o s
  | .saveComplete o => Sys2Proof.Machine.execSaveComplete o s
  | .saveTimeout o => Sys2Proof.Machine.execSaveTimeout o s
  | .contextQuiesced o => Sys2Proof.Machine.execContextQuiesced o s
  | .powerOn => Sys2Proof.Machine.execPowerOn s
  | .bringupStageDone o => Sys2Proof.Machine.execBringupStageDone o s
  | .hctlGo => Sys2Proof.Machine.execHctlGo s
  | .hctlHrst => Sys2Proof.Machine.execHctlHrst s
  | .mrst o => Sys2Proof.Machine.execMrst o s
  | .evhead o => Sys2Proof.Machine.execEvhead o s
  | .dbell a b => Sys2Proof.Machine.execDbell a b s
  | .hostRegisterWrite a b c => Sys2Proof.Machine.execHostRegisterWrite a b c s
  | .cxlMemRead a b c => Sys2Proof.Machine.execCxlMemRead a b c s
  | .cxlMemWrite a b c => Sys2Proof.Machine.execCxlMemWrite a b c s
  | .ucieModuleLoss o => Sys2Proof.Machine.execUcieModuleLoss o s
  | .frameReceive o => Sys2Proof.Machine.execFrameReceive o s
  | .thermalTrip a b => Sys2Proof.Machine.execThermalTrip a b s
  | .thermalClear => Sys2Proof.Machine.execThermalClear s
  | .postSourceRead o => Sys2Proof.Machine.execPostSourceRead o s
  | .treeThawComplete o => Sys2Proof.Machine.execTreeThawComplete o s
  | .operatingPointInForce => Sys2Proof.Machine.execOperatingPointInForce s

end Sys2Proof.Machine
end

