-- ==== Sys2Proof/Machine/Bundle.lean ====
section
/-! DEFINITION. How a tile and the device advance by one step: a bundle issues whole (R44 to R56), in a ribbon every due rank
with it (R126 to R128); a tile that cannot issue lets the next internal event happen. `exec` gives each operation and
event its effect; this file orders them. -/

namespace Sys2Proof.Machine

/-! ### The arithmetic clocks (R433) -/

/-- The events of tiles and copy engines, which a thermal trip stops. -/
def clocked : Instr → Bool
  | .resultLand _ => true
  | .loadReturn _ => true
  | .notification => true
  | .checkpoint => true
  | .recoveryRestore => true
  | .rerunEnd => true
  | .jobStart _ => true
  | .jobComplete _ => true
  | .postSourceRead _ => true
  | .streamFetch _ => true
  | .streamVectorLand _ => true
  | .streamCompletionArrival _ => true
  | .releasePerform _ => true
  | .stfRelease _ => true
  | .matrixOpComplete => true
  | .lwaitTimeout => true
  | _ => false

/-- An event happens, unless its clock stands still. -/
def State.happen (s : State) (e : Instr) : Host.Outcome State Fault Refusal :=
  if s.dev.tripped && clocked e then .next s else exec e s

/-! ### Issuing a bundle -/

/-- Whether an output stream is bound. -/
def Tile.writesStreams (t : Tile) : Bool := t.core.ports.any fun p => p.bound && p.out

/-- Whether a word is `save` or `rest`. -/
def imageOp (w : Word) : Bool :=
  match decodeWord w with
  | .ok (.save _) => true
  | .ok (.rest _) => true
  | _ => false

/-- The tile as its operations find it: sources frozen (R48), the program counter past the bundle, no checkpoint since. -/
def State.prepare (s : State) (b : Bundle) : State :=
  let t := s.tile
  { s with
    src := t
    tile := { t with core := { t.core with pc := t.core.pc + BitVec.ofNat 20 b.len }, ckFresh := false }
    iss := {
      pc := t.core.pc
      len := b.len
      pool := b.pool
      word := 0
      raw := b.ops.headD 0
      word0 := b.ops.headD 0
      both := b.ops.any (fun w => decide (pipeOf (opcodeOf w) = .x)) && b.ops.any fun w =>
        decide (pipeOf (opcodeOf w) = .m) || imageOp w || (decide (pipeOf (opcodeOf w) ≠ .x) && t.writesStreams)
      ops := b.ops
      fl := 0
      xregs := #v[s.dev.xrun, s.dev.xcont, s.dev.xacc, s.dev.lbud]
      late := []
      status := .ok } }

/-- The operation word at place k. -/
def State.atWord (s : State) (k : Nat) (w : Word) : State := { s with iss := { s.iss with word := k, raw := w, status := .ok } }

/-- One operation word: its instruction's meaning, or illegal-instruction (R43, R57). -/
def State.execWord (s : State) (k : Nat) (w : Word) : Host.Outcome State Fault Refusal :=
  let s := s.atWord k w
  match decodeWord w with
  | .ok i => exec i s
  | .error _ => .next (s.trapAt .illegalInstruction w 0 0 .trapDecode)

/-- Operation words with their places. -/
def Bundle.words (b : Bundle) : List (Word × Nat) := b.ops.zipIdx

/-- What the check of a bundle, each operation tried alone on the state at issue, finds (R53, R55, R56, R137). -/
inductive Verdict where
  | decodeTrap (s : State)
  | stop (o : Host.Outcome State Fault Refusal)
  | ckpt
  | stall (s : State)
  | execTrap (s : State)
  | go (b : Bundle)

def outState : Host.Outcome State Fault Refusal → Option State
  | .next s => some s
  | _ => none

/-- The first outcome with a status. -/
def firstStatus (x : IssueStatus) (os : List (Host.Outcome State Fault Refusal)) : Option State :=
  os.findSome? fun o => (outState o).bind fun s => if s.iss.status = x then some s else none

def firstStop (os : List (Host.Outcome State Fault Refusal)) : Option (Host.Outcome State Fault Refusal) :=
  os.find? fun o => (outState o).isNone

/-- R56: decode causes of every word, then a checkpoint that must come first, then waits, then execution causes. -/
def judge (os : List (Host.Outcome State Fault Refusal)) (b : Bundle) : Verdict :=
  match firstStatus .trapDecode os with
  | some s => .decodeTrap s
  | none => match firstStop os with
    | some o => .stop o
    | none => match firstStatus .ckpt os with
      | some _ => .ckpt
      | none => match firstStatus .stall os with
        | some s => .stall s
        | none => match firstStatus .trapExec os with
          | some s => .execTrap s
          | none => .go b

/-- A trap that the fetch of the bundle raises (R29, R45). -/
def State.fetchTrap (s : State) (c : Cause) (info : Word) (bits len : Nat) : State :=
  s.enterTrap c s.tile.core.pc info bits 0 len 0

/-- The verdict on the focused tile's next bundle. -/
def State.verdict (s : State) : Verdict :=
  let pc := s.tile.core.pc.toNat
  match s.fetchAt s.tile pc with
  | .outside => .decodeTrap (s.fetchTrap .accessFault (nat32 pc) fetchBit 1)
  | .illegal len => .decodeTrap (s.fetchTrap .illegalBundle ((s.codeWord s.tile pc 0).getD 0) 0 len)
  | .bundle b =>
    let p := s.prepare b
    judge (b.words.map fun x => p.execWord x.2 x.1) b

/-- Every operation of the bundle in word order: the value of the later word stands (R49). -/
def runWords : List (Word × Nat) → State → Host.Outcome State Fault Refusal
  | [], s => .next s
  | x :: l, s =>
    match s.execWord x.2 x.1 with
    | .next s' => runWords l s'
    | o => o

/-- The bundle has issued: one cycle more (R117), one bundle more of the interval (R142). -/
def Tile.issueDone (t : Tile) : Tile :=
  { t with
    cyc := t.cyc + 1
    issued := t.issued + 1
    lwCount := 0
    lwOn := none
    recov := { t.recov with retired := t.recov.retired + (if t.inRerun then 1 else 0) } }

/-- The tile with every vector written so far, and one for each load to an output port, landed: what the bundle's writes and
actions will have put into the rollback store and the commit queue. -/
def Tile.settled (t : Tile) : Tile :=
  (t.loads.foldl (fun u l => match l.dst with
    | .port q => if (u.core.port q).bound then u.pushVec q vecZero else u
    | _ => u) t).landOutputs

/-- Whether the bundle's writes or actions overflow the rollback store or the commit queue (R137 to R139). -/
def Tile.overflows (t : Tile) : Bool :=
  let u := t.settled
  decide (1024 < u.rb.length) || decide (32 < u.cq.length)

/-- The bytes that the store instructions of a bundle write with it (R187, R40, R279). -/
def State.storedBytes (s : State) (b : Bundle) : List Nat :=
  let p := s.prepare b
  let scalar (o : FM) (n : Nat) : List Nat := if p.guard o.g then (List.range n).map fun i => (p.ea o.a o.off n).toNat + i else []
  b.ops.flatMap fun w => match decodeWord w with
    | .ok (.stw o) => scalar o 4
    | .ok (.sth o) => scalar o 2
    | .ok (.stb o) => scalar o 1
    | .ok (.vst o) => if p.guard o.g then (List.range 64).map fun i => (p.ea o.a o.off 64).toNat + i else []
    | .ok (.vsts o) => if p.guard o.g then (p.strided o).bytes else []
    | .ok (.tst o) =>
      let x := p.planes o
      let acc := runsAcc x.b1.toNat (tileRuns (Cfg.ofWord (p.tcfgOf o.y.toNat)) x.b1 x.p1 x.b2 x.p2)
      if p.guard o.g && (p.iss.both || p.accVs acc) then acc.bytes else []
    | _ => []

/-- A store to the own window that touches a barrier object in use leaves its words undefined (R250). -/
def State.spoilOwn (s : State) (b : Bundle) (t : State) : State :=
  let u := s.tile
  let keys := (s.storedBytes b).filterMap fun a => if u.owns a then s.chipKey u.ctx u.ltile a else none
  if keys.isEmpty then t
  else t.spoil ((s.barsInUse none).filter fun x => !(decide (x.2.1.phys = u.phys) && (s.awaitedBar u).contains x.2.2)) keys

/-- One thing that a bundle does once it has issued. -/
def State.doLate (s : State) : Late → State
  | .near a bs => { s with dev := { s.dev with near := s.dev.near.write a bs } }
  | .grant ctx e base len rights => s.modCtx ctx fun c => { c with grants := c.grants.setIfInBounds e ⟨base, len, rights⟩ }

/-- What the operations of a bundle do to the near store and to the grants comes after all of them, in word order (R48, R49). -/
def State.flushLate (s : State) : State := { s.iss.late.foldl State.doLate s with iss := { s.iss with late := [] } }

/-- The whole bundle on the focused tile; none where a checkpoint must come first (R137). -/
def State.issue (s : State) (b : Bundle) : Option (Host.Outcome State Fault Refusal) :=
  match runWords b.words (s.prepare b) with
  | .next s' =>
    if s'.tile.overflows && !s.tile.ckFresh then none
    else some (.next (s.spoilOwn b { s'.flushLate with tile := s'.tile.issueDone }))
  | o => some o

/-! ### Ribbons (R126, R127) -/

/-- What rank 0 read and decided at its bundle. -/
def State.decide0 (s : State) (b : Bundle) : Decision :=
  let s := s.prepare b
  { guards := b.ops.map fun w => s.src.core.pred (w.extractLsb' 20 3)
    jr := b.ops.findSome? fun w => match decodeWord w with
      | .ok (.jr o) => some (s.bval o.b)
      | _ => none
    loop := b.ops.findSome? fun w => match decodeWord w with
      | .ok (.loop o) => some (decide (1 < (s.rd o.a).toNat))
      | _ => none }

/-- Whether a rank's bundle is due at the ribbon's time: rank k runs k × S behind rank 0, in a handler as in the program; a rank
that has returned from the handler waits until all have, so that the ribbon goes on as one unit (R126, R128). -/
def State.isDue (s : State) (r : Ribbon) (phys rank : Nat) : Bool :=
  let t := s.getTile phys
  decide (rank * r.skew ≤ r.clock.time) && decide (t.stat = .running) &&
    (match r.clock.outer with
     | none => !r.clock.skip.contains rank
     | some _ => t.core.inHandler)

/-- The ranks whose bundle is due at the ribbon's time. -/
def State.dueRanks (s : State) (r : Ribbon) : List Nat := (r.tiles.zipIdx.filter fun x => s.isDue r x.1 x.2).map Prod.fst

/-- The decision of one ribbon time; a time at which rank 0 had no bundle, its `eret` having passed it, decides nothing (R127, R388). -/
def RClock.record (k : RClock) (d : Decision) : RClock :=
  { k with dec := (k.dec ++ List.replicate (k.time - k.dec.length) (⟨[], none, none⟩ : Decision)).take k.time ++ [d] }

/-- Rank 0's decisions are recorded before the other ranks of the same time look at them. -/
def State.recordDecision (s : State) (r : Ribbon) : State :=
  let p := r.tiles.headD 0
  if s.isDue r p 0 then
    let d : Decision := match s.fetchAt (s.getTile p) (s.getTile p).core.pc.toNat with
      | .bundle b => (s.focus p).decide0 b
      | _ => ⟨[], none, none⟩
    s.modClock p fun x => { x with clock := x.clock.record d }
  else s

/-- One unit of ribbon time has passed; `back` says that every rank has returned from the handler. A rank whose first bundle is still
to come keeps the mark that its `eret` has passed it. -/
def RClock.tick (k : RClock) (skew : Nat) (back : Bool) : RClock :=
  match k.outer with
  | none => ⟨k.time + 1, k.dec, none, k.skip.filter fun p => decide (k.time < p * skew)⟩
  | some (t, d) => if back then ⟨t, d, none, k.skip⟩ else { k with time := k.time + 1 }

def State.tickRibbon (s : State) (phys : Nat) : State :=
  match s.ribbonOf phys with
  | none => s
  | some r =>
    let back := r.tiles.all fun p => decide ((s.getTile p).stat ≠ .running) || !(s.getTile p).core.inHandler
    s.modClock phys fun x => { x with clock := x.clock.tick x.skew back }

/-- The focus returns to a tile. -/
def back (phys : Nat) : Host.Outcome State Fault Refusal → Host.Outcome State Fault Refusal
  | .next s => .next (s.focus phys)
  | o => o

/-- The verdicts of the due ranks, taken together. -/
inductive Joint where
  | trap (s : State)
  | stop (o : Host.Outcome State Fault Refusal)
  | ckpt
  | stall (l : List State)
  | go (l : List (Nat × Bundle))

/-- Whether a trap is that of an `lwait`, which ends its own wait and so waits for no other rank (R370, R371, R374). -/
def State.endsWait (s : State) : Bool :=
  match decodeWord s.iss.raw with
  | .ok (.lwait _) => true
  | _ => false

/-- The first rank's trap of execution, among those of an `lwait` alone or among all. -/
def execTraps (lwaits : Bool) (vs : List (Nat × Verdict)) : Option State :=
  vs.findSome? fun v => match v.2 with
    | .execTrap s => if s.endsWait || !lwaits then some s else none
    | _ => none

def joinVerdicts (vs : List (Nat × Verdict)) : Joint :=
  match vs.findSome? fun v => match v.2 with
    | .decodeTrap s => some s
    | _ => none with
  | some s => .trap s
  | none => match vs.findSome? fun v => match v.2 with
      | .stop o => some o
      | _ => none with
    | some o => .stop o
    | none =>
      if vs.any fun v => match v.2 with
        | .ckpt => true
        | _ => false then .ckpt
      else match execTraps true vs with
      | some s => .trap s
      | none => match vs.filterMap fun v => match v.2 with
          | .stall s => some s
          | _ => none with
        | s :: l => .stall (s :: l)
        | [] => match execTraps false vs with
          | some s => .trap s
          | none => .go (vs.filterMap fun v => match v.2 with
              | .go b => some (v.1, b)
              | _ => none)

/-- The due bundles issue, rank after rank; none where some rank needs a checkpoint first. -/
def issueAll : List (Nat × Bundle) → State → Option (Host.Outcome State Fault Refusal)
  | [], s => some (.next s)
  | x :: l, s =>
    match (s.focus x.1).issue x.2 with
    | some (.next s') => issueAll l s'
    | r => r

/-! ### Internal events -/

/-- The job events of the focused tile. -/
def Tile.jobEvents (t : Tile) : List Instr :=
  t.jobs.flatMap fun j => [.jobStart j.slot, .pageWalkComplete j.slot, .postSourceRead j.slot, .jobComplete j.slot]

def Tile.ownEvents (t : Tile) : List Instr :=
  (if t.mq.isEmpty then [] else [.matrixOpComplete]) ++
  (List.range t.loads.length).map Instr.loadReturn ++
  ((List.range 12).filter fun q => (t.core.port q).bound).flatMap (fun q => [.streamVectorLand q, .streamFetch q]) ++
  t.jobEvents ++
  (List.range t.released.length).flatMap fun i => [.releasePerform i, .stfRelease i, .streamCompletionArrival i]

/-- The event of a fetched command that has not completed, by its TYPE and SUB (R400, R401). -/
def Cmd.event (c : Cmd) (q : Nat) : List Instr :=
  match c.word 0 % 256, c.word 0 / 2 ^ 16 % 256 with
  | 1, _ => [.launch q c.sq]
  | 2, _ => [.copy q c.sq]
  | 3, _ => [.signal q c.sq]
  | 4, _ => [.waitSatisfied q c.sq, .wait q c.sq]
  | 5, 0 => [.treeMake q c.sq]
  | 5, 1 => [.treeEdit q c.sq]
  | 5, 2 => [.treeFree q c.sq]
  | 6, 0 => [.ctxCreate q c.sq]
  | 6, 1 => [.ctxDestroy q c.sq]
  | 6, 2 => [.ctxPreempt q c.sq]
  | 6, 3 => [.ctxRestore q c.sq]
  | 6, 4 => [.ctxQueue q c.sq]
  | 6, 5 => [.ctxResumeq q c.sq]
  | 6, 6 => [.ctxGrant q c.sq]
  | 6, 7 => [.ctxHandler q c.sq]
  | 6, 8 => [.ctxObject q c.sq]
  | 6, 9 => [.ctxObjreset q c.sq]
  | 6, 10 => [.ctxBudget q c.sq]
  | 6, 11 => [.ctxInval q c.sq]
  | 6, 12 => [.ctxFault q c.sq]
  | 6, 13 => [.ctxEvring q c.sq]
  | 7, _ => [.power q c.sq]
  | 8, _ => [.fence q c.sq]
  | _, _ => []

def Device.queueEvents (d : Device) : List Instr :=
  d.queues.flatMap fun x => x.cmds.flatMap (fun c => if c.state = .done then [] else c.event x.num) ++ [.commandFetch x.num]

def Tree.events (t : Tree) : List Instr :=
  [.treeFreezeComplete t.idx, .treeThawComplete t.idx] ++
  (t.nodes.filter (·.missing)).map (fun x => .treeRefillComplete t.idx x.node) ++
  t.flight.map (fun f => .treeFlitArrival ⟨t.idx, f.node, f.child, f.seg⟩) ++
  t.posts.map fun p => .treeDelivery t.idx p.seg p.tile

def Device.events (d : Device) : List Instr :=
  d.trees.flatMap Tree.events ++
  [.operatingPointInForce, .layerLoadStart] ++ d.loading.flatMap (fun r =>
    .layerLoadComplete r.obj r.layer :: (List.range 5).map fun i => .layerLoadFail r.obj r.layer (i + 1)) ++
  (List.range d.launches.length).flatMap (fun i => [.launchDependentStart i, .taskBind i]) ++ d.queueEvents ++
  d.ctxs.flatMap (fun c => [.saveComplete c.num, .contextQuiesced c.num]) ++
  (if d.host.stage < 6 then [.bringupStageDone true] else [])

/-- Every tile's part in the events of the device, then the device's own. -/
def State.events (s : State) : List Instr := s.tile.ownEvents ++ s.dev.events

/-- The first event of a list that does anything. -/
def firstEffect (s : State) : List Instr → Option (Host.Outcome State Fault Refusal)
  | [] => none
  | i :: l =>
    match s.happen i with
    | .next s' => if s' = s then firstEffect s l else some (.next s')
    | o => some o

/-- A cycle passes on the focused tile. -/
def State.tick (s : State) : State :=
  if s.dev.tripped then s else { s with tile := { s.tile with cyc := s.tile.cyc + 1 } }

/-- Nothing issues: the next internal event happens, else a cycle passes. -/
def State.idle (s : State) : Host.Outcome State Fault Refusal :=
  match firstEffect s s.events with
  | some o => o
  | none => .next s.tick

/-- What the waiting bundles of the unit leave: the requests of every `lwait`, and what its tile waits for (R370, R374). -/
def State.noteWaits (s : State) (ws : List State) : State :=
  ws.foldl (fun s w =>
    { s with dev := { s.dev with reqs := s.dev.reqs ++ w.dev.reqs.filter fun r => !s.dev.reqs.contains r } }.modTile w.tile.phys
      fun t => { t with lwOn := w.tile.lwOn }) s

/-- A bundle waits at issue: an event, else a cycle, which counts for every `lwait` (R371). -/
def State.stalled (s : State) (ws : List State) : Host.Outcome State Fault Refusal :=
  let s := s.noteWaits ws
  match firstEffect s s.events with
  | some o => o
  | none =>
    .next { ws.foldl (fun x w => x.modTile w.tile.phys fun t => { t with lwCount := w.tile.lwCount }) s.tick with
      iss := (ws.head?.map (·.iss)).getD s.iss }

/-! ### One step -/

/-- An event that may have to wait for others. -/
def State.tryEvent (s : State) (i : Instr) : Host.Outcome State Fault Refusal :=
  match s.happen i with
  | .next s' => if s' = s then s.idle else .next s'
  | o => o

/-- The unit of issue: the focused tile, or its ribbon at the ribbon's time. -/
def State.issueUnit (s : State) : Host.Outcome State Fault Refusal :=
  let me := s.tile.phys
  let rib := s.ribbonOf me
  let s1 := match rib with
    | some r => s.recordDecision r
    | none => s
  let due := match rib with
    | some r => s1.dueRanks r
    | none => [me]
  match joinVerdicts (due.map fun p => (p, (s1.focus p).verdict)) with
  | .trap t => .next (t.focus me)
  | .stop o => o
  | .ckpt => s.tryEvent .checkpoint
  | .stall w => s.stalled w
  | .go l =>
    match issueAll l s1 with
    | some (.next t) => .next ((if rib.isSome then t.tickRibbon me else t).focus me)
    | some o => o
    | none => s.tryEvent .checkpoint

/-- Whether the context lets its tiles issue (R407); a rerun goes on at the Save rung (R409). -/
def State.mayIssue (s : State) : Bool :=
  decide (s.tile.stat = .running) && !s.dev.tripped &&
  match s.ctx? s.tile.ctx with
  | some c => decide (c.state = .run) || decide (c.state = .drain) || (decide (c.state = .save) && s.tile.inRerun)
  | none => true

/-- The place of a result whose bound has come (R51). -/
def Tile.dueResult (t : Tile) : Option Nat :=
  let i := t.pend.findIdx fun p => decide (p.due ≤ t.cyc)
  if i < t.pend.length then some i else none

/-- A rank that has a result to land, and the result. -/
def State.dueRank (s : State) : Option (Nat × Nat) :=
  s.ranks.findSome? fun p => ((s.getTile p).dueResult).map fun i => (p, i)

/-- Whether the tile has a notification to take (R378, R384). -/
def Tile.notified (t : Tile) : Bool := !t.notes.isEmpty && t.notesOpen

/-- The focused tile's next step, device events filling its waits. -/
def State.advance (s : State) : Host.Outcome State Fault Refusal :=
  if s.errorPending || s.tile.recov.phase = .restoreB then s.tryEvent .recoveryRestore
  else if s.mayIssue then
    if s.ranks.any fun p => (s.getTile p).inRerun && (s.getTile p).recov.ended then s.tryEvent .rerunEnd
    else match s.dueRank with
      | some (p, i) => back s.tile.phys (exec (.resultLand i) (s.focus p))
      | none =>
        if s.ranks.any fun p => (s.getTile p).ckDue then s.tryEvent .checkpoint
        else if s.tile.notified && !s.tile.inRerun then exec .notification s
        else s.issueUnit
  else s.idle

end Sys2Proof.Machine
end

