-- ==== Sys2Proof/Machine/Step.lean ====
section
/-! DEFINITION. One step of the machine, and the placing of an instruction where the next step fetches it. -/

namespace Sys2Proof.Machine

/-- An input of the schedule: an event happens, the focus moves to another tile, or the outside world acts. -/
def State.input (s : State) (x : Input) : Host.Outcome State Fault Refusal :=
  match x with
  | .event e => s.happen e
  | .focus p => .next (if p < 512 then s.focus p else s)
  | .hostStore a bs => .next (s.hostStore a bs)
  | .remoteStore d a bs => .next (s.remoteStore d a bs)
  | .remotePost idx dev tile seg bs => .next (s.remotePost idx dev tile seg bs)
  | .image i => .next (s.bringImage i)
  | .temperature t => .next (s.reading t)
  | .upset u => .next (s.upset u)

/-- One step: the next scheduled input, else the focused tile goes on. -/
def step (s : State) : Host.Outcome State Fault Refusal :=
  match s.sched with
  | x :: rest => { s with sched := rest }.input x
  | [] => s.advance

/-- The image that `withFetchWord` makes the task's: a packet with the word, and packets of zeros, enough for an `lpx`. -/
def fetchImageSize : Nat := 8

/-- An instruction stored at the program counter of a task just started by a supervisor launch with every feature, so that
the next step fetches and runs it (R118, R378). -/
def State.withFetchWord (s : State) (_nbits w : Nat) : State :=
  let t := s.tile
  let core := { t.core with pc := 0, sup := true, inHandler := false }
  let base := codeStore (t.phys / 16)
  let task := { t.task with supLaunch := true, feat := 0x7F, imgBase := 0, imgSize := fetchImageSize }
  { s with
    sched := []
    tile := { t with
      stat := .running
      ntile := max 1 t.ntile
      task := task
      core := core
      ck := core
      ckFresh := true
      ckDue := false
      haltDue := false
      pend := []
      notes := []
      recov := Recov.idle }
    dev := { s.dev with
      tripped := false
      code := (s.dev.code.write base (List.replicate (12 * fetchImageSize) 0)).writeNat base 4 w } }

end Sys2Proof.Machine
end

