-- ==== Sys2Proof/Safety.lean ====
section
/-! DEFINITION. What a safe run is, in the terms of the statements: the machine goes on, the memories keep their canonical
form; and the words in which statements say what an operation waits for and what it leaves alone. -/

namespace Sys2Proof.Machine

/-! ### Safe runs -/

/-- Every memory of the device in canonical form, those of the images that it has been brought among them. -/
def Device.memWf (d : Device) : Bool :=
  d.near.wf && d.lpddr.wf && d.hostMem.wf && d.remote.wf && d.code.wf && d.ctxs.all Ctx.memWf &&
    d.brought.all fun i => i.ctx.memWf

/-- Every memory of the state in canonical form. -/
def State.memWf (s : State) : Bool := s.tile.memWf && s.others.all Tile.memWf && s.src.memWf && s.dev.memWf

/-- A run of n steps stays safe: no fault, no refusal. -/
def safeRun (s : State) (n : Nat) : Prop := ∃ t, Host.Core.run Sys2Proof.core n s = .next t

/-! ### When an operation completes -/

/-- The operands are there: nothing to wait for (R53, R228), no checkpoint that must come first (R137), no stream fault
(R204). -/
def State.free? (s : State) (u : Uses) : Bool :=
  !s.waits u && !s.tokenCheckpoint u && (s.streamFault u.vecs u.dvecs).isNone

/-- A checkpointing operation finds the checkpoint before its bundle taken (R137). -/
def State.freeCk (s : State) (u : Uses) : Bool := s.free? u && s.src.ckFresh

/-- The guard is true (R46). -/
def State.on (s : State) (g : Guard) : Bool := s.src.core.pred g

/-- The tile issues alone, or as rank 0: its control operations follow their own guards (R127). -/
def State.leads (s : State) : Bool := s.decision.isNone

/-- No vector written to an output stream waits to land. -/
def Tile.quiet (t : Tile) : Bool := (List.range 12).all fun q => !t.outPending q

/-! ### What an operation leaves alone -/

/-- The registers but for s0 to s63, the predicates, the lattice, cr.flags, the stream ports, the program counter and the
token registers. -/
def Core.special (c : Core) : Core :=
  { c with
    pc := 0
    s := Core.reset.s
    p := 0
    lat := Core.reset.lat
    flags := 0
    tokPend := []
    tokDone := []
    ports := Core.reset.ports }

/-- The rest of a tile: neither its registers, nor the bytes of its window, nor results on their way, nor the mark of a
checkpoint that is due, nor the log of its interval's results, nor parity errors of the lattice, nor its cycle count. -/
def Tile.rest (t : Tile) : Tile :=
  { t with
    core := Core.reset
    win := Mem.empty
    pend := []
    loads := []
    mq := []
    latBad := []
    ckDue := false
    recov := { t.recov with log := [] }
    cyc := 0 }

/-- The elements that some registers and lattice elements name; s0 is none (R94). -/
def written (regs : List Reg) (els : List Nat) : List Dst :=
  (regs.filter fun r => decide (r ≠ 0)).map Dst.sreg ++ els.map Dst.lat

/-- From s to t no register changes but `regs`, no lattice element but `els`, no predicate but `preds`, no stream port but
`ports`; the flags of the bundle are `fl` more; no special register, no accumulator, no exception register and no byte of
memory changes; results and tokens on their way stay on their way, but to the elements written. -/
structure Frame (s t : State) (regs : List Reg) (els : List Nat) (preds : List (BitVec 3)) (ports : List Nat) (fl : Word) :
    Prop where
  reg : ∀ r, r ∉ regs → t.tile.core.reg r = s.tile.core.reg r
  lat : ∀ i, i ∉ els → t.tile.core.latEl i = s.tile.core.latEl i
  pred : ∀ p, p ∉ preds → t.tile.core.pred p = s.tile.core.pred p
  port : ∀ q, q ∉ ports → t.tile.core.port q = s.tile.core.port q
  flags : t.tile.core.flags = s.tile.core.flags ||| fl
  special : t.tile.core.special = s.tile.core.special
  tokens : t.tile.core.tokPend = s.tile.core.tokPend.filter fun k => !(written regs els).contains (.sreg k.reg)
  mem : ∀ a, t.tile.win.readByte a = s.tile.win.readByte a
  near : ∀ a, t.dev.near.readByte a = s.dev.near.readByte a
  pend : t.tile.pend.take s.tile.pend.length = s.tile.pend.map (Pending.kill (written regs els))
  loads : t.tile.loads.take s.tile.loads.length =
    s.tile.loads.map fun l => { l with dst := l.dst.kill (written regs els) }
  queue : t.tile.mq.take s.tile.mq.length = s.tile.mq.map (XOp.kill (written regs els))
  parity : t.tile.latBad = s.tile.latBad.filter fun e => !els.contains e
  rest : t.tile.rest = s.tile.rest
  dev : t.dev = s.dev
  others : t.others = s.others

/-- The result of a latency-bound operation is on its way (R51): its elements, its flags, and the cycle of its bound, counted from the issue of its bundle. -/
def OnItsWay (s t : State) (ws : List (Dst × Word)) (fl : Word) (bound : Nat) : Prop :=
  t.tile.pend.getLast? = some ⟨ws.filter fun d => decide (d.1 ≠ .sreg 0), fl, s.src.cyc + bound⟩

/-- What a register holds after a value is written to it: s0 stays zero (R94). -/
def valueOf (r : Reg) (v : Word) : Word := if r = 0 then 0 else v

end Sys2Proof.Machine
end

