-- ==== Sys2Proof/Certificates/Slice0/Obligations.lean ====
section
/-! DEFINITION. The statements for the provers, and the tables of results they speak in: each row is written from the entry
of its instruction, in plain arithmetic where the entry is arithmetic. -/

open Sys2Proof Sys2Proof.Machine

/-! ### Vocabulary -/

namespace Sys2Proof.Claims

/-- An operation is ready: its guard is true, its fields pass the decode check, its operands are there (R46, R53). -/
def Ready (s : State) (g : Guard) (ok : Bool) (u : Uses) : Prop := s.on g = true ∧ ok = true ∧ s.free? u = true

/-- A checkpointing operation is ready once the checkpoint before its bundle is taken (R137). -/
def ReadyCk (s : State) (g : Guard) (ok : Bool) (u : Uses) : Prop := Ready s g ok u ∧ s.src.ckFresh = true

/-- A control operation follows rank 0's guard in a ribbon (R127). -/
def ReadyCtl (s : State) (g : Guard) (ok : Bool) (u : Uses) : Prop := s.ctlGuard g = true ∧ ok = true ∧ s.free? u = true

/-- The fields of an F-S operation with D, A and B name registers of the declaration (R94, R123). -/
def fsOk (s : State) (o : FS) : Bool := s.src.regOk o.d && s.src.regOk o.a && s.src.bOk o.b

/-- An F-S operation that reads sA and B and writes sD is ready. -/
def FsReady (s : State) (o : FS) : Prop := Ready s o.g (fsOk s o) (usesRegs (o.a :: o.b.regs) [o.d])

end Sys2Proof.Claims

open Sys2Proof.Claims

/-! ### Decoding and encoding -/

namespace Sys2Proof.Claims

/-- Words written out from the encodings of the formats (R28, R34 to R43), with the instructions they stand for. -/
def sampleWords : List (Word × Instr) :=
  [(0b1_00010000_000_000100_000100_000000_01, .add ⟨0, 4, 4, .pool 0⟩),
   (0b0_00110000_000_010_011_000100_001010_10, .cmpI32 ⟨0, 2, 3, 4, .imm 10⟩),
   (0b1_01000001_010_00_0011_01_0101_11_0001_00, .vadd ⟨2, .row 3, .col 5, .port 1, 0⟩),
   (0b1_01110000_000_001001_000110_00000010, .ldw ⟨0, 9, 6, 2⟩),
   (0b0_00000011_000_00000000000000000101, .brl ⟨0, 5⟩),
   (0b0_00000101_000_000111_11111111111111, .loop ⟨0, 7, -1⟩),
   (0b0_10001000_000_010100_000100_000101_00, .cpy ⟨0, 20, 4, .reg 5⟩),
   (0b0_10010010_000_001001_000100_001010_00, .barw ⟨0, 9, 4, .reg 10⟩),
   (0b0_10011001_000_000_001_001000_000000_01, .tld ⟨0, 1, 8, .pool 0⟩),
   (0b0_10100010_000_000_001_000000_000000_00, .fsig ⟨0, 0, 1⟩),
   (0b0_10101001_000_001010_000011_000100_00, .hpost ⟨0, 10, 3, .reg 4⟩),
   (0b0_10110000_000_001010_000100_001000_00, .xst ⟨0, 10, 4, 8⟩),
   (0b0_10111000_000_000111_000101_000000_00, .lwait ⟨0, 7, 5⟩),
   (0b0_11000000_000_000000_000000_000001_10, .eret ⟨0, .imm 1⟩)]

end Sys2Proof.Claims

/-- One word of most families, written out bit by bit, decodes to its instruction. -/
def Obligations.SampleWordsDecode : Prop := ∀ p ∈ sampleWords, decodeWord p.1 = .ok p.2

/-- Every well-formed operation is read back from its own word, with either chain bit and every operand at every value. -/
def Obligations.DecodeEncode : Prop :=
  ∀ (i : Instr) (c : Bool), i.wellFormed = true → i.isOperation = true → decodeWord (encode c i) = .ok i

/-- A word that decodes is the word of the instruction it decodes to: no bit of it is ignored (R5, R43). -/
def Obligations.EncodeDecode : Prop :=
  ∀ (w : Word) (i : Instr), decodeWord w = .ok i → encode (chainOf w) i = w ∧ i.wellFormed = true ∧ i.isOperation = true

/-- R57: a word whose opcode the map leaves unassigned, or whose fields no entry accepts, is no instruction: it raises
illegal-instruction, with the word in cr.einfo, at step 2 of R56. -/
def Obligations.NoInstructionTraps : Prop :=
  ∀ (s : State) (k : Nat) (w : Word),
    (decodeWord w).toOption = none ∨ opcodeAssigned (w.extractLsb' 23 8) = false →
    s.execWord k w = .next ((s.atWord k w).trapAt .illegalInstruction w 0 0 .trapDecode)

/-! ### One step -/

namespace Sys2Proof.Claims

/-- Nothing comes before the next bundle of the focused tile: no input, no error, no rerun that has ended, no result at its
bound, no due checkpoint, no notification; and the tile issues alone. -/
structure NextIsBundle (s : State) : Prop where
  sched : s.sched = []
  noError : s.errorPending = false
  phase : s.tile.recov.phase ≠ .restoreB
  may : s.mayIssue = true
  solo : s.ribbonOf s.tile.phys = none
  rerun : (s.tile.inRerun && s.tile.recov.ended) = false
  due : s.tile.dueResult = none
  ckDue : s.tile.ckDue = false
  note : (s.tile.notified && !s.tile.inRerun) = false

/-- The state after a bundle whose operations have left `t`: what they do to the near store and to the grants comes last (R48,
R49), the bundle has issued, and the words that its stores touch of a barrier object in use are undefined (R250). -/
def afterBundle (s : State) (b : Bundle) (t : State) : State :=
  (s.spoilOwn b { t.flushLate with tile := t.tile.issueDone }).focus s.tile.phys

/-- What becomes of a bundle of one operation word, from what its instruction answers. -/
def issueOne (s : State) (b : Bundle) (o : Host.Outcome State Fault Refusal) : Host.Outcome State Fault Refusal :=
  match o with
  | .next t =>
    match t.iss.status with
    | .ok =>
      if t.tile.overflows && !s.tile.ckFresh then s.tryEvent .checkpoint
      else .next (afterBundle s b t)
    | .trapDecode => .next (t.focus s.tile.phys)
    | .trapExec => .next (t.focus s.tile.phys)
    | .ckpt => s.tryEvent .checkpoint
    | .stall => s.stalled [t]
  | .fault r => .fault r
  | .refused r => .refused r

end Sys2Proof.Claims

/-- A step runs the decoded instruction: where the next bundle is one word that decodes to i, the step is exec of i on the
prepared state, with what the step adds around it: the program counter past the bundle before, the count of cycles after, what a
store leaves undefined of a barrier object in use, a checkpoint or a wait where i asks for one.
The model's choices in it: log entries 6 (what happens while a bundle waits), 10, 21, 104 and 124 (the near store and the grants
change once the bundle has issued). -/
def Obligations.StepRunsDecodedInstruction : Prop :=
  ∀ (s : State) (b : Bundle) (w : Word) (i : Instr),
    NextIsBundle s → s.fetchAt s.tile s.tile.core.pc.toNat = .bundle b → b.ops = [w] → decodeWord w = .ok i →
    step s = issueOne s b (exec i ((s.prepare b).atWord 0 w))

/-- A bundle issues whole, its words in order: where each of them, tried alone on the state at issue, has its effect, the step
runs them one after the other (R49).
The model's choices in it: log entries 10, 21, 104 and 124 (the near store and the grants change once the bundle has issued). -/
def Obligations.StepRunsWholeBundle : Prop :=
  ∀ (s t : State) (b : Bundle),
    NextIsBundle s → s.fetchAt s.tile s.tile.core.pc.toNat = .bundle b →
    (∀ x ∈ b.words, ∃ u, (s.prepare b).execWord x.2 x.1 = .next u ∧ u.iss.status = .ok) →
    runWords b.words (s.prepare b) = .next t → t.tile.overflows = false →
    step s = .next (afterBundle s b t)

/-- An event or command of the schedule happens in the next step, unless its clock stands still (R433); a choice of the tile to
go on with moves the focus; the host's stores in its own memory, a remote device's in its own, a remote member's contribution
to a tree, the image of a context that another device has saved, a sensor's reading and an error of the hardware have their
effect; a reading of 105 degrees or more (1680 sixteenths) is none outside a trip, nor once a tripped device has cooled, the trip
being an event of its own. The model's choices in it: log entries 6 (a schedule orders what the manual leaves open), 63 (remote members), 79 (images of other devices)
and 85 (the readings). -/
def Obligations.StepTakesInput : Prop :=
  ∀ (s : State) (x : Input) (rest : List Input), s.sched = x :: rest →
    let u : State := { s with sched := rest }
    step s = match x with
      | .focus p => .next (if p < 512 then u.focus p else u)
      | .event e => if s.dev.tripped = true ∧ clocked e = true then .next u else exec e u
      | .hostStore a bs => .next { u with dev := { u.dev with hostMem := u.dev.hostMem.write a bs } }
      | .remoteStore d a bs => .next { u with dev := { u.dev with remote := u.dev.remote.write (remoteAddr d a) bs } }
      | .remotePost tree dev tile seg bs => .next (u.remotePost tree dev tile seg bs)
      | .image i => .next (u.bringImage i)
      | .temperature t => .next (if 1680 ≤ t ∧ (s.dev.tripped = false ∨ s.dev.cool = true) then u
          else { u with dev := { u.dev with host := { u.dev.host with temp := BitVec.ofNat 16 t } } })
      | .upset e => .next (u.upset e)

/-! ### Reset and the memories -/

/-- What reset leaves (R430): stage 0 of bring-up, no tile bound, all memory reading zero, no context, queue, tree, layer
object or launch, the budgets of Shale and Lelum and HLINK at their reset values, every memory in canonical form. The zero of
every other register is the model's choice (log entry 2), and so is that of memory before stage 6 zeroes it (log entry 4). -/
def Obligations.ResetState : Prop :=
  State.reset.dev.host.stage = 0 ∧ State.reset.tile.stat = .unbound ∧ State.reset.others = [] ∧
  (∀ n, (State.reset.getTile n).stat = .unbound) ∧
  (∀ n a, (State.reset.getTile n).winByte a = 0) ∧
  (∀ a, State.reset.dev.near.readByte a = 0 ∧ State.reset.dev.lpddr.readByte a = 0) ∧
  State.reset.dev.ctxs = [] ∧ State.reset.dev.queues = [] ∧ State.reset.dev.trees = [] ∧ State.reset.dev.objs = [] ∧
  State.reset.dev.launches = [] ∧ State.reset.dev.evRing = none ∧ State.reset.dev.host.hlink = 0xF ∧
  State.reset.dev.host.go = false ∧ State.reset.dev.tripped = false ∧ State.reset.dev.xrun = 0x40 ∧
  State.reset.dev.xcont = 0x10 ∧ State.reset.dev.xacc = 0x1000 ∧ State.reset.dev.lbud = 0x4000 ∧ State.reset.memWf = true

/-- Every step keeps every memory in canonical form, from every state that has it. -/
def Obligations.StepKeepsMemWf : Prop := ∀ s t : State, s.memWf = true → step s = .next t → t.memWf = true

/-! ### Scalar results -/

namespace Sys2Proof.Claims

/-- The two-source integer instructions (R99): operands, and sD from sA and Bval. -/
def twoSource (i : Instr) (a b : Word) : Option (FS × Word) :=
  match i with
  | .add o => some (o, BitVec.ofNat 32 (a.toNat + b.toNat))
  | .sub o => some (o, BitVec.ofInt 32 ((a.toNat : Int) - b.toNat))
  | .and o => some (o, a &&& b)
  | .or o => some (o, a ||| b)
  | .xor o => some (o, a ^^^ b)
  | .min o => some (o, if a.toInt < b.toInt then a else b)
  | .max o => some (o, if a.toInt < b.toInt then b else a)
  | _ => none

/-- The shifts (R100): n := Bval[5:0]. -/
def shift (i : Instr) (a b : Word) : Option (FS × Word) :=
  let n := b.toNat % 64
  match i with
  | .shl o => some (o, if n < 32 then BitVec.ofNat 32 (a.toNat * 2 ^ n) else 0)
  | .shr o => some (o, if n < 32 then BitVec.ofNat 32 (a.toNat / 2 ^ n) else 0)
  | .sra o => some (o, if n < 32 then BitVec.ofInt 32 (a.toInt / 2 ^ n) else if a.getLsbD 31 then 0xFFFFFFFF else 0)
  | _ => none

/-- The first bit above the field that Bval gives (R103). -/
def fieldTop (b : Word) : Nat := min (b.toNat % 32 + b.toNat / 32 % 64) 32

/-- `bext` and `lea` (R103, R104). -/
def fieldAddr (i : Instr) (a b : Word) : Option (FS × Word) :=
  match i with
  | .bext o =>
    let k := fieldTop b - b.toNat % 32
    let f := a.toNat / 2 ^ (b.toNat % 32) % 2 ^ k
    some (o, if b.toNat / 32 % 64 = 0 then 0
      else if b.getLsbD 11 ∧ 2 ^ (k - 1) ≤ f then BitVec.ofInt 32 ((f : Int) - 2 ^ k) else BitVec.ofNat 32 f)
  | .lea o => some (o, BitVec.ofNat 32 (0x40000000 + a.toNat % 512 * 2 ^ 21 + b.toNat % 2 ^ 21))
  | _ => none

/-- `clz` and `popc` (R102). -/
def oneSource (i : Instr) (a : Word) : Option (FDA × Word) :=
  match i with
  | .clz o => some (o, BitVec.ofNat 32 (if a.toNat = 0 then 32 else 31 - Nat.log2 a.toNat))
  | .popc o => some (o, BitVec.ofNat 32 ((List.range 32).map fun k => a.toNat / 2 ^ k % 2).sum)
  | _ => none

/-- A register pair as one number (R94). -/
def pairNat (s : State) (r : Reg) : Nat := (s.rd r).toNat + 2 ^ 32 * (s.rd (r ||| 1)).toNat

/-- The 64-bit B operand of `add64`, modulo 2^64 (R105). -/
def pairB (s : State) (b : BOp) : Nat :=
  match b with
  | .reg r => pairNat s r
  | b => ((s.bval b).toInt % 2 ^ 64).toNat

/-- The instructions with a later bound (R101, R106, R107, R85): operands, the scalar registers read, the bound, the value and
the flags, from sD, sA and Bval. -/
def lateResult (i : Instr) (rm : RMode) (d a b : Word) : Option (FS × List Reg × Nat × Word × Word) :=
  let row (o : FS) (r : FRes) := some (o, o.a :: o.b.regs, 4, nat32 r.bits, r.fl)
  match i with
  | .mul o => some (o, o.a :: o.b.regs, 3, BitVec.ofInt 32 (a.toInt * b.toInt), 0)
  | .mulh o => some (o, o.a :: o.b.regs, 3, BitVec.ofInt 32 (a.toInt * b.toInt / 2 ^ 32), 0)
  | .fadd o => row o (FFmt.f32.add rm a.toNat b.toNat)
  | .fmul o => row o (FFmt.f32.mul rm a.toNat b.toNat)
  | .fmac o =>
    let r := FFmt.f32.fma rm d.toNat a.toNat b.toNat
    some (o, o.d :: o.a :: o.b.regs, 4, nat32 r.bits, r.fl)
  | .fmin o => row o (FFmt.f32.minmax false a.toNat b.toNat)
  | .fmax o => row o (FFmt.f32.minmax true a.toNat b.toNat)
  | .cvtF2i o => row o (FFmt.f32.toInt (if b.getLsbD 2 then RMode.ofBits b.toNat else rm) ⟨32, !b.getLsbD 3⟩ a.toNat)
  | .cvtI2f o =>
    row o (FFmt.f32.ofInt (if b.getLsbD 2 then RMode.ofBits b.toNat else rm) false
      (if b.getLsbD 3 then (a.toNat : Int) else a.toInt))
  | .cvtF2b o => row o (FFmt.f32.convert .bf16 (if b.getLsbD 2 then RMode.ofBits b.toNat else rm) false a.toNat)
  | _ => none

end Sys2Proof.Claims

/-- R99, R100: each two-source integer instruction and each shift computes sD from sA and Bval as its row says, at the end of
its cycle, and changes nothing else. A write to s0 is discarded. -/
def Obligations.IntegerResult : Prop :=
  ∀ (i : Instr) (s : State) (o : FS) (v : Word),
    twoSource i (s.rd o.a) (s.bval o.b) = some (o, v) ∨ shift i (s.rd o.a) (s.bval o.b) = some (o, v) → FsReady s o →
    ∃ t, exec i s = .next t ∧ t.tile.core.reg o.d = valueOf o.d v ∧ Frame s t [o.d] [] [] [] 0

/-- `bext`, `lea`, `clz`, `popc` and `mov` (R102 to R104); and `bins` (R103) bit by bit: the field takes the low bits of sA,
the other bits of sD stay; an empty field writes nothing. `add64` (R105): the pairs' sum modulo 2^64, its low half in sD and
its high half in sD+1; an odd pair raises illegal-operand.
The model's choices in it: log entry 22. -/
def Obligations.FieldAndMoveResult : Prop :=
  (∀ (i : Instr) (s : State) (o : FS) (v : Word),
    fieldAddr i (s.rd o.a) (s.bval o.b) = some (o, v) → FsReady s o →
    ∃ t, exec i s = .next t ∧ t.tile.core.reg o.d = valueOf o.d v ∧ Frame s t [o.d] [] [] [] 0) ∧
  (∀ (i : Instr) (s : State) (o : FDA) (v : Word),
    oneSource i (s.rd o.a) = some (o, v) → Ready s o.g (s.src.regOk o.d && s.src.regOk o.a) (usesRegs [o.a] [o.d]) →
    ∃ t, exec i s = .next t ∧ t.tile.core.reg o.d = valueOf o.d v ∧ Frame s t [o.d] [] [] [] 0) ∧
  (∀ (s : State) (o : FDB),
    Ready s o.g (s.src.regOk o.d && s.src.bOk o.b) (usesRegs o.b.regs [o.d]) →
    ∃ t, exec (.mov o) s = .next t ∧ t.tile.core.reg o.d = valueOf o.d (s.bval o.b) ∧ Frame s t [o.d] [] [] [] 0) ∧
  (∀ (s : State) (o : FS), Ready s o.g (fsOk s o) (usesRegs (o.d :: o.a :: o.b.regs) [o.d]) →
    let b := s.bval o.b
    let p := b.toNat % 32
    ∃ t, exec (.bins o) s = .next t ∧
      (b.toNat / 32 % 64 = 0 → t.tile.core.reg o.d = s.tile.core.reg o.d ∧ Frame s t [] [] [] [] 0) ∧
      (b.toNat / 32 % 64 ≠ 0 → o.d ≠ 0 → ∀ k, k < 32 → (t.tile.core.reg o.d).getLsbD k =
        if p ≤ k ∧ k < fieldTop b then (s.rd o.a).getLsbD (k - p) else (s.rd o.d).getLsbD k) ∧
      (b.toNat / 32 % 64 ≠ 0 → Frame s t [o.d] [] [] [] 0)) ∧
  (∀ (s : State) (o : FS),
    Ready s o.g (s.src.pairOk o.d && s.src.pairOk o.a && s.src.b64Ok o.b)
      (usesRegs (o.a :: (o.a ||| 1) :: o.b.regs64) [o.d, o.d ||| 1]) →
    let v := (pairNat s o.a + pairB s o.b) % 2 ^ 64
    ∃ t, exec (.add64 o) s = .next t ∧ t.tile.core.reg o.d = valueOf o.d (BitVec.ofNat 32 v) ∧
      t.tile.core.reg (o.d ||| 1) = BitVec.ofNat 32 (v / 2 ^ 32) ∧ Frame s t [o.d, o.d ||| 1] [] [] [] 0) ∧
  ∀ (s : State) (o : FS), (isEven o.d && isEven o.a && o.b.regs.all isEven) = false →
    exec (.add64 o) s = .next (s.trapAt .illegalOperand s.iss.raw 0 0 .trapDecode)

/-- `mul` and `mulh` (R101), the scalar floating-point instructions (R106, R107) and the conversions (R85): the result and its
flags are on their way, to land within the bound; until then sD is undefined and nothing else has changed.
The model's choices in it: log entry 8. -/
def Obligations.LateResult : Prop :=
  ∀ (i : Instr) (s : State) (o : FS) (rs : List Reg) (n : Nat) (v fl : Word),
    lateResult i s.rm (s.rd o.d) (s.rd o.a) (s.bval o.b) = some (o, rs, n, v, fl) →
    Ready s o.g (fsOk s o) (usesRegs rs [o.d]) →
    ∃ t, exec i s = .next t ∧ OnItsWay s t [(.sreg o.d, v)] fl n ∧ Frame s t [o.d] [] [] [] 0

/-- R51, R82: a result lands: its elements take their values, its flags are merged, and it is no longer on its way. -/
def Obligations.ResultLands : Prop :=
  ∀ (s : State) (i : Nat) (p : Pending), s.tile.pend[i]? = some p →
    ∃ t, exec (.resultLand i) s = .next t ∧ t.tile.pend = s.tile.pend.eraseIdx i ∧
      t.tile.core.flags = s.tile.core.flags ||| p.flags ∧
      (∀ r v, p.dsts = [(.sreg r, v)] → t.tile.core.reg r = valueOf r v) ∧
      (∀ r, (∀ d ∈ p.dsts, d.1 ≠ .sreg r) → t.tile.core.reg r = s.tile.core.reg r) ∧
      (∀ k, k < 256 → (p.dsts.map Prod.fst).Nodup → ∀ v, (.lat k, v) ∈ p.dsts → t.tile.core.latEl k = v) ∧
      (∀ k, (∀ d ∈ p.dsts, d.1 ≠ .lat k) → t.tile.core.latEl k = s.tile.core.latEl k) ∧
      t.tile.core.special = s.tile.core.special ∧ t.tile.core.p = s.tile.core.p ∧
      t.tile.core.tokPend = s.tile.core.tokPend ∧ t.tile.core.ports = s.tile.core.ports ∧ t.tile.rest = s.tile.rest ∧ t.tile.loads = s.tile.loads ∧
      t.tile.mq = s.tile.mq ∧ (∀ a, t.tile.win.readByte a = s.tile.win.readByte a) ∧ t.dev = s.dev ∧ t.others = s.others

/-! ### Control registers -/

namespace Sys2Proof.Claims

/-- The bits of a writable control register (R114, R379, R5). -/
def crMask (n : Nat) : Word :=
  match n with
  | 0x001 => 0x7F
  | 0x002 => 0xF
  | 0x003 => 0xFE
  | 0x100 => 0xFFFFF
  | 0x113 => 3
  | 0x140 => 0xFFFF
  | 0x141 => 0xFFFF
  | 0x148 => 0xFFFF
  | _ => 0xFFFFFFFF

/-- The numbers that the tables of R114 list, and those of R379, R349 and R366. -/
def taskNumbers : List Nat := [0, 1, 2, 3, 4, 5, 6] ++ (List.range 12).map (8 + ·)
def supervisorNumbers : List Nat :=
  [0x100, 0x101, 0x102, 0x104, 0x105, 0x106, 0x107, 0x110, 0x111, 0x112, 0x113, 0x114, 0x140, 0x141, 0x142, 0x148, 0x150,
    0x151, 0x152, 0x153, 0x158, 0x159, 0x15A]

/-- Those among them that are read-only. -/
def readOnlyNumbers : List Nat :=
  [0, 4, 5] ++ (List.range 12).map (8 + ·) ++
    [0x110, 0x111, 0x112, 0x114, 0x150, 0x151, 0x152, 0x153, 0x158, 0x159, 0x15A]

/-- The number's checks (R113, R115): a supervisor number in a task, a number no table lists, a write to a read-only one. -/
def crAllowed (s : State) (write : Bool) (b : BOp) : Bool := (crCause s.src.core.sup write (s.bval b)).isNone

/-- The registers of the tables of R114, R349, R366, R379 and R380 on tile t of device d, whose bundle has first packet pc: the pc,
the flags, the cycle count, the identity of the task (R124), the saved registers of a trap, and those of the device. -/
def crValue (d : Device) (t : Tile) (pc : BitVec 20) (n : Nat) : Word :=
  if 8 ≤ n ∧ n < 20 then
    ([t.task.wid.extractLsb' 0 32, t.task.wid.extractLsb' 32 32] ++ t.task.wf.toList ++
      [t.ltile, t.ntile, t.task.rank, t.task.rlen].map (BitVec.ofNat 32 ·)).getD (n - 8) 0
  else if 0x104 ≤ n ∧ n < 0x108 then t.core.ss.toList.getD (n - 0x104) 0
  else match n with
    | 0x000 => pc.setWidth 32
    | 0x001 => t.core.flags
    | 0x002 => t.core.fpctl
    | 0x003 => (t.core.p ||| 1).setWidth 32
    | 0x004 => BitVec.ofNat 32 t.cyc
    | 0x005 => t.cych
    | 0x006 => t.core.lwlim
    | 0x100 => t.core.epc.setWidth 32
    | 0x101 => t.core.ecause
    | 0x102 => t.core.einfo
    | 0x110 => t.tvec.setWidth 32
    | 0x111 => t.ctxn.setWidth 32
    | 0x112 => t.pasid.setWidth 32
    | 0x113 => t.core.ntmask
    | 0x114 => if t.core.sup = true then 1 else 0
    | 0x140 => d.xrun
    | 0x141 => d.xcont
    | 0x142 => d.xacc
    | 0x148 => d.lbud
    | 0x150 => d.votes
    | 0x151 => d.vdis
    | 0x152 => d.vres
    | 0x153 => d.vstop
    | 0x158 => d.devid.setWidth 32
    | 0x159 => 0x7F
    | _ => 0

end Sys2Proof.Claims

/-- `rdcr` (R113): the register's value, as its bundle found it (R48, R116), is on its way to sD; a read of cr.cyc latches the
high half of the same count (R117). The values are those of the table `crValue`.
The model's choices in it: log entry 8. -/
def Obligations.ReadControlRegister : Prop :=
  ∀ (s : State) (o : FDB),
    Ready s o.g (s.src.regOk o.d && s.src.bOk o.b && crAllowed s false o.b) (usesRegs o.b.regs [o.d]) →
    ((s.bval o.b).toNat = 1 → s.src.flagsBusy = false) →
    let n := (s.bval o.b).toNat
    let high := BitVec.ofNat 32 (s.src.cyc / 2 ^ 32)
    ∃ t, exec (.rdcr o) s = .next t ∧
      OnItsWay s t [(.sreg o.d, if n = 5 ∧ s.readsCyc = true then high else crValue s.atIssue.dev s.src s.iss.pc n)] 0 2 ∧
      (n ≠ 4 → Frame s t [o.d] [] [] [] 0) ∧
      (n = 4 → t.tile.cych = high ∧ Frame { s with tile := { s.tile with cych := high } } t [o.d] [] [] [] 0)

/-- `wrcr` (R113, R116): the register reads back what was written, but for reserved bits and for p0, which reads true; a write
of cr.flags comes before the flags of its own bundle (R82). No other control register, no general register, no lattice element,
no stream port and no byte of memory changes. -/
def Obligations.WriteControlRegister : Prop :=
  ∀ (s : State) (o : FAB),
    Ready s o.g (s.src.regOk o.a && s.src.bOk o.b && crAllowed s true o.b) (usesRegs (o.a :: o.b.regs) []) →
    ((s.bval o.b).toNat = 1 → s.src.flagsBusy = false) →
    let n := (s.bval o.b).toNat
    let v := s.rd o.a &&& crMask n
    ∃ t, exec (.wrcr o) s = .next t ∧
      (∀ pc, t.readCr t.tile pc n = if n = 1 then v ||| s.iss.fl else if n = 3 then v ||| 1 else v) ∧
      (∀ pc m, m ≠ n → t.readCr t.tile pc m = s.readCr s.tile pc m) ∧
      (∀ r, t.tile.core.reg r = s.tile.core.reg r) ∧ (∀ i, t.tile.core.latEl i = s.tile.core.latEl i) ∧
      (∀ q, t.tile.core.port q = s.tile.core.port q) ∧
      (∀ a, t.tile.win.readByte a = s.tile.win.readByte a ∧ t.dev.near.readByte a = s.dev.near.readByte a) ∧
      t.tile.rest = s.tile.rest ∧ t.tile.pend = s.tile.pend ∧ t.tile.loads = s.tile.loads ∧ t.others = s.others

/-- R115: the number is checked whatever the guard: a supervisor number in a task raises privilege; any other number that the
tables of R114, R349, R366 and R379 do not list, or a write to a read-only register, raises illegal-operand; a listed one raises
nothing else. -/
def Obligations.ControlRegisterTraps : Prop :=
  (∀ (s : State) (o : FDB) (c : Cause),
    crCause s.src.core.sup false (s.bval o.b) = some c → s.waits (usesRegs o.b.regs [o.d]) = false →
    (s.src.regOk o.d && s.src.bOk o.b) = true →
    exec (.rdcr o) s = .next (s.trapAt c s.iss.raw 0 0 .trapDecode)) ∧
  (∀ (s : State) (o : FAB) (c : Cause),
    crCause s.src.core.sup true (s.bval o.b) = some c → s.waits (usesRegs (o.a :: o.b.regs) []) = false →
    (s.src.regOk o.a && s.src.bOk o.b) = true →
    exec (.wrcr o) s = .next (s.trapAt c s.iss.raw 0 0 .trapDecode)) ∧
  (∀ (write : Bool) (num : Word), 0x100 ≤ num.toNat → num.toNat < 0x400 → crCause false write num = some .privilege) ∧
  (∀ (sup write : Bool) (num : Word), num.toNat < 0x100 ∨ 0x400 ≤ num.toNat ∨ sup = true →
    num.toNat ∉ taskNumbers ++ supervisorNumbers → crCause sup write num = some .illegalOperand) ∧
  (∀ (sup : Bool) (num : Word), num.toNat < 0x100 ∨ sup = true → num.toNat ∈ taskNumbers ++ supervisorNumbers →
    crCause sup false num = none ∧
    crCause sup true num = if num.toNat ∈ readOnlyNumbers then some .illegalOperand else none)

/-! ### Compares and predicates -/

namespace Sys2Proof.Claims

/-- The six conditions eq, ne, lt, le, gt, ge on integers (R39). -/
def holdsInt (cc : Nat) (a b : Int) : Bool :=
  match cc with
  | 0 => decide (a = b)
  | 1 => decide (a ≠ b)
  | 2 => decide (a < b)
  | 3 => decide (a ≤ b)
  | 4 => decide (a > b)
  | _ => decide (a ≥ b)

/-- An f32 pattern is a NaN, a signalling one, an infinity or a NaN (R70). -/
def nan32 (x : Word) : Bool := decide (0x7F800000 < x.toNat % 2 ^ 31)
def snan32 (x : Word) : Bool := nan32 x && !x.getLsbD 22
def special32 (x : Word) : Bool := decide (0x7F800000 ≤ x.toNat % 2 ^ 31)

/-- The order of f32 numbers, −0 equal to +0. -/
def order32 (x : Word) : Int := if x.getLsbD 31 then -(x.toNat % 2 ^ 31 : Nat) else (x.toNat % 2 ^ 31 : Nat)

/-- The table of `cmp.f32` (R110): the predicate, and the flags NV (16) and NF (32). -/
def floatCompare (cc : Nat) (a b : Word) : Bool × Word :=
  let nan := nan32 a || nan32 b
  let p := match cc with
    | 6 => nan
    | 7 => !nan
    | 1 => nan || holdsInt 1 (order32 a) (order32 b)
    | k => !nan && holdsInt k (order32 a) (order32 b)
  let nv := if 2 ≤ cc ∧ cc ≤ 5 then nan else snan32 a || snan32 b
  (p, (if nv then 16 else 0) ||| (if special32 a || special32 b then 32 else 0))

/-- The compare-class instructions: PD and flags from sA and Bval. -/
def compareRow (i : Instr) (a b : Word) : Option (FC × Bool × Word) :=
  match i with
  | .cmpI32 o => some (o, holdsInt o.cc.toNat a.toInt b.toInt, 0)
  | .cmpN32 o => some (o, holdsInt o.cc.toNat a.toNat b.toNat, 0)
  | .cmpF32 o => some (o, floatCompare o.cc.toNat a b)
  | .btst o => some (o, a.getLsbD (b.toNat % 32) == decide (o.cc = 1), 0)
  | _ => none

/-- r of R111 from x and y. -/
def predicateRow (i : Instr) (x y : Bool) : Option (FP × Bool) :=
  match i with
  | .pand o => some (o, x && y)
  | .por o => some (o, x || y)
  | .pxor o => some (o, x ^^ y)
  | _ => none

end Sys2Proof.Claims

/-- `cmp.i32`, `cmp.n32`, `cmp.f32` and `btst` (R108 to R112): PD and the flags, p0 reading true whatever is written. `btst`
accepts CC 000 and 001 alone: a word with another CC is no instruction. -/
def Obligations.CompareResult : Prop :=
  (∀ (i : Instr) (s : State) (o : FC) (r : Bool) (fl : Word),
    compareRow i (s.rd o.a) (s.bval o.b) = some (o, r, fl) →
    Ready s o.g (s.src.regOk o.a && s.src.bOk o.b) (usesRegs (o.a :: o.b.regs) []) →
    ∃ t, exec i s = .next t ∧ t.tile.core.pred o.pd = (decide (o.pd = 0) || r) ∧ Frame s t [] [] [o.pd] [] fl) ∧
  ∀ w : Word, w.extractLsb' 23 8 = 0x37 → 2 ≤ (w.extractLsb' 17 3).toNat → (decodeWord w).toOption = none

/-- R111: `pand`, `por`, `pxor` and `pnot`, with their negation bits; A[5:3], B[5:3] and M must be zero. -/
def Obligations.PredicateResult : Prop :=
  (∀ (i : Instr) (s : State) (o : FP) (r : Bool),
    predicateRow i (s.src.core.pred o.a ^^ o.k.getLsbD 0) (s.src.core.pred o.b ^^ o.k.getLsbD 1) = some (o, r) →
    s.on o.g = true →
    ∃ t, exec i s = .next t ∧ t.tile.core.pred o.pd = (decide (o.pd = 0) || (r ^^ o.k.getLsbD 2)) ∧
      Frame s t [] [] [o.pd] [] 0) ∧
  (∀ (s : State) (o : FN), s.on o.g = true →
    ∃ t, exec (.pnot o) s = .next t ∧ t.tile.core.pred o.pd = (decide (o.pd = 0) || !s.src.core.pred o.a) ∧
      Frame s t [] [] [o.pd] [] 0) ∧
  ∀ w : Word, w.extractLsb' 23 8 ∈ [0x33#8, 0x34#8, 0x35#8, 0x36#8] →
    (w.extractLsb' 11 3 ≠ 0 ∨ w.extractLsb' 5 3 ≠ 0 ∨ w.extractLsb' 0 2 ≠ 0) → (decodeWord w).toOption = none

/-! ### Guards and control -/

/-- R46: an operation whose guard is false has no effect. Whatever its word, what it answers is the state as it was (or with
the mark of the checkpoint that ends its bundle), a checkpoint or a wait that its bundle needs, or a trap of its decode check.
-/
def Obligations.FalseGuardDoesNothing : Prop :=
  ∀ (s : State) (k : Nat) (w : Word) (i : Instr), decodeWord w = .ok i →
    s.src.core.pred (w.extractLsb' 20 3) = false → s.decision = none → i ≠ .nop → (∀ n, i ≠ .lpx n) →
    ∃ t, s.execWord k w = .next t ∧
      (t.iss.status = .trapDecode ∨ t = (s.atWord k w).setStatus .ckpt ∨ t = (s.atWord k w).setStatus .stall ∨
        ∃ due, t = (s.atWord k w).markDue due)

/-- R131: `br` and `brl`: the next bundle is the one at pc + sext(disp, 20) modulo 2^20, and `brl` leaves pc + len in s63;
either costs a cycle with no issue (R130). With a false guard they do nothing. -/
def Obligations.BranchTarget : Prop :=
  (∀ (s : State) (o : FJ), s.ctlGuard o.g = true →
    ∃ t, exec (.br o) s = .next t ∧ t.tile.core.pc = s.iss.pc + o.j ∧ t.tile.cyc = s.tile.cyc + 1 ∧
      Frame s t [] [] [] [] 0) ∧
  (∀ (s : State) (o : FJ), s.ctlGuard o.g = false → exec (.br o) s = .next s ∧
    (s.free? (usesRegs [] [63]) = true → exec (.brl o) s = .next (s.markDue (s.readsToken (usesRegs [] [63]))))) ∧
  ∀ (s : State) (o : FJ), ReadyCtl s o.g true (usesRegs [] [63]) →
    ∃ t, exec (.brl o) s = .next t ∧ t.tile.core.pc = s.iss.pc + o.j ∧ t.tile.cyc = s.tile.cyc + 1 ∧
      t.tile.core.reg 63 = BitVec.ofNat 32 ((s.iss.pc.toNat + s.iss.len) % 2 ^ 20) ∧ Frame s t [63] [] [] [] 0

/-- R132: `jr` goes to Bval[19:0]; `loop` counts sA down and goes on only from 2 or more. In a ribbon each must agree with rank
0 (R127). -/
def Obligations.JumpAndLoop : Prop :=
  (∀ (s : State) (o : FB), ReadyCtl s o.g (s.src.bOk o.b) (usesRegs o.b.regs []) →
    (∀ w, s.decision.bind (·.jr) = some w → w.toNat % 2 ^ 20 = (s.bval o.b).toNat % 2 ^ 20) →
    ∃ t, exec (.jr o) s = .next t ∧ t.tile.core.pc = BitVec.ofNat 20 (s.bval o.b).toNat ∧
      t.tile.cyc = s.tile.cyc + 1 ∧ Frame s t [] [] [] [] 0) ∧
  (∀ (s : State) (o : FL), ReadyCtl s o.g (s.src.regOk o.a) (usesRegs [o.a] [o.a]) →
    (∀ d, s.decision.bind (·.loop) = some d → d = decide (1 < (s.rd o.a).toNat)) →
    ∃ t, exec (.loop o) s = .next t ∧
      t.tile.core.pc = (if 1 < (s.rd o.a).toNat then s.iss.pc + o.j.signExtend 20 else s.tile.core.pc) ∧
      t.tile.core.reg o.a = BitVec.ofNat 32 ((s.rd o.a).toNat - 1) ∧ t.tile.cyc = s.tile.cyc ∧
      Frame s t [o.a] [] [] [] 0) ∧
  ∀ (s : State) (o : FB) (w : Word), ReadyCtl s o.g (s.src.bOk o.b) (usesRegs o.b.regs []) →
    s.decision.bind (·.jr) = some w → w.toNat % 2 ^ 20 ≠ (s.bval o.b).toNat % 2 ^ 20 →
    exec (.jr o) s = .next (s.trapAt .ribbonUniformity (BitVec.ofNat 32 s.src.task.rank) 0 0 .trapExec)

/-- `nop` and `lpx` do nothing (R32, R33). `ckpt` does nothing once the checkpoint before its bundle is taken, and asks for it
before (R141). `chk` of equal words does nothing; a difference is a data error (R141, R142). `halt` makes the implicit
checkpoint due, at which the task ends (R133). `trig` puts one trigger in the commit queue (R136). -/
def Obligations.FramingAndMarks : Prop :=
  (∀ s : State, exec .nop s = .next s) ∧ (∀ (s : State) (n : BitVec 2), exec (.lpx n) s = .next s) ∧
  (∀ (s : State) (o : FG), s.on o.g = true →
    exec (.ckpt o) s = .next (if s.src.ckFresh then s else s.setStatus .ckpt)) ∧
  (∀ (s : State) (o : FAB), Ready s o.g (s.src.regOk o.a && s.src.bOk o.b) (usesRegs (o.a :: o.b.regs) []) →
    ∃ t, exec (.chk o) s = .next t ∧ (s.rd o.a = s.bval o.b → Frame s t [] [] [] [] 0) ∧
      (s.rd o.a ≠ s.bval o.b → s.tile.recov.phase = .run → t.tile.recov.phase = .stop) ∧
      t.tile.core = s.tile.core ∧ t.tile.win = s.tile.win ∧ t.dev = s.dev ∧ t.others = s.others) ∧
  (∀ (s : State) (o : FG), s.ctlGuard o.g = true → s.src.mq = [] → s.src.poison = [] →
    exec (.halt o) s = .next { s with tile := { s.tile with haltDue := true, ckDue := true } }) ∧
  ∀ (s : State) (o : FG), s.on o.g = true →
    exec (.trig o) s = .next (
      if s.tile.task.trigDone || s.tile.cq.any Held.isTrig || s.tile.released.any Held.isTrig then s
      else { s with tile := { s.tile with cq := s.tile.cq ++ [.trig s.tile.jobSq] } })

/-- R135: `spawn` onto an idle sibling of its cluster reserves it and holds its start in the commit queue, with the entry point
and s48 to s55; onto itself, a tile of another cluster or no tile of the context it raises access-fault; onto one that is not
idle, spawn-busy.
The model's choices in it: log entry 50. -/
def Obligations.SpawnReserves : Prop :=
  (∀ (s : State) (o : FAB) (u : Tile),
    Ready s o.g (s.spawnCheck o).isNone (usesRegs (o.a :: o.b.regs ++ spawnRegs) []) →
    s.logical s.src.ctx ((s.rd o.a).toNat % 512) = some u → (s.rd o.a).toNat % 512 < s.src.ntile →
    (s.rd o.a).toNat % 512 ≠ s.src.ltile → u.phys / 16 = s.src.phys / 16 → u.stat = .idle → s.draining = false →
    s.tile.phys ≠ u.phys →
    ∃ t, exec (.spawn o) s = .next t ∧ (t.getTile u.phys).stat = .reserved ∧
      t.tile.cq = s.tile.cq ++
        [.spawn ((s.rd o.a).toNat % 512) ((s.bval o.b).toNat % 2 ^ 20) (spawnRegs.map s.rd)] ∧
      t.tile.core = s.tile.core ∧ t.tile.win = s.tile.win ∧ t.dev = s.dev) ∧
  (∀ (s : State) (o : FAB) (u : Tile),
    Ready s o.g (s.spawnCheck o).isNone (usesRegs (o.a :: o.b.regs ++ spawnRegs) []) →
    s.logical s.src.ctx ((s.rd o.a).toNat % 512) = some u → (s.rd o.a).toNat % 512 < s.src.ntile →
    (s.rd o.a).toNat % 512 ≠ s.src.ltile → u.phys / 16 = s.src.phys / 16 → u.stat ≠ .idle →
    exec (.spawn o) s = .next (s.trapAt .spawnBusy (BitVec.ofNat 32 ((s.rd o.a).toNat % 512)) 0 0 .trapExec)) ∧
  ∀ (s : State) (o : FAB),
    Ready s o.g (s.spawnCheck o).isNone (usesRegs (o.a :: o.b.regs ++ spawnRegs) []) →
    (∀ u, s.logical s.src.ctx ((s.rd o.a).toNat % 512) = some u → s.src.ntile ≤ (s.rd o.a).toNat % 512 ∨
      (s.rd o.a).toNat % 512 = s.src.ltile ∨ u.phys / 16 ≠ s.src.phys / 16) →
    exec (.spawn o) s =
      .next (s.faultNoAddress.markDue (s.readsToken (usesRegs (o.a :: o.b.regs ++ spawnRegs) [])))

/-! ### Traps (R382 to R388) -/

namespace Sys2Proof.Claims

/-- The word of R383 for a cause, flag bits, place, length and code. -/
def causeWord (c : Cause) (bits word len code : Nat) : Word :=
  BitVec.ofNat 32 (c.code + bits + 2 ^ 10 * ((len - 1) % 4) + 2 ^ 12 * (word % 16) + 2 ^ 16 * (code % 2 ^ 16))

/-- A tile that runs alone, in no rerun, its operations landed without an error, and with no start of a spawned task held. -/
structure EntersAlone (s : State) : Prop where
  solo : s.ribbonOf s.tile.phys = none
  noError : s.drain.errorPending = false
  noRerun : s.drain.tile.inRerun = false
  sameTile : s.drain.tile.phys = s.tile.phys
  sameRibbons : s.drain.ribbonOf s.tile.phys = none
  noSpawn : ∀ h ∈ s.drain.tile.cq, ∀ tgt entry regs, h ≠ .spawn tgt entry regs
  noHalt : s.drain.tile.haltDue = false

/-- No register is poisoned, or the trap is the one of a poisoned register: bit 7 of the cause (R280, R383). -/
def PoisonKnown (s : State) (bits : Nat) : Prop := s.drain.tile.poison = [] ∨ bits / 2 ^ 7 % 2 = 1

end Sys2Proof.Claims

/-- R134: `trap` raises the software trap, with Bval in cr.einfo and Bval[15:0] as the code. The supervisor instructions raise
privilege in a task, whatever their guard (R57, R387), those of Hydin where the task has the Hydin feature; without it they are
illegal (R317).
The model's choices in it: log entry 92. -/
def Obligations.TrapInstructions : Prop :=
  (∀ (s : State) (o : FB), Ready s o.g (s.src.bOk o.b) (usesRegs o.b.regs []) →
    exec (.trap o) s =
      .next ((s.enterTrap .softwareTrap s.iss.pc (s.bval o.b) 0 s.iss.word s.iss.len ((s.bval o.b).toNat % 2 ^ 16)).setStatus
        .trapExec)) ∧
  (∀ (s : State) (i : Instr), s.src.core.sup = false →
    (∃ o, i = .eret o) ∨ (∃ o, i = .save o) ∨ (∃ o, i = .rest o) ∨ (∃ o, i = .sev o) ∨ (∃ o, i = .domw o) →
    exec i s = .next (s.trapAt .privilege s.iss.raw 0 0 .trapDecode)) ∧
  ∀ (s : State) (i : Instr), s.src.core.sup = false →
    (∃ o, i = .hmk o) ∨ (∃ o, i = .hedit o) ∨ (∃ o, i = .hfrz o) ∨ (∃ o, i = .hthaw o) ∨ (∃ o, i = .hfree o) →
    exec i s = .next (s.trapAt (if s.src.task.feat.getLsbD 2 then .privilege else .illegalInstruction) s.iss.raw 0 0
      .trapDecode)

/-- Taking a trap (R382, R383): once issued operations have landed, cr.epc, cr.ecause and cr.einfo hold the bundle, the cause
word and the detail, the tile is in supervisor mode, and the next bundle is at cr.tvec. With nothing held for the checkpoint
the entry changes no other register and no memory. A trap taken in supervisor mode, or an entry with no handler, is fatal: the
tile stops (R386).
The model's choices in it: log entry 18. -/
def Obligations.TrapEntry : Prop :=
  (∀ (s : State) (c : Cause) (epc : BitVec 20) (info : Word) (bits word len code : Nat),
    EntersAlone s → PoisonKnown s bits → s.drain.tile.core.sup = false ∨ c = .tileRetired ∨ c = .preempt →
    s.drain.tile.tvec ≠ 0xFFFFF →
    let d := s.drain.tile
    let t := s.enterTrap c epc info bits word len code
    t.tile.core.epc = epc ∧ t.tile.core.ecause = causeWord c bits word len code ∧ t.tile.core.einfo = info ∧
    t.tile.core.sup = true ∧ t.tile.core.inHandler = true ∧ t.tile.core.pc = d.tvec ∧
    (d.cq = [] → d.unpins = [] →
      t.tile.core = { d.core with
        epc := epc
        ecause := causeWord c bits word len code
        einfo := info
        sup := true
        inHandler := true
        noteDue := 0
        pc := d.tvec } ∧
      t.tile.win = d.win ∧ t.dev = s.drain.dev ∧ t.others = s.drain.others ∧ t.tile.ckFresh = true)) ∧
  ∀ (s : State) (c : Cause) (epc : BitVec 20) (info : Word) (bits word len code : Nat),
    EntersAlone s → PoisonKnown s bits →
    (s.drain.tile.core.sup = true ∧ c ≠ .tileRetired ∧ c ≠ .preempt) ∨ s.drain.tile.tvec = 0xFFFFF →
    (s.enterTrap c epc info bits word len code).tile.stat = .stopped

/-- R388: `eret` resumes at cr.epc, or after the bundle there; in a launch without SUP the mode becomes the task's. -/
def Obligations.ReturnFromTrap : Prop :=
  ∀ (s : State) (o : FB), s.src.core.sup = true → ReadyCtl s o.g (s.src.bOk o.b) (usesRegs o.b.regs []) →
    s.src.ckFresh = true →
    let len := s.src.core.ecause.toNat / 2 ^ 10 % 4 + 1
    ∃ t, exec (.eret o) s = .next t ∧
      t.tile.core.pc =
        (if (s.bval o.b).getLsbD 0 then BitVec.ofNat 20 (s.src.core.epc.toNat + len) else s.src.core.epc) ∧
      t.tile.core.sup = (s.tile.task.supLaunch && s.tile.core.sup) ∧ t.tile.core.inHandler = false ∧
      t.tile.core.epc = s.tile.core.epc ∧ t.tile.core.ecause = s.tile.core.ecause ∧
      t.tile.core.einfo = s.tile.core.einfo ∧ (∀ r, t.tile.core.reg r = s.tile.core.reg r) ∧
      t.tile.core.lat = s.tile.core.lat ∧ t.tile.core.p = s.tile.core.p ∧ t.tile.core.flags = s.tile.core.flags ∧
      (∀ a, t.tile.win.readByte a = s.tile.win.readByte a) ∧ t.tile.rest = s.tile.rest ∧
      { t.dev with ribbons := s.dev.ribbons } = s.dev ∧ (s.ribbonOf s.src.phys = none → t.dev = s.dev) ∧ t.others = s.others

/-! ### Vectors -/

namespace Sys2Proof.Claims

/-- A vector operation in one row: its guard, its destination, its scalar and vector sources, whether it reads its destination,
its bound, how the elements of its result lie, each element, and the flags. -/
structure VRow where
  g : Guard
  d : VOp
  regs : List Reg
  vs : List VOp
  rw : Bool
  bound : Nat
  lay : Layout
  el : Nat → Nat
  fl : Word

/-- The vectors that a row reads. -/
def VRow.reads (r : VRow) : List VOp := if r.rw then r.d :: r.vs else r.vs

/-- What a row names. -/
def VRow.uses (r : VRow) : Uses := ⟨r.regs, r.reads, [], [r.d]⟩

/-- Its decode check (R123, R151). -/
def VRow.ok (s : State) (r : VRow) : Bool :=
  (if r.rw then s.src.vrwOk r.d else s.src.vdOk r.d) && r.vs.all s.src.vOk && r.regs.all s.src.regOk

/-- Flags of the first n elements together (R81). -/
def allFlags (n : Nat) (f : Nat → Word) : Word := (List.range n).foldl (fun a j => a ||| f j) 0

/-- A row whose elements have each a value and flags of its own. -/
def each (g : Guard) (d : VOp) (vs : List VOp) (rw : Bool) (bound : Nat) (lay : Layout) (f : Nat → FRes) : Option VRow :=
  some ⟨g, d, [], vs, rw, bound, lay, fun j => (f j).bits, allFlags lay.n fun j => (f j).fl⟩

/-- The width that T selects: 32, 16 or 8 bits (R150). -/
def width (t : BitVec 2) : Nat := if t = 0 then 32 else if t = 1 then 16 else 8

/-- A packed element, as the bits it has in the vector and as a signed number (R150). -/
def bitsAt (w : Nat) (v : Vec) (j : Nat) : Nat := (lane v (w * j / 32)).toNat / 2 ^ (w * j % 32) % 2 ^ w
def numAt (w : Nat) (v : Vec) (j : Nat) : Int :=
  if 2 ^ (w - 1) ≤ bitsAt w v j then (bitsAt w v j : Int) - 2 ^ w else bitsAt w v j

/-- A number as w bits. -/
def asBits (w : Nat) (n : Int) : Nat := (n % 2 ^ w).toNat

/-- sat(n, w) of R7, with SAT (R81). -/
def saturated (w : Nat) (n : Int) : FRes :=
  if n < -2 ^ (w - 1) then ⟨asBits w (-2 ^ (w - 1)), 64⟩
  else if 2 ^ (w - 1) ≤ n then ⟨asBits w (2 ^ (w - 1) - 1), 64⟩
  else ⟨asBits w n, 0⟩

/-- All ones where the condition holds. -/
def ones (w : Nat) (b : Bool) : FRes := ⟨if b then 2 ^ w - 1 else 0, 0⟩

/-- The sum of 2^n neighbours from x_k on, halves first (R163). -/
def pairwise (rm : RMode) (x : Nat → Nat) : Nat → Nat → FRes
  | 0, k => ⟨x k, 0⟩
  | n + 1, k =>
    let a := pairwise rm x n k
    let b := pairwise rm x n (k + 2 ^ n)
    let r := FFmt.f32.add rm a.bits b.bits
    ⟨r.bits, a.fl ||| b.fl ||| r.fl⟩

/-- The maximum of x_0 to x_n, in lane order (R164). -/
def running (x : Nat → Nat) : Nat → FRes
  | 0 => ⟨x 0, 0⟩
  | n + 1 =>
    let m := running x n
    let r := FFmt.f32.minmax true m.bits (x (n + 1))
    ⟨r.bits, m.fl ||| r.fl⟩

/-- The inclusive prefix sums (R165): f32, or saturating i32; the first f32 value as on its own. -/
def prefixSum (rm : RMode) (fp : Bool) (x : Nat → Nat) : Nat → FRes
  | 0 => if fp then f32Own (x 0) else ⟨x 0, 0⟩
  | n + 1 =>
    let p := prefixSum rm fp x n
    let r := if fp then FFmt.f32.add rm p.bits (x (n + 1))
      else saturated 32 ((BitVec.ofNat 32 p.bits).toInt + (BitVec.ofNat 32 (x (n + 1))).toInt)
    ⟨r.bits, p.fl ||| r.fl⟩

/-- The lanes of a vector as bits. -/
def lanesOf (v : Vec) (j : Nat) : Nat := (lane v j).toNat

/-- The float elements of an operand, and the operation on each. -/
def floats2 (s : State) (o : FV) (bound : Nat) (f : FFmt → Nat → Nat → FRes) : Option VRow :=
  let l := floatLayout o.t
  each o.g o.d [o.a, o.b] false bound l fun j => f (floatOf o.t) (l.get (s.rdV o.a) j) (l.get (s.rdV o.b) j)
def floats1 (s : State) (o : FVT) (f : FFmt → Nat → FRes) : Option VRow :=
  let l := floatLayout o.t
  each o.g o.d [o.a] false 4 l fun j => f (floatOf o.t) (l.get (s.rdV o.a) j)
def lanes1 (s : State) (o : FVA) (bound : Nat) (f : Nat → FRes) : Option VRow :=
  each o.g o.d [o.a] false bound (packed 32) fun j => f (lanesOf (s.rdV o.a) j)

/-- Signed elements of two operands with the index of each, and bit patterns. -/
def ints2 (s : State) (o : FV) (f : Nat → Int → Int → FRes) : Option VRow :=
  let w := width o.t
  each o.g o.d [o.a, o.b] false 2 (packed w) fun j => f w (numAt w (s.rdV o.a) j) (numAt w (s.rdV o.b) j)
def shifts (s : State) (o : FV) (f : Nat → Nat → Nat → Nat) : Option VRow :=
  let w := width o.t
  each o.g o.d [o.a, o.b] false 2 (packed w) fun j => ⟨f w (bitsAt w (s.rdV o.a) j) (bitsAt w (s.rdV o.b) j), 0⟩
def bitwise (s : State) (o : FV0) (f : Word → Word → Word) : Option VRow :=
  each o.g o.d [o.a, o.b] false 2 (packed 32) fun j => ⟨(f (lane (s.rdV o.a) j) (lane (s.rdV o.b) j)).toNat, 0⟩

/-- The vector arithmetic with two or three sources (R155, R158 to R162). -/
def arithmeticRow (s : State) (i : Instr) : Option VRow :=
  match i with
  | .vadd o => floats2 s o 4 fun f => f.add s.rm
  | .vsub o => floats2 s o 4 fun f => f.sub s.rm
  | .vmul o => floats2 s o 4 fun f => f.mul s.rm
  | .vmin o => floats2 s o 4 fun f => f.minmax false
  | .vmax o => floats2 s o 4 fun f => f.minmax true
  | .vclt o => floats2 s o 4 fclt
  | .vceq o => floats2 s o 4 fceq
  | .vmac o =>
    let l := floatLayout o.t
    each o.g o.d [o.a, o.b] true 4 l fun j =>
      (floatOf o.t).fma s.rm (l.get (s.rdV o.d) j) (l.get (s.rdV o.a) j) (l.get (s.rdV o.b) j)
  | .viadd o => ints2 s o fun w a b => saturated w (a + b)
  | .visub o => ints2 s o fun w a b => saturated w (a - b)
  | .vimul o => ints2 s o fun w a b => saturated w (a * b)
  | .vimin o => ints2 s o fun w a b => ⟨asBits w (if a < b then a else b), 0⟩
  | .vimax o => ints2 s o fun w a b => ⟨asBits w (if a < b then b else a), 0⟩
  | .vilt o => ints2 s o fun w a b => ones w (decide (a < b))
  | .vieq o => ints2 s o fun w a b => ones w (decide (a = b))
  | .vimac o =>
    let w := width o.t
    each o.g o.d [o.a, o.b] true 2 (packed w) fun j =>
      saturated w (numAt w (s.rdV o.d) j + numAt w (s.rdV o.a) j * numAt w (s.rdV o.b) j)
  | .vshl o => shifts s o fun w a n => if n < w then a * 2 ^ n % 2 ^ w else 0
  | .vshr o => shifts s o fun w a n => if n < w then a / 2 ^ n else 0
  | .vsra o => shifts s o fun w a n =>
    if n < w then asBits w ((if 2 ^ (w - 1) ≤ a then (a : Int) - 2 ^ w else a) / 2 ^ n)
    else if 2 ^ (w - 1) ≤ a then 2 ^ w - 1 else 0
  | .vand o => bitwise s o (· &&& ·)
  | .vor o => bitwise s o (· ||| ·)
  | .vxor o => bitwise s o (· ^^^ ·)
  | .vsel o =>
    each o.g o.d [o.a, o.b] true 2 (packed 32) fun j =>
      let m := lane (s.rdV o.d) j
      ⟨((m &&& lane (s.rdV o.a) j) ||| (~~~m &&& lane (s.rdV o.b) j)).toNat, 0⟩
  | _ => none

/-- Functions of one vector, reductions, scans, permutes and top-k (R155 to R157, R163 to R172). -/
def gatherRow (s : State) (i : Instr) : Option VRow :=
  match i with
  | .vabs o => floats1 s o fun f => f.abs
  | .vround o => floats1 s o fun f => f.roundIntegral s.rm
  | .vcls o => floats1 s o fclass
  | .vsclf o => floats1 s o fexpo
  | .vexp2 o => lanes1 s o 10 (fexp2 s.rm)
  | .vrcp o => lanes1 s o 10 (frcp s.rm)
  | .vrsqrt o => lanes1 s o 10 (frsqrt s.rm)
  | .vmov o => lanes1 s o 2 fun x => ⟨x, 0⟩
  | .vredsum o => each o.g o.d [o.a] false 8 (packed 32) fun _ => pairwise s.rm (lanesOf (s.rdV o.a)) 4 0
  | .vredmax o => each o.g o.d [o.a] false 8 (packed 32) fun _ => running (lanesOf (s.rdV o.a)) 15
  | .vscan o =>
    let incl := prefixSum s.rm (o.k.getLsbD 1) (lanesOf (s.rdV o.a))
    some ⟨o.g, o.d, [], [o.a], false, 6, packed 32,
      fun j => if o.k.getLsbD 0 then (if j = 0 then 0 else (incl (j - 1)).bits) else (incl j).bits,
      allFlags 16 fun j => (incl j).fl⟩
  | .vperm o =>
    let w := width o.t
    some ⟨o.g, o.d, [], [o.a, o.b], false, 3, packed w,
      fun j => bitsAt w (s.rdV o.a) (bitsAt w (s.rdV o.b) j % (512 / w)), 0⟩
  | .vbcst o => some ⟨o.g, o.d, [o.a], [], false, 2, packed (width o.t), fun _ => (s.rd o.a).toNat, 0⟩
  | .vtopk o =>
    some ⟨o.g, o.d, [], [o.a], false, 6, packed 32,
      fun j =>
        let x := lanesOf (s.rdV o.a) (laneOfRank (s.rdV o.a) j)
        if j < o.k.toNat then (if nan32 (BitVec.ofNat 32 x) then 0x7FC00000 else x) else 0xFF800000,
      topFlags (s.rdV o.a)⟩
  | .vtopkI o =>
    some ⟨o.g, o.d, [], [o.a], false, 6, packed 32,
      fun j => if j < o.k.toNat then laneOfRank (s.rdV o.a) j else 0xFFFFFFFF, topFlags (s.rdV o.a)⟩
  | _ => none

/-- The conversions of vectors (R86 to R93). -/
def convertRow (s : State) (i : Instr) : Option VRow :=
  match i with
  | .vcvt o => (vcvtCode o.k.toNat).bind fun (src, dst, sat) =>
    each o.g o.d [o.a] false 4 (packed 32) fun j => convertElem src dst s.rm sat (lanesOf (s.rdV o.a) j % 2 ^ src.width)
  | .vpack o =>
    let w := if o.t = 1 then 16 else 8
    some ⟨o.g, o.d, [], [o.a, o.b], false, 2, packed w,
      fun j => bitsAt (2 * w) (s.rdV (if j < 256 / w then o.a else o.b)) (j % (256 / w)), 0⟩
  | .vunpk o =>
    let w := if o.t = 1 then 16 else 8
    some ⟨o.g, o.d, [], [o.a], false, 2, packed (2 * w),
      fun j => bitsAt w (s.rdV o.a) (256 / w * o.i.toNat + j), 0⟩
  | .vqnt o =>
    if s.src.feat 6 = false then none else
    let r := vqntVec ((s.src.core.fpctl.toNat / 4) % 4) (s.rdV o.a) (s.rdV o.b)
    some ⟨o.g, o.d, [], [o.a, o.b], false, 6, packed 32, lanesOf r.1, r.2⟩
  | .vdqnt o =>
    if s.src.feat 6 = false then none else
    some (if o.t = 0 then
      ⟨o.g, o.d, [], [o.a], false, 6, packed 32, fun j => vdqntElem .f32 (s.rdV o.a) (16 * o.i.toNat + j), 0⟩
    else ⟨o.g, o.d, [], [o.a], false, 6, packed 16, vdqntElem .bf16 (s.rdV o.a), 0⟩)
  | .vscl o =>
    let l := floatLayout o.t
    each o.g o.d [o.a, o.b] false 4 l fun j =>
      let n : Int := if o.t = 0 then (lane (s.rdV o.b) j).toInt
        else if o.t = 1 then numAt 16 (s.rdV o.b) j else numAt 16 (s.rdV o.b) (2 * j)
      (floatOf o.t).scaleBy s.rm (l.get (s.rdV o.a) j) n
  | _ => none

/-- The row of a vector operation. -/
def vectorRow (s : State) (i : Instr) : Option VRow :=
  (arithmeticRow s i).orElse fun _ => (gatherRow s i).orElse fun _ => convertRow s i

/-- A vector holds these elements, each as its low bits (R150). -/
def holdsElements (v : Vec) (lay : Layout) (el : Nat → Nat) : Prop :=
  ∀ j, j < lay.n → (if lay.packed then bitsAt lay.w v j else (lane v j).toNat) = el j % 2 ^ lay.w

/-- The elements of a vector operand with their values (R37, R147). -/
def lanesTo (d : VOp) (v : Vec) : List (Dst × Word) := (List.range 16).map fun k => (.lat (d.index k), lane v k)
def elements (d : VOp) : List Nat := (List.range 16).map d.index

/-- Each input port that the sources name has advanced by one vector, once in the bundle (R48): where an earlier word of the
bundle has advanced it, it stays as that left it; where one has unbound or drained it, too (the model's choice: log entry
107). -/
def Advanced (s t : State) (vs : List VOp) : Prop :=
  ∀ q ∈ vs.filterMap VOp.stream?,
    let p := s.tile.core.port q
    let first := p.bound = true ∧ p.pos = (s.src.core.port q).pos
    (first → t.tile.core.port q = { p with fifo := p.fifo.drop 1, pos := p.pos + 1 }) ∧ (¬ first → t.tile.core.port q = p)

/-- No lattice element that the operands name holds a parity error (R148). -/
def clean (s : State) (vs : List VOp) : Bool :=
  vs.all fun v => (List.range 16).all fun k => !s.src.latBad.contains (v.index k)

end Sys2Proof.Claims

/-- Every vector operation with a lattice destination (R147 to R172, R86 to R93): its elements and flags are on their way, to
land within the bound of its class; the input ports that it names advance; nothing else changes. `vqnt` and `vdqnt` without bit
6 of the features raise illegal-instruction (R124).
The model's choices in it: log entries 8, 27 and 107. -/
def Obligations.VectorResult : Prop :=
  (∀ (i : Instr) (s : State) (r : VRow), vectorRow s i = some r → r.d.stream? = none →
    Ready s r.g (r.ok s) r.uses → clean s r.reads = true →
    ∃ t v, exec i s = .next t ∧ holdsElements v r.lay r.el ∧ OnItsWay s t (lanesTo r.d v) r.fl r.bound ∧
      Advanced s t r.reads ∧ Frame s t [] (elements r.d) [] (r.reads.filterMap VOp.stream?) 0) ∧
  ∀ (i : Instr) (s : State), (∃ o, i = .vqnt o) ∨ (∃ o, i = .vdqnt o) → s.src.feat 6 = false →
    exec i s = .next (s.trapAt .illegalInstruction s.iss.raw 0 0 .trapDecode)

/-- Every vector operation with a stream port as its destination (R151, R205): the vector joins those written to the port, and
the last one of the stream puts the completion arrival in the commit queue. Where a later word of the bundle writes the port, its
vector is the one that the port receives, and this one is not (R49). A port that an earlier word has unbound stays unbound. No memory
changes where no vector of another port waits to land before it.
The model's choices in it: log entries 8 and 107 (the unbound port). -/
def Obligations.VectorToStream : Prop :=
  ∀ (i : Instr) (s : State) (r : VRow) (q : Nat), vectorRow s i = some r → r.d.stream? = some q →
    Ready s r.g (r.ok s) r.uses → clean s r.reads = true → (s.tile.core.port q).fifo ≠ [] ∨ s.tile.quiet = true →
    let p := s.tile.core.port q
    ∃ t v, exec i s = .next t ∧ holdsElements v r.lay r.el ∧ OnItsWay s t [] r.fl r.bound ∧ Advanced s t r.reads ∧
      (s.laterPort q = true → Frame s t [] [] [] (r.reads.filterMap VOp.stream?) 0) ∧
      (s.laterPort q = false → p.bound = false → t.tile.core.port q = Port.unbound) ∧
      (s.laterPort q = false → p.bound = true →
        t.tile.core.port q = { p with fifo := p.fifo ++ [v], pos := p.pos + 1 } ∧
        Frame { s with tile := { s.tile with
            cq := s.tile.cq ++ (if p.pos + 1 = p.total ∧ p.bar ≠ 0 then [.streamDone p.bar p.num] else []) } }
          t [] [] [] (q :: r.reads.filterMap VOp.stream?) 0)

/-- `vext`, `vins` and `vchk` (R167, R173): one element to a scalar register, zero-extended; one element of a row, column or
diagonal from a scalar register, its lane alone written; two vectors compared, a difference being a data error.
The model's choices in it: log entries 8 and 107. -/
def Obligations.ElementMoves : Prop :=
  (∀ (s : State) (o : FVE), Ready s o.g (s.src.regOk o.d && s.src.vOk o.a) ⟨[], [o.a], [o.d], []⟩ → clean s [o.a] = true →
    ∃ t, exec (.vext o) s = .next t ∧
      OnItsWay s t [(.sreg o.d, BitVec.ofNat 32 (bitsAt (width o.t) (s.rdV o.a) o.i.toNat))] 0 2 ∧
      Advanced s t [o.a] ∧ Frame s t [o.d] [] [] ([o.a].filterMap VOp.stream?) 0) ∧
  (∀ (s : State) (o : FVN), Ready s o.g (s.src.vrwOk o.d && s.src.regOk o.a) ⟨[o.a], [o.d], [], [o.d]⟩ →
    clean s [o.d] = true →
    let w := width o.t
    let k := o.i.toNat * w / 32
    ∃ t x, exec (.vins o) s = .next t ∧ OnItsWay s t [(.lat (o.d.index k), x)] 0 2 ∧
      (∀ b, b < 32 → x.getLsbD b = if o.i.toNat * w % 32 ≤ b ∧ b < o.i.toNat * w % 32 + w then
        (s.rd o.a).getLsbD (b - o.i.toNat * w % 32) else (lane (s.rdV o.d) k).getLsbD b) ∧
      Frame s t [] [o.d.index k] [] [] 0) ∧
  ∀ (s : State) (o : FVC), Ready s o.g (s.src.vOk o.a && s.src.vOk o.b) ⟨[], [o.a, o.b], [], []⟩ →
    clean s [o.a, o.b] = true →
    ∃ t, exec (.vchk o) s = .next t ∧ Advanced s t [o.a, o.b] ∧
      (s.rdV o.a = s.rdV o.b → Frame s t [] [] [] ([o.a, o.b].filterMap VOp.stream?) 0) ∧
      (s.rdV o.a ≠ s.rdV o.b → s.tile.recov.phase = .run → t.tile.recov.phase = .stop)

/-! ### The memory slot -/

namespace Sys2Proof.Claims

/-- A memory-slot operation in one row: guard, decode check, operands, its bytes, whether each address is aligned, whether it
stores, whether the bank rule binds it, the vectors it reads, where a load delivers, and the bytes a store writes. -/
structure SlotRow where
  g : Guard
  ok : Bool
  uses : Uses
  acc : Acc
  aligned : Bool
  write : Bool
  vector : Bool
  vs : List VOp
  dst : LoadDst
  data : List Byte

/-- sA + sext(OFF) × scale, modulo 2^32 (R40, R184). -/
def address (s : State) (a : Reg) (off : BitVec 8) (scale : Nat) : Nat :=
  ((((s.rd a).toNat : Int) + off.toInt * scale) % 2 ^ 32).toNat

/-- The addresses of a strided access (R187): base + k × sA+1. -/
def stridedAddress (s : State) (o : FMV) (k : Nat) : Nat := (address s o.a o.off 64 + k * (s.rd (o.a ||| 1)).toNat) % 2 ^ 32

def scalarRow (s : State) (o : FM) (n : Nat) (write : Bool) : Option SlotRow :=
  let a := address s o.a o.off n
  some ⟨o.g, s.src.regOk o.d && s.src.regOk o.a, if write then usesRegs [o.d, o.a] [] else usesRegs [o.a] [o.d], ⟨a, [(a, n)]⟩,
    decide (a % n = 0), write, false, [], if o.d = 0 then .none else .sreg o.d, bytesOfNat n (s.rd o.d).toNat⟩

/-- Where a vector load delivers. -/
def vectorTo (d : VOp) : LoadDst :=
  match d.stream? with
  | some q => .port q
  | none => .lat (elements d)

/-- The row of a load or store (R183 to R187). -/
def slotRow (s : State) (i : Instr) : Option SlotRow :=
  match i with
  | .ldw o => scalarRow s o 4 false
  | .ldh o => scalarRow s o 2 false
  | .ldb o => scalarRow s o 1 false
  | .stw o => scalarRow s o 4 true
  | .sth o => scalarRow s o 2 true
  | .stb o => scalarRow s o 1 true
  | .vld o =>
    let a := address s o.a o.off 64
    some ⟨o.g, s.src.vdOk o.d && s.src.regOk o.a, ⟨[o.a], [], [], [o.d]⟩, ⟨a, [(a, 64)]⟩, decide (a % 64 = 0), false, true, [],
      vectorTo o.d, []⟩
  | .vst o =>
    let a := address s o.a o.off 64
    some ⟨o.g, s.src.vOk o.d && s.src.regOk o.a, ⟨[o.a], [o.d], [], []⟩, ⟨a, [(a, 64)]⟩, decide (a % 64 = 0), true, true, [o.d],
      .none, vecBytes (s.rdV o.d)⟩
  | .vlds o =>
    let a := address s o.a o.off 64
    some ⟨o.g, s.src.vdOk o.d && s.src.pairOk o.a, ⟨[o.a, o.a ||| 1], [], [], [o.d]⟩,
      ⟨a, (List.range 16).map fun k => (stridedAddress s o k, 4)⟩,
      decide (a % 4 = 0) && decide ((s.rd (o.a ||| 1)).toNat % 4 = 0), false, true, [], vectorTo o.d, []⟩
  | .vsts o =>
    let a := address s o.a o.off 64
    some ⟨o.g, s.src.vOk o.d && s.src.pairOk o.a, ⟨[o.a, o.a ||| 1], [o.d], [], []⟩,
      ⟨a, (List.range 16).map fun k => (stridedAddress s o k, 4)⟩,
      decide (a % 4 = 0) && decide ((s.rd (o.a ||| 1)).toNat % 4 = 0), true, true, [o.d], .none, vecBytes (s.rdV o.d)⟩
  | _ => none

/-- The words of an access, for the bank rule (R181). -/
def wordsOf (x : Acc) : List Nat := x.parts.flatMap fun p => (List.range (p.2 / 4)).map fun i => p.1 + 4 * i

/-- Step 2 of R178: every byte in one region, in the domain. -/
def inDomain (s : State) (r : SlotRow) : Bool :=
  s.oneZone r.acc.parts && r.acc.parts.all fun p => s.slotOk s.src p.1 p.2 r.write

/-- Step 3 of R178: the bank rule of R181. -/
def inBanks (s : State) (r : SlotRow) : Bool := !r.vector || s.banksOk (wordsOf r.acc)

/-- The operation passes the checks of R178, waits for nothing, meets no poisoned register and no uncorrectable word. -/
structure Passes (s : State) (r : SlotRow) : Prop where
  ready : Ready s r.g r.ok r.uses
  aligned : r.aligned = true
  domain : inDomain s r = true
  banks : inBanks s r = true
  waits : (if r.write then s.storeWaits r.acc else s.loadWaits r.acc) = false
  tokens : s.accTokens r.acc = true → if r.write then s.src.cq.isEmpty = true else s.src.ckFresh = true
  poison : r.write = false → s.accPoison r.acc = none
  clean : clean s r.vs = true
  ecc : r.write = false → s.eccOf r.acc.bytes = .none
  merge : r.write = true → (r.acc.parts.any fun p => decide (p.2 % 4 ≠ 0)) = true → inMemory s.src.ltile r.acc.ea = true →
    s.mergeHit s.src r.acc.bytes = .none

/-- A result has gone out of the tile, to come back to the elements `ds`: nothing but the older results for them, and the
listed loads, is touched. -/
structure Sent (s t : State) (ds : List Dst) (new : List PLoad) : Prop where
  core : t.tile.core = { s.tile.core with
    tokPend := s.tile.core.tokPend.filter fun k => !ds.contains (.sreg k.reg)
    tokDone := s.tile.core.tokDone.filter fun r => !ds.contains (.sreg r) }
  pend : t.tile.pend = s.tile.pend.map (Pending.kill ds)
  loads : t.tile.loads = (s.tile.loads.map fun l => { l with dst := l.dst.kill ds }) ++ new
  queue : t.tile.mq = s.tile.mq.map (XOp.kill ds)
  win : t.tile.win = s.tile.win
  parity : t.tile.latBad = s.tile.latBad
  dev : t.dev = s.dev
  others : t.others = s.others

/-- cr.cych after a load: a load of a byte of cr.cyc through the window latches the high half of the same count (R117; that a
load does so is the model's choice, log entry 23). -/
def cycHigh (s : State) (x : Acc) : Word :=
  if x.bytes.any (fun a => ((s.src.ownOff a).map fun o => decide (0x1F0010 ≤ o) && decide (o < 0x1F0014)).getD false) then
    BitVec.ofNat 32 (s.src.cyc / 2 ^ 32)
  else s.tile.cych

/-- Where a load delivers: no vector reaches an output port that a later word of the bundle writes (R49), or that an earlier word has
unbound (the model's choice: log entry 107). -/
def loadTo (s : State) (r : SlotRow) : LoadDst :=
  match r.dst with
  | .port q => if (s.tile.core.port q).bound && !s.laterPort q then .port q else .none
  | d => d

/-- The byte at a as a load that goes out now and returns at once has it: known at issue, else in the load buffer, else in
memory (R188, R189). -/
def byteNow (s : State) (a : Nat) : Byte :=
  ((s.loadByte a).orElse fun _ => s.tile.buffered a).getD (s.mapByte s.tile.ctx s.tile.ltile a)

/-- Word k of those bytes, a shorter one zero-extended (R185). -/
def wordNow (s : State) (r : SlotRow) (k : Nat) : Word :=
  BitVec.ofNat 32 (natOfBytes (((r.acc.bytes.map (byteNow s)).drop (4 * k)).take 4))

/-- A flagged store. -/
def isStf : Held → Bool
  | .stf _ _ _ => true
  | _ => false

/-- The cells that a store writes, by address (R186, R187). -/
def storedCells (r : SlotRow) : List Host.Cell :=
  r.acc.parts.zipIdx.flatMap fun p => cellsOf p.1.1 ((r.data.drop (p.1.2 * p.2)).take p.1.2)

/-- The same by the offset in the own window. -/
def ownCells (t : Tile) (r : SlotRow) : List Host.Cell := (storedCells r).map fun c => ((t.ownOff c.1).getD 0, c.2)

end Sys2Proof.Claims

/-- `ldw`, `ldh`, `ldb`, `vld` and `vlds` (R184 to R188) complete for every state and operands that pass the checks of R178:
the load goes out with the bytes it takes at issue; no register, no element, no port and no byte of memory changes until it
returns. Of the load buffer the entries it hits are the newest (R189); a load of cr.cyc latches the high half. With nothing on
its way before it, it can return at once, and the register, the elements or the vector of the port then hold its bytes.
The model's choices in it: log entries 23, 36, 37 and 107. -/
def Obligations.LoadGoesOut : Prop :=
  (∀ (s : State) (i : Instr) (o : FM) (r : SlotRow), i = .ldw o ∨ i = .ldh o ∨ i = .ldb o → slotRow s i = some r → Passes s r →
    ∃ t, exec i s = .next t ∧
      Sent s t r.dst.dsts [⟨r.dst, .bytes (r.acc.bytes.map fun a => (a, s.loadByte a)), s.iss.word⟩] ∧
      t.tile.rest = { s.tile with loadBuf := touchBuf r.acc.bytes s.tile.loadBuf, cych := cycHigh s r.acc }.rest ∧
      (s.tile.loads = [] → ∃ u, exec (.loadReturn 0) t = .next u ∧ u.tile.loads = [] ∧
        (∀ q, u.tile.core.reg q = if q = o.d ∧ o.d ≠ 0 then wordNow s r 0 else s.tile.core.reg q))) ∧
  ∀ (s : State) (i : Instr) (o : FMV) (r : SlotRow), i = .vld o ∨ i = .vlds o → slotRow s i = some r → Passes s r →
    ∃ t, exec i s = .next t ∧
      Sent s t r.dst.dsts [⟨loadTo s r, .bytes (r.acc.bytes.map fun a => (a, s.loadByte a)), s.iss.word⟩] ∧
      t.tile.rest = { s.tile with loadBuf := touchBuf r.acc.bytes s.tile.loadBuf, cych := cycHigh s r.acc }.rest ∧
      (s.tile.loads = [] → ∃ u, exec (.loadReturn 0) t = .next u ∧ u.tile.loads = [] ∧
        (o.d.stream? = none → ∀ k, k < 16 → u.tile.core.latEl (o.d.index k) = wordNow s r k) ∧
        (∀ q, loadTo s r = .port q → (s.tile.core.port q).fifo ≠ [] ∨ s.tile.quiet = true →
          (u.tile.core.port q).fifo = (s.tile.core.port q).fifo ++ [Vector.ofFn fun k => wordNow s r k.val] ∧
          (u.tile.core.port q).pos = (s.tile.core.port q).pos + 1))

/-- A load returns (R185, R186, R188), reads of one word in program order (R266): the bytes known at issue, else those of the
load buffer, else those in memory as they stand, make the register, the elements or the vector of the port; nothing else
changes. `pref` (R189) completes for every address whose unit meets no uncorrectable word: it has no effect outside the near store and
other windows of the domain; there the unit joins the load buffer of 16 as its newest entry, to be filled. A fill that returns puts the
unit's 64 bytes there: each is that of the on-chip map as it stands, or the one that an older filled entry of the unit holds; a byte
that was undefined when the `pref` issued is the one captured then. No other entry changes.
The model's choices in it: log entries 36, 37 and 140 (`pref` meets uncorrectable words as a load does). -/
def Obligations.LoadReturns : Prop :=
  (∀ (s : State) (i : Nat) (l : PLoad) (bs : List (Nat × Option Byte)),
    s.tile.loads[i]? = some l → l.src = .bytes bs → s.tile.loadReady i = true →
    let byte (e : Nat × Option Byte) : Byte :=
      match e.2, s.tile.buffered e.1 with
      | some b, _ => b
      | none, some b => b
      | none, none => s.mapByte s.tile.ctx s.tile.ltile e.1
    let word (k : Nat) : Word := BitVec.ofNat 32 (natOfBytes (((bs.map byte).drop (4 * k)).take 4))
    ∃ t, exec (.loadReturn i) s = .next t ∧
      (∀ r, l.dst = .sreg r → t.tile = { s.tile with
        loads := s.tile.loads.eraseIdx i
        core := s.tile.core.setReg r (word 0) }) ∧
      (∀ els, l.dst = .lat els → els.length ≤ 16 → bs.length = 4 * els.length → (els.filter fun e => decide (e < 256)).Nodup →
        t.tile.loads = s.tile.loads.eraseIdx i ∧
        (∀ k e, els[k]? = some e → e < 256 → t.tile.core.latEl e = word k) ∧
        (∀ e, e ∉ els → t.tile.core.latEl e = s.tile.core.latEl e) ∧
        (∀ r, t.tile.core.reg r = s.tile.core.reg r) ∧ t.tile.core.p = s.tile.core.p ∧
        t.tile.core.flags = s.tile.core.flags ∧ t.tile.core.special = s.tile.core.special ∧ t.tile.rest = s.tile.rest ∧
        t.tile.win = s.tile.win) ∧
      (∀ q, l.dst = .port q → q < 12 → (s.tile.core.port q).bound = true → (s.tile.core.port q).fifo ≠ [] ∨ s.tile.quiet = true →
        let p := s.tile.core.port q
        t.tile.core.port q = { p with fifo := p.fifo ++ [Vector.ofFn fun k => word k.val], pos := p.pos + 1 } ∧
        (∀ q', q' ≠ q → t.tile.core.port q' = s.tile.core.port q') ∧ t.tile.core.s = s.tile.core.s ∧
        t.tile.core.lat = s.tile.core.lat ∧ t.tile.win = s.tile.win) ∧
      (l.dst = .none ∨ (∃ q, l.dst = .port q ∧ (s.tile.core.port q).bound = false) →
        t.tile = { s.tile with loads := s.tile.loads.eraseIdx i }) ∧
      t.dev = s.dev ∧ t.others = s.others) ∧
  (∀ (s : State) (o : FMP), Ready s o.g (s.src.regOk o.a) (usesRegs [o.a] []) →
    let u := address s o.a o.off 64 / 64 * 64
    (s.src.owns u = true ∨ s.slotOk s.src u 64 false = false →
      exec (.pref o) s = .next (s.markDue (s.readsToken (usesRegs [o.a] [])))) ∧
    (s.src.owns u = false → s.slotOk s.src u 64 false = true → (∀ k, k < 64 → s.byteHit s.src (u + k) = .none) →
      ∃ t, exec (.pref o) s = .next t ∧
        t.tile.loadBuf.getLast? = some (u, none) ∧ t.tile.loadBuf.length ≤ 16 ∧
        (∀ e ∈ t.tile.loadBuf, e = (u, none) ∨ e ∈ s.tile.loadBuf) ∧
        t.tile.loads = s.tile.loads ++
          [⟨.buffer u, .bytes ((List.range 64).map fun k => (u + k, none)), s.iss.word⟩] ∧
        t.tile.core = s.tile.core ∧ t.tile.win = s.tile.win ∧ t.tile.pend = s.tile.pend ∧ t.tile.mq = s.tile.mq ∧
        t.tile.rest = { s.tile with loadBuf := t.tile.loadBuf }.rest ∧ t.dev = s.dev ∧ t.others = s.others)) ∧
  ∀ (s : State) (i u : Nat) (l : PLoad) (known : Nat → Option Byte), s.tile.loads[i]? = some l → l.dst = .buffer u →
    s.tile.loadReady i = true → l.src = .bytes ((List.range 64).map fun k => (u + k, known k)) →
    let byte (k : Nat) : Byte :=
      match known k, s.tile.buffered (u + k) with
      | some b, _ => b
      | none, some b => b
      | none, none => s.mapByte s.tile.ctx s.tile.ltile (u + k)
    exec (.loadReturn i) s = .next { s with tile := { s.tile with
      loads := s.tile.loads.eraseIdx i
      loadBuf := s.tile.loadBuf.map fun e => if e.1 = u then (u, some ((List.range 64).map byte)) else e } }

/-- `stw`, `sth`, `stb`, `vst` and `vsts` into the own window (R175, R188): each byte stored reads back there, each other byte
of the window is as it was once the vectors written to streams before it had landed; s0 stays zero. No other register, no
memory of another tile and no near store changes; no entry leaves or joins the commit queue.
The model's choices in it: log entries 38 and 47 (waiting stream vectors land first). -/
def Obligations.StoreInOwnWindow : Prop :=
  ∀ (i : Instr) (s : State) (r : SlotRow), slotRow s i = some r → r.write = true → Passes s r →
    s.memWf = true → s.src.ltile = s.tile.ltile → s.src.owns r.acc.ea = true → s.src.ctlOff r.acc.ea = none →
    r.acc.parts.length = 1 ∨ s.tile.quiet = true →
    let base := ((s.popPorts r.uses.vecs).settle r.acc).tile.landOutputs
    ∃ t, exec i s = .next t ∧
      (∀ a, t.tile.winByte a = if 0x1E0400 ≤ a ∧ a < 0x1E0404 then 0
        else (lastCell (ownCells s.src r) a none).getD (base.winByte a)) ∧
      t.tile.core.p = base.core.p ∧ t.tile.core.flags = base.core.flags ∧ t.tile.core.special = base.core.special ∧
      t.tile.pend = base.pend ∧ t.tile.loads = base.loads ∧ t.tile.mq = base.mq ∧
      { t.tile.rest with cq := [], released := [], rb := [] } = { base.rest with cq := [], released := [], rb := [] } ∧
      t.tile.cq.filter (fun h => !isStf h) = base.cq.filter (fun h => !isStf h) ∧ t.tile.cq.length = base.cq.length ∧
      t.dev = s.dev ∧ t.others = s.others

namespace Sys2Proof.Claims

/-- The bits of the writable word at offset o of the region of R381 that are not reserved. -/
def regionMask (o : Nat) : Word :=
  if o < 0x1000 then crMask (o / 4)
  else if o = 0x2000 then 0xFFFFFDFF
  else if 0x2A00 ≤ o ∧ o < 0x2C00 then 0x01FF01FF
  else if 0x3000 ≤ o ∧ o < 0x3028 then 0x01FFFFFF
  else if o = 0x3028 then 3
  else 0xFFFFFFFF

/-- After a store of bytes from offset off of that region: the word that holds them reads back with the bytes stored and its other
bytes, but for reserved bits (R5) and for p0, which reads true; every other word of the region reads as before. -/
def ReadsBack (s t : State) (off : Nat) (data : List Byte) : Prop :=
  let o := off / 4 * 4
  ∀ pc,
    (∀ j, j < 4 → wordByte (t.ctlWord t.tile pc o) j =
      ((if off % 4 ≤ j ∧ j < off % 4 + data.length then data.getD (j - off % 4) 0 else wordByte (s.ctlWord s.tile pc o) j) &&&
        wordByte (regionMask o) j) ||| (if o = 12 ∧ j = 0 then 1 else 0)) ∧
    ∀ o', o' % 4 = 0 → o' ≠ o → t.ctlWord t.tile pc o' = s.ctlWord s.tile pc o'

end Sys2Proof.Claims

/-- The same stores anywhere else (R139): one entry with the bytes stored joins the commit queue; memory changes only when it
leaves. A supervisor's store to the region of R381 writes the registers there: each reads back as stored.
The model's choices in it: log entry 47 (waiting stream vectors land first). -/
def Obligations.StoreElsewhere : Prop :=
  (∀ (i : Instr) (s : State) (r : SlotRow), slotRow s i = some r → r.write = true → Passes s r →
    s.src.owns r.acc.ea = false →
    let base := (s.popPorts r.uses.vecs).tile.landOutputs
    ∃ t, exec i s = .next t ∧ t.tile.cq = base.cq ++ [.store (storedCells r) (s.tile.jobSq, s.tile.core.bindings)] ∧ t.tile.core = base.core ∧
      t.tile.win = base.win ∧ t.tile.pend = base.pend ∧ t.tile.loads = base.loads ∧ t.tile.mq = base.mq ∧
      { t.tile.rest with cq := [] } = { base.rest with cq := [] } ∧ t.dev = s.dev ∧ t.others = s.others) ∧
  ∀ (i : Instr) (s : State) (r : SlotRow) (off : Nat), slotRow s i = some r → r.write = true → Passes s r →
    r.vector = false → s.src.ctlOff r.acc.ea = some off →
    exec i s = .next ((s.ctlWrite off r.data).markDue (s.readsToken r.uses)) ∧
      (s.memWf = true → ReadsBack s (s.ctlWrite off r.data) off r.data)

/-- The checks of R178, in order: an address that is not aligned raises misaligned; one outside the domain, or in two regions,
access-fault; a vector access with two words in one bank, bank-conflict (R181); each with the address ea of R184 in cr.einfo
(R384). That ea is the whole of what a strided access reports is the model's choice (log entry 20). -/
def Obligations.SlotTraps : Prop :=
  ∀ (i : Instr) (s : State) (r : SlotRow), slotRow s i = some r → Ready s r.g r.ok r.uses →
    (r.aligned = false → exec i s = .next (s.trapAt .misaligned (BitVec.ofNat 32 r.acc.ea) 0 0 .trapExec)) ∧
    (r.aligned = true → inDomain s r = false →
      exec i s = .next (s.trapAt .accessFault (BitVec.ofNat 32 r.acc.ea) 0 0 .trapExec)) ∧
    (r.aligned = true → inDomain s r = true → inBanks s r = false →
      exec i s = .next (s.trapAt .bankConflict (BitVec.ofNat 32 r.acc.ea) 0 0 .trapExec))

/-- R148, R179, R280: a vector operation that reads a lattice element with wrong parity shows a data error; it still issues. A
load that meets an uncorrectable word of a window shows a data error; of the near store, it raises access-fault with UNC and
reports event 0x12; a load that meets an element whose parity error only an event record reports (R291, R294) reports event 0x12
with its address and goes out; a load of a poisoned tile register raises access-fault with UNC and POIS, and the loading bundle in
cr.einfo.
The model's choices in it: log entries 40, 42 (which of several poisoned registers is reported), 107 and 119. -/
def Obligations.UncorrectableLoads : Prop :=
  (∀ (i : Instr) (s : State) (r : VRow), vectorRow s i = some r → Ready s r.g (r.ok s) r.uses → clean s r.reads = false →
    s.tile.recov.phase = .run → ∃ t, exec i s = .next t ∧ t.tile.recov.phase = .stop) ∧
  ∀ (i : Instr) (s : State) (r : SlotRow), slotRow s i = some r → r.write = false → Ready s r.g r.ok r.uses →
    r.aligned = true → inDomain s r = true → inBanks s r = true → s.loadWaits r.acc = false → s.accTokens r.acc = false →
    (∀ p, s.accPoison r.acc = some p →
      exec i s = .next (s.trapAt .accessFault (BitVec.ofNat 32 p.pc.toNat) (2 ^ 8 + 2 ^ 7) 0 .trapExec)) ∧
    (s.accPoison r.acc = none → s.eccOf r.acc.bytes = .scratch → s.tile.recov.phase = .run →
      ∃ t, exec i s = .next t ∧ t.tile.recov.phase = .stop) ∧
    (∀ w, s.accPoison r.acc = none → s.eccOf r.acc.bytes = .event w →
      ∃ t, exec i s = .next t ∧ t.tile.loads.getLast? =
        some ⟨loadTo s r, .bytes (r.acc.bytes.map fun a => (a, s.loadByte a)), s.iss.word⟩ ∧
        (s.dev.evRing = none → s.dev.early.length < 256 → t.dev.early = s.dev.early ++
          [⟨s.src.phys, 0x12, s.src.ctx, (s.source s.src.phys).sq, s.src.cyc, [BitVec.ofNat 32 w]⟩])) ∧
    (∀ w, s.accPoison r.acc = none → s.eccOf r.acc.bytes = .near w →
      exec i s = .next (((s.tileEvent s.src 0x12 [BitVec.ofNat 32 w]).trapAt .accessFault (BitVec.ofNat 32 r.acc.ea) (2 ^ 8) 0
        .trapExec).markDue (s.readsToken r.uses)))

/-! ### Atomics and flagged stores -/

namespace Sys2Proof.Claims

/-- The word of R191 after an atomic on `old`, from Bval and sD. -/
def atomicWord (op : AtomOp) (old b d : Word) : Word :=
  match op with
  | .add => BitVec.ofNat 32 (old.toNat + b.toNat)
  | .incb => if old.toNat < b.toNat then BitVec.ofNat 32 (old.toNat + 1) else old
  | .cas => if old = d then b else old

/-- The atomics of the memory slot. -/
def atomicRow (i : Instr) : Option (FS × AtomOp) :=
  match i with
  | .atomAdd o => some (o, .add)
  | .atomIncb o => some (o, .incb)
  | .atomCas o => some (o, .cas)
  | _ => none

/-- What an atomic names: `atom.cas` reads sD as well. -/
def atomicUses (o : FS) (op : AtomOp) : Uses := usesRegs (o.a :: o.b.regs ++ (if op = .cas then [o.d] else [])) [o.d]

/-- The word of an atomic: aligned, in a scratchpad or the near store, in the domain. -/
def wordOk (s : State) (a : Nat) : Bool := decide (a % 4 = 0) && s.slotOk s.src a 4 true && inMemory s.src.ltile a

/-- An atomic passes its checks, waits for nothing and meets no uncorrectable word. -/
structure AtomicPasses (s : State) (o : FS) (op : AtomOp) : Prop where
  ready : Ready s o.g (fsOk s o) (atomicUses o op)
  word : wordOk s (s.rd o.a).toNat = true
  waits : s.storeWaits ⟨(s.rd o.a).toNat, [((s.rd o.a).toNat, 4)]⟩ = false
  ecc : s.eccOf ((List.range 4).map fun k => (s.rd o.a).toNat + k) = .none

end Sys2Proof.Claims

/-- An atomic that returns nothing (R48, R191, R192): in the own window the word as the tile sees it before the bundle, every stream
vector of earlier bundles landed, takes its new value at issue, no other byte changes; elsewhere the atomic joins the commit queue.
The model's choices in it: log entries 38 and 47 (waiting stream vectors land first). -/
def Obligations.PlainAtomic : Prop :=
  ∀ (i : Instr) (s : State) (o : FS) (op : AtomOp), atomicRow i = some (o, op) → o.d = 0 → AtomicPasses s o op →
    s.memWf = true → s.src.ltile = s.tile.ltile →
    let a := (s.rd o.a).toNat
    let base := s.tile.landOutputs
    let new := atomicWord op (s.seenWord s.src.landOutputs a) (s.bval o.b) (s.rd o.d)
    ∃ t, exec i s = .next t ∧
      (∀ off, s.src.ownOff a = some off → (∀ x, t.tile.winByte x =
          if off ≤ x ∧ x < off + 4 then new.extractLsb' (8 * (x - off)) 8 else base.winByte x) ∧
        t.tile.core = base.core ∧ t.tile.cq.length = base.cq.length) ∧
      (s.src.ownOff a = none → t.tile.cq = base.cq ++ [.atomic op a (s.bval o.b) (s.rd o.d)] ∧ t.tile.core = base.core ∧
        t.tile.win = base.win ∧ { t.tile.rest with cq := [] } = { base.rest with cq := [] }) ∧
      t.tile.pend = base.pend ∧ t.tile.loads = base.loads ∧ t.dev = s.dev ∧ t.others = s.others

/-- An atomic that returns the old value (R137, R140, R191, R192): a checkpointing operation, alone in its interval, that goes
out to act at its home; in a rerun it takes the logged result at once and does not act again. It acts at its home, a word of the
near store or of a scratchpad, the own one or another tile's, as one step, and its old value lands in its register and, once, in
the log of the interval. -/
def Obligations.ReturningAtomic : Prop :=
  (∀ (i : Instr) (s : State) (o : FS) (op : AtomOp), atomicRow i = some (o, op) → o.d ≠ 0 → AtomicPasses s o op →
    s.src.ckFresh = true →
    (s.src.released.any fun h => (Held.atomic op (s.rd o.a).toNat 0 0).behind s.src h) = false →
    ∃ t, exec i s = .next t ∧ t.tile.ckDue = true ∧
      (s.tile.logged s.iss.word false = none →
        Sent s t [.sreg o.d] [⟨.sreg o.d, .atomic op (s.rd o.a).toNat (s.bval o.b) (s.rd o.d), s.iss.word⟩]) ∧
      (∀ v, s.tile.logged s.iss.word false = some v →
        t.tile.core.reg o.d = v ∧ t.tile.loads.length = s.tile.loads.length ∧ t.tile.win = s.tile.win ∧ t.dev = s.dev ∧
        t.others = s.others ∧ ∀ r, r ≠ o.d → t.tile.core.reg r = s.tile.core.reg r)) ∧
  ∀ (s : State) (i : Nat) (op : AtomOp) (a w : Nat) (r : Reg) (v e : Word),
    s.tile.loads[i]? = some ⟨.sreg r, .atomic op a v e, w⟩ → s.tile.loadReady i = true → s.memWf = true → a % 4 = 0 →
    let old : Word := BitVec.ofNat 32 (natOfBytes ((List.range 4).map fun k => s.mapByte s.tile.ctx s.tile.ltile (a + k)))
    ∃ t, exec (.loadReturn i) s = .next t ∧ t.tile.loads = s.tile.loads.eraseIdx i ∧
      (r ≠ 0 → placeOf s.tile.ltile a = .near a → t.tile.core.reg r = old) ∧
      (placeOf s.tile.ltile a = .near a → ∀ x, t.dev.near.readByte x =
        if a ≤ x ∧ x < a + 4 then (atomicWord op old v e).extractLsb' (8 * (x - a)) 8 else s.dev.near.readByte x) ∧
      (placeOf s.tile.ltile a = .near a → s.tile.logged w false = none →
        t.tile.recov.log = s.tile.recov.log ++ [⟨w, false, old⟩] ∧ t.tile.win = s.tile.win) ∧
      (∀ l off u, placeOf s.tile.ltile a = .win l off → off + 4 ≤ 0x180000 → s.logical s.tile.ctx l = some u →
        s.getTile u.phys = u →
        (r ≠ 0 → t.tile.core.reg r = old) ∧
        (∀ x, (t.getTile u.phys).win.readByte x =
          if off ≤ x ∧ x < off + 4 then (atomicWord op old v e).extractLsb' (8 * (x - off)) 8 else u.win.readByte x) ∧
        (∀ p, p ≠ u.phys → (t.getTile p).win = (s.getTile p).win) ∧ t.dev = s.dev ∧
        (s.tile.logged w false = none → t.tile.recov.log = s.tile.recov.log ++ [⟨w, false, old⟩]))

/-- The checks of atomics and of `stf` on their addresses (R178, R190): misaligned, then access-fault; `stf` checks its data
and its flag, the data first. Else `stf` puts its data and its flag in the commit queue as one release (R193).
The model's choices in it: log entries 20, 47 (waiting stream vectors land first) and 94. -/
def Obligations.FlaggedStore : Prop :=
  (∀ (i : Instr) (s : State) (o : FS) (op : AtomOp), atomicRow i = some (o, op) → Ready s o.g (fsOk s o) (atomicUses o op) →
    (o.d ≠ 0 → s.src.ckFresh = true) →
    let a := (s.rd o.a).toNat
    (a % 4 ≠ 0 → exec i s = .next (s.trapAt .misaligned (s.rd o.a) 0 0 .trapExec)) ∧
    (a % 4 = 0 → wordOk s a = false → exec i s = .next (s.trapAt .accessFault (s.rd o.a) 0 0 .trapExec))) ∧
  ∀ (s : State) (o : FS), Ready s o.g (fsOk s o) (usesRegs (o.d :: o.a :: o.b.regs) []) →
    let a := (s.rd o.a).toNat
    let f := (s.bval o.b).toNat
    (a % 4 ≠ 0 → exec (.stf o) s = .next (s.trapAt .misaligned (s.rd o.a) 0 0 .trapExec)) ∧
    (a % 4 = 0 → f % 4 ≠ 0 → exec (.stf o) s = .next (s.trapAt .misaligned (s.bval o.b) 0 0 .trapExec)) ∧
    (a % 4 = 0 → f % 4 = 0 → wordOk s a = false →
      exec (.stf o) s = .next (s.trapAt .accessFault (s.rd o.a) 0 0 .trapExec)) ∧
    (wordOk s a = true → f % 4 = 0 → wordOk s f = false →
      exec (.stf o) s = .next (s.trapAt .accessFault (s.bval o.b) 0 0 .trapExec)) ∧
    (wordOk s a = true → wordOk s f = true → s.storeWaits ⟨a, [(a, 4), (f, 4)]⟩ = false →
      exec (.stf o) s = .next ({ s with tile := { s.tile.landOutputs with
        cq := s.tile.landOutputs.cq ++ [Held.stf (cellsOf (s.src.canon a) (bytesOfNat 4 (s.rd o.d).toNat)) f
          (s.tile.jobSq, s.tile.core.bindings)] } }.markDue
          (s.readsToken (usesRegs (o.d :: o.a :: o.b.regs) []))))

/-! ### Streams as objects -/

/-- `sbind`, `sunbind`, `sdrain` and `sstat` (R200 to R203): a port is bound to a descriptor that passes the checks of R200,
else stream-fault with the port; it is unbound, and an input port drained, once nothing of it is on its way; its status word,
position or total is on its way to sD. No other port, no register and no memory changes, but for the vectors of other ports,
which land before an unbinding.
The model's choices in it: log entries 8, 47 (the vectors that land first), 48, 107 and 127 (a barrier in a register
region, and a footprint in the control region, are stream-faults). -/
def Obligations.StreamInstructions : Prop :=
  (∀ (s : State) (o : FS), Ready s o.g (s.src.portOk o.d && s.src.regOk o.a && s.src.bOk o.b) (usesRegs (o.a :: o.b.regs) []) →
    let a := (s.rd o.a).toNat
    let d := s.readDesc a
    let start := (s.bval o.b).toNat
    let there := !(s.src.core.port o.d.toNat).bound && decide (a % 64 = 0) && s.slotOk s.src a 64 false
    let num := s.tile.core.bindings
    (there = true → s.readWaits ⟨a, [(a, 64)]⟩ = false → s.descOk d start = true →
      ∃ t, exec (.sbind o) s = .next t ∧
        t.tile.core.port o.d.toNat = ⟨true, (d.getD 0 0).getLsbD 0, d, (descExt d).foldl (· * ·) 1, start, [], false, num⟩ ∧
        Frame { s with tile := { s.tile with core := { s.tile.core with bindings := num + 1 } } } t [] [] [] [o.d.toNat] 0) ∧
    (there = false ∨ (s.readWaits ⟨a, [(a, 64)]⟩ = false ∧ s.descOk d start = false) →
      exec (.sbind o) s = .next (s.trapAt .streamFault (BitVec.ofNat 32 o.d.toNat) 0 0 .trapExec))) ∧
  (∀ (s : State) (o : FD), Ready s o.g (s.src.portOk o.d) (usesRegs [] []) → s.drainWaits o.d.toNat = false →
    let base := s.tile.landOutputs
    ∃ t, exec (.sunbind o) s = .next t ∧ t.tile.core.port o.d.toNat = Port.unbound ∧
      Frame { s with tile := { base with
          loads := base.loads.map fun l => if l.dst = .port o.d.toNat then { l with dst := .none } else l } }
        t [] [] [] [o.d.toNat] 0) ∧
  (∀ (s : State) (o : FD), Ready s o.g (s.src.portOk o.d) (usesRegs [] []) → s.drainWaits o.d.toNat = false →
    (s.src.mq.any XOp.isTst) = false →
    let p := s.tile.core.port o.d.toNat
    ∃ t, exec (.sdrain o) s = .next t ∧ Frame s t [] [] [] [o.d.toNat] 0 ∧
      t.tile.core.port o.d.toNat = (if p.bound && !p.out then { p with fifo := [] } else p)) ∧
  ∀ (s : State) (o : FS), Ready s o.g (s.src.regOk o.d && s.src.portOk o.a && s.src.bOk o.b) (usesRegs o.b.regs [o.d]) →
    let p := s.src.core.port o.a.toNat
    let sel := (s.bval o.b).toNat
    (sel ≤ 2 → ∃ t, exec (.sstat o) s = .next t ∧ Frame s t [o.d] [] [] [] 0 ∧
      OnItsWay s t [(.sreg o.d, if sel = 0 then s.src.portStatus o.a.toNat
        else if p.bound then BitVec.ofNat 32 (if sel = 1 then p.pos else p.total) else 0)] 0 2) ∧
    (2 < sel → exec (.sstat o) s = .next (s.trapAt .illegalOperand s.iss.raw 0 0 .trapExec))

/-! ### Jobs, posts and fabric operations -/

namespace Sys2Proof.Claims

/-- A job has taken the lowest free slot and entered the commit queue; its token register, if it has one, is pending and takes
no older result; nothing else changes. -/
structure JobIssued (s t : State) (kind : JobKind) (tok : Reg) (addr : Nat) (card : Option (List Word)) (status : Nat) : Prop where
  job : ∃ j, t.tile.jobs = s.tile.jobs ++ [j] ∧ some j.slot = s.tile.freeSlot ∧ j.kind = kind ∧ j.state = .held ∧
    j.sq = s.tile.jobSq ∧ j.tok = (if tok = 0 then none else some tok) ∧ j.cardAddr = addr ∧ j.card = card ∧ j.status = status ∧
    t.tile.cq = s.tile.cq ++ [.job j.slot]
  count : t.tile.jobSq = s.tile.jobSq + 1
  pending : t.tile.core.tokPend =
    (s.tile.core.tokPend.filter fun k => !(written [tok] []).contains (.sreg k.reg)) ++ (if tok = 0 then [] else [⟨tok, s.tile.jobSq⟩])
  core : t.tile.core = { s.tile.core with
    tokPend := t.tile.core.tokPend
    tokDone := s.tile.core.tokDone.filter fun r => !(written [tok] []).contains (.sreg r) }
  pend : t.tile.pend = s.tile.pend.map (Pending.kill (written [tok] []))
  loads : t.tile.loads = s.tile.loads.map fun l => { l with dst := l.dst.kill (written [tok] []) }
  queue : t.tile.mq = s.tile.mq.map (XOp.kill (written [tok] []))
  win : t.tile.win = s.tile.win
  rest : { t.tile.rest with jobs := [], jobSq := 0, cq := [] } = { s.tile.rest with jobs := [], jobSq := 0, cq := [] }
  dev : t.dev = s.dev
  others : t.others = s.others

/-- A card of n bytes: captured at issue where it is aligned and in the declared scratchpad (R227). -/
def cardAt (s : State) (a n : Nat) : Option (List Word) :=
  if a % 16 = 0 ∧ s.src.cardInside a n = true then some (s.readCard a n) else none

/-- Reading the card waits for nothing and meets no uncorrectable word; a slot is free; no stream vector waits to land, and no
load is on its way to an output port. -/
structure JobReady (s : State) (a n : Nat) : Prop where
  slot : s.src.slotsFull = false
  free : s.tile.freeSlot.isSome = true
  quiet : s.tile.quiet = true
  loading : s.src.portLoading = false
  card : (cardAt s a n).isSome = true → s.loadWaits ⟨a, [(a, n)]⟩ = false ∧ s.eccOf ((List.range n).map fun k => a + k) = .none

/-- The copy instructions by kind. -/
def copyRow (i : Instr) : Option (FS × JobKind) :=
  match i with
  | .cpy o => some (o, .cpy)
  | .cpf o => some (o, .cpf)
  | .cgat o => some (o, .cgat)
  | .cscat o => some (o, .cscat)
  | _ => none

/-- The card with SRCVA displaced by 64 × Bval[15:0] and DSTVA by 64 × Bval[31:16], both signed, modulo 2^64 (R227). -/
def displaced (b : Word) (l : List Word) : List Word :=
  let field (i : Nat) (n : Int) : Int := (((l.getD i 0).toNat + 2 ^ 32 * (l.getD (i + 1) 0).toNat : Nat) + 64 * n) % 2 ^ 64
  let src := field 2 (b.extractLsb' 0 16).toInt
  let dst := field 4 (b.extractLsb' 16 16).toInt
  l.zipIdx.map fun x =>
    if x.2 = 2 then BitVec.ofInt 32 src else if x.2 = 3 then BitVec.ofInt 32 (src / 2 ^ 32)
    else if x.2 = 4 then BitVec.ofInt 32 dst else if x.2 = 5 then BitVec.ofInt 32 (dst / 2 ^ 32) else x.1

/-- The remote atomics. -/
def remoteRow (i : Instr) : Option (FS × AtomOp) :=
  match i with
  | .xadd o => some (o, .add)
  | .xincb o => some (o, .incb)
  | .xcas o => some (o, .cas)
  | _ => none

def remoteUses (o : FS) (op : AtomOp) : Uses :=
  usesRegs (o.a :: (o.a ||| 1) :: o.b.regs ++ (if o.d ≠ 0 ∧ op = .cas then [o.d] else []))
    (if o.d = 0 then [] else [o.d, o.d ||| 1])

def remoteOk (s : State) (o : FS) : Bool :=
  s.src.feat 3 && ((decide (o.d = 0) || s.src.pairOk o.d) && s.src.pairOk o.a && s.src.bOk o.b)

/-- The 64-bit value of a pair. -/
def pairOf (s : State) (r : Reg) : Nat := pairNat s r

end Sys2Proof.Claims

/-- `cpy`, `cpf`, `cgat`, `cscat`, `cfence` and `hpost` (R227, R229, R319): a job with its card, captured at issue and
displaced where it lies in the declared scratchpad, goes to a slot and to the commit queue. Where no slot is free the bundle
waits, and while the commit queue holds an entry a checkpoint comes first (R137, R208). -/
def Obligations.JobsIssue : Prop :=
  (∀ (i : Instr) (s : State) (o : FS) (k : JobKind), copyRow i = some (o, k) →
    Ready s o.g (fsOk s o) (usesRegs (o.a :: o.b.regs) [o.d]) →
    let a := (s.rd o.a).toNat
    (JobReady s a 128 → ∃ t, exec i s = .next t ∧ JobIssued s t k o.d a ((cardAt s a 128).map (displaced (s.bval o.b))) 0) ∧
    (s.src.slotsFull = true → exec i s = .next (s.setStatus (if s.src.cq.isEmpty then .stall else .ckpt)))) ∧
  (∀ (s : State) (o : FDA), Ready s o.g (s.src.regOk o.d && s.src.regOk o.a) (usesRegs [o.a] [o.d]) →
    let a := (s.rd o.a).toNat
    (o.a = 0 → JobReady s 1 128 → ∃ t, exec (.cfence o) s = .next t ∧ JobIssued s t .cfence o.d 0 none 0) ∧
    (o.a ≠ 0 → JobReady s a 128 → ∃ t, exec (.cfence o) s = .next t ∧
      JobIssued s t .cfence o.d a (cardAt s a 128) (if a % 16 = 0 ∧ s.src.cardInside a 128 = false then 2 else 0))) ∧
  ∀ (s : State) (o : FS), Ready s o.g (s.src.feat 2 && fsOk s o) (usesRegs (o.a :: o.b.regs) [o.d]) →
    let a := (s.bval o.b).toNat
    JobReady s a 32 → ∃ t, exec (.hpost o) s = .next t ∧ JobIssued s t (.post (s.rd o.a)) o.d a (cardAt s a 32) 0

/-- `xst`, `xadd`, `xincb` and `xcas` (R352, R353): an `xst`, or an atomic that returns nothing, goes to a slot and to the
commit queue with its addresses and operands; an atomic that returns is a checkpointing operation: its job leaves at once, and
its old value and status are awaited in the pair, or, in a rerun, taken from the log. Leaving at once is: its job is not held, and
no entry of the commit queue stands for it. -/
def Obligations.FabricInstructions : Prop :=
  (∀ (s : State) (o : FXT),
    Ready s o.g (s.src.feat 3 && (s.src.regOk o.d && s.src.quadOk o.a && s.src.pairOk o.b))
      (usesRegs (quadRegs o.a ++ [o.b, o.b ||| 1]) [o.d]) → JobReady s 1 128 →
    ∃ t, exec (.xst o) s = .next t ∧
      JobIssued s t (.xst (pairOf s o.a) (pairOf s (o.a ||| 2)) (s.rd o.b) (s.rd (o.b ||| 1))) o.d 0 none 0) ∧
  (∀ (i : Instr) (s : State) (o : FS) (op : AtomOp), remoteRow i = some (o, op) → o.d = 0 →
    Ready s o.g (remoteOk s o) (remoteUses o op) → JobReady s 1 128 →
    ∃ t, exec i s = .next t ∧ JobIssued s t (.xatom op (pairOf s o.a) (s.bval o.b) 0) 0 0 none 0) ∧
  (∀ (i : Instr) (s : State) (o : FS) (op : AtomOp), remoteRow i = some (o, op) → o.d ≠ 0 →
    Ready s o.g (remoteOk s o) (remoteUses o op) → s.src.ckFresh = true → s.src.slotsFull = false → s.src.portLoading = false →
    s.src.logged s.iss.word false = none →
    ∃ t j, exec i s = .next t ∧ t.tile.ckDue = true ∧ t.tile.jobs = s.tile.jobs ++ [j] ∧
      j.kind = .xatom op (pairOf s o.a) (s.bval o.b) (s.rd o.d) ∧ j.sq = s.tile.jobSq ∧
      j.state ≠ .held ∧ t.tile.cq = s.tile.cq ∧
      Sent s t [.sreg o.d, .sreg (o.d ||| 1)]
        [⟨.sreg o.d, .xold s.tile.jobSq, s.iss.word⟩, ⟨.sreg (o.d ||| 1), .xstatus s.tile.jobSq, s.iss.word⟩]) ∧
  ∀ (i : Instr) (s : State) (o : FS) (op : AtomOp) (v st : Word), remoteRow i = some (o, op) → o.d ≠ 0 →
    Ready s o.g (remoteOk s o) (remoteUses o op) → s.src.ckFresh = true →
    s.src.logged s.iss.word false = some v → s.src.logged s.iss.word true = some st →
    ∃ t, exec i s = .next t ∧ t.tile.core.reg o.d = v ∧ t.tile.core.reg (o.d ||| 1) = st ∧
      Frame s t [o.d, o.d ||| 1] [] [] [] 0

/-! ### Synchronisation -/

namespace Sys2Proof.Claims

/-- The address checks of R254: alignment, then the domain and, of a barrier, the declared region. -/
def syncOk (s : State) (a n : Nat) (write barrier : Bool) : Bool :=
  decide (a % n = 0) && (s.accessOk s.src s.src.core.sup a n write && inMemory s.src.ltile a &&
    (!barrier || s.src.barrierRegionOk s.src.core.sup a))

/-- One entry more of the commit queue, and nothing else. -/
structure Entered (s t : State) (h : Held) : Prop where
  cq : t.tile.cq = s.tile.cq ++ [h]
  core : t.tile.core = s.tile.core
  win : t.tile.win = s.tile.win
  pend : t.tile.pend = s.tile.pend
  loads : t.tile.loads = s.tile.loads
  queue : t.tile.mq = s.tile.mq
  rest : { t.tile.rest with cq := [] } = { s.tile.rest with cq := [] }
  dev : t.dev = s.dev
  others : t.others = s.others

/-- The releases of R255 and R258: guard, decode check, operands, whether the bundle waits for flags, the address, its bytes,
whether it is a barrier, and the entry. -/
structure RelRow where
  g : Guard
  ok : Bool
  uses : Uses
  flags : Bool
  at_ : Option (Nat × Nat × Bool)
  held : Held

/-- The 64-bit operand of `cadd` and `wge`: a pair, or Bval zero-extended (R253). -/
def wide (s : State) (b : BOp) : Nat :=
  match b with
  | .reg r => pairNat s r
  | b => (s.bval b).toNat

def releaseRow (s : State) (i : Instr) : Option RelRow :=
  match i with
  | .barv o =>
    let a := (s.rd o.a).toNat
    some ⟨o.g, s.src.regOk o.a && s.src.bOk o.b, usesRegs (o.a :: o.b.regs) [], true, some (a, 16, true),
      .barv o.sc.toNat a ((s.bval o.b).toNat % 2 ^ 16) (s.src.core.flags.extractLsb' 0 8)⟩
  | .bartx o =>
    let a := (s.rd o.a).toNat
    some ⟨o.g, s.src.regOk o.a && s.src.bOk o.b, usesRegs (o.a :: o.b.regs) [], false, some (a, 16, true),
      .bartx o.sc.toNat a (if o.na then 0 else 1) (s.bval o.b)⟩
  | .cadd o =>
    let a := (s.rd o.a).toNat
    some ⟨o.g, s.src.regOk o.a && s.src.b64Ok o.b, usesRegs (o.a :: o.b.regs64) [], false, some (a, 8, false),
      .cadd o.sc.toNat a (BitVec.ofNat 64 (wide s o.b))⟩
  | .phaseRel o => some ⟨o.g, true, usesRegs [] [], false, none, .phaseRel o.sc.toNat⟩
  | _ => none

/-- The waits of R256 and R257: operands, the address, its bytes, whether it is a barrier, whether the wait is over, and the
value that ends it. -/
def waitRow (s : State) (i : Instr) : Option (FS × Bool × Uses × Nat × Bool × Bool × Word) :=
  match i with
  | .barw o =>
    let a := (s.rd o.a).toNat
    let n := ((s.atIssue.mapNat s.src.ctx s.src.ltile (a + 12) 4 : Int) - (s.bval o.b).toNat) % 2 ^ 32
    some (o, fsOk s o, usesRegs (o.a :: o.b.regs) [o.d], 16, true, decide (1 ≤ n) && decide (n ≤ 2 ^ 31),
      (s.atIssue.mapByte s.src.ctx s.src.ltile (a + 9)).setWidth 32)
  | .wge o =>
    let v := s.atIssue.mapNat s.src.ctx s.src.ltile (s.rd o.a).toNat 8
    some (o, s.src.regOk o.d && s.src.regOk o.a && s.src.b64Ok o.b, usesRegs (o.a :: o.b.regs64) [o.d], 8, false,
      decide (wide s o.b ≤ v), BitVec.ofNat 32 v)
  | _ => none

end Sys2Proof.Claims

/-- R254, R255, R258: `barv`, `bartx`, `cadd` and `phase.rel` complete for every object that passes the checks of their
address: each enters the commit queue as one release, behind the stream vectors written before it. `barv` waits for flags where
R82 asks; one of no arrivals raises illegal-operand; an address that is not aligned raises misaligned, one outside the domain
access-fault.
The model's choices in it: log entry 47 (waiting stream vectors land first). -/
def Obligations.ReleasesEnter : Prop :=
  (∀ (i : Instr) (s : State) (r : RelRow),
    (∃ o, i = .barv o) ∨ (∃ o, i = .bartx o) ∨ (∃ o, i = .cadd o) ∨ (∃ o, i = .phaseRel o) →
    releaseRow s i = some r → Ready s r.g r.ok r.uses → (r.flags = true → s.src.flagsBusy = false) → s.src.portLoading = false →
    (∀ a n b, r.at_ = some (a, n, b) → syncOk s a n true b = true) → (∀ sc a f, r.held ≠ .barv sc a 0 f) →
    ∃ t, exec i s = .next t ∧ Entered { s with tile := s.tile.landOutputs } t r.held ∧
      (s.tile.quiet = true → Entered s t r.held)) ∧
  ∀ (i : Instr) (s : State) (r : RelRow), releaseRow s i = some r → Ready s r.g r.ok r.uses →
    (r.flags = true → s.src.flagsBusy = false) → s.src.portLoading = false →
    (∀ a n b, r.at_ = some (a, n, b) → a % n ≠ 0 →
      exec i s = .next (s.trapAt .misaligned (BitVec.ofNat 32 a) 0 0 .trapExec)) ∧
    (∀ a n b, r.at_ = some (a, n, b) → a % n = 0 → syncOk s a n true b = false →
      exec i s = .next (s.trapAt .accessFault (BitVec.ofNat 32 a) 0 0 .trapExec)) ∧
    ∀ sc a f, r.held = .barv sc a 0 f → syncOk s a 16 true true = true →
      exec i s = .next (s.trapAt .illegalOperand s.iss.raw 0 0 .trapExec)

/-- R256, R257, R259: `barw` and `wge` wait until the object, as it stands at issue, shows their phase or target, and then
deliver the flags of the last phase or the counter, logged for reruns; a rerun takes the logged value. `phase.acq` only ends
its interval.
The model's choices in it: log entry 128 (a barrier or counter with an uncorrectable word is compared and delivered by its raw
bytes). -/
def Obligations.WaitsEnd : Prop :=
  (∀ (i : Instr) (s : State) (o : FS) (ok : Bool) (u : Uses) (n : Nat) (bar late : Bool) (v : Word),
    waitRow s i = some (o, ok, u, n, bar, late, v) → Ready s o.g ok u → s.src.ckFresh = true →
    let a := (s.rd o.a).toNat
    (a % n ≠ 0 → exec i s = .next (s.trapAt .misaligned (s.rd o.a) 0 0 .trapExec)) ∧
    (a % n = 0 → syncOk s a n false bar = false → exec i s = .next (s.trapAt .accessFault (s.rd o.a) 0 0 .trapExec)) ∧
    (syncOk s a n false bar = true → s.src.logged s.iss.word false = none → late = true → s.tile.logged s.iss.word false = none →
      ∃ t, exec i s = .next t ∧ t.tile.core.reg o.d = valueOf o.d v ∧
        t.tile.recov.log = s.tile.recov.log ++ [⟨s.iss.word, false, v⟩] ∧ t.tile.ckDue = true ∧ Frame s t [o.d] [] [] [] 0) ∧
    (syncOk s a n false bar = true → s.src.logged s.iss.word false = none → late = false →
      exec i s = .next (s.setStatus .stall)) ∧
    (∀ w, syncOk s a n false bar = true → s.src.logged s.iss.word false = some w →
      ∃ t, exec i s = .next t ∧ t.tile.core.reg o.d = valueOf o.d w ∧ Frame s t [o.d] [] [] [] 0)) ∧
  ∀ (s : State) (o : FG), s.on o.g = true → s.src.ckFresh = true → exec (.phaseAcq o) s = .next (s.markDue true)

/-! ### The matrix unit and Flint -/

namespace Sys2Proof.Claims

/-- An X-pipe operation at issue in one row: guard, feature bit, decode check, operands, the checks on addresses, the
illegal-operand checks, the tile registers it reads, whether a checkpoint must come first, the bytes it will write, its effect
on the registers at issue, the elements that take its result, and the operation that enters the queue. -/
structure XRow where
  g : Guard
  bit : Nat
  ok : Bool
  uses : Uses
  addr : Bool
  valid : Bool
  reads : List Nat
  ckpt : Bool
  saves : Nat × Nat
  core : Core → Core
  kills : List Dst
  op : XOp

/-- A plane at b with pitch p: 4-byte aligned, in one region of the domain (R278). -/
def planeOk (s : State) (b : Word) (p : BitVec 16) (rows n : Nat) (write : Bool) : Bool :=
  s.spanOk (planeSpan b p rows n) write

/-- The address checks of `tld` and `tst`: the first plane's base and pitch aligned, both planes in the domain (R278). -/
def planesOk (s : State) (c : Cfg) (p : Planes) (write : Bool) : Bool :=
  decide (p.b1.toNat % 4 = 0) && decide (p.p1.toNat % 4 = 0) && planeOk s p.b1 p.p1 c.rows c.row1 write &&
    (decide (c.row2 = 0) || planeOk s p.b2 p.p2 c.rows c.row2 write)

/-- The address checks of `tldw`: its descriptor, then the map that it describes (R276, R282). -/
def windowOk (s : State) (c : Cfg) (a : Nat) : Bool :=
  let d := WinDesc.ofWords (s.readCard a 32)
  let es := max 1 (fmtWidth c.fmt / 8)
  decide (a % 16 = 0) && s.src.cardInside a 32 && !s.loadWaits ⟨a, [(a, 32)]⟩ &&
    decide (s.eccOf ((List.range 32).map fun k => a + k) = .none) &&
    (decide (d.base % es = 0) && decide (d.xp % es = 0) && decide (d.yp % es = 0)) && (d.empty || s.spanOk (d.span es) false)

/-- FST with fields replaced (R295). -/
def setFst (f : Word) (c : Core) : Core := { c with flint := { c.flint with fst := f } }

/-- The bytes of tile register n under a configuration. -/
def tileBytes (n : Nat) (c : Cfg) : Nat × Nat := (tregBase n, c.size)

/-- The row of a matrix instruction but `tcfg` and `tst` (R277 to R289). -/
def matrixRow (s : State) (i : Instr) : Option XRow :=
  match i with
  | .tld o =>
    let cfg := s.tcfgOf o.y.toNat
    let c := Cfg.ofWord cfg
    let p := s.planes o
    some ⟨o.g, 0, s.src.tregOk o.y && s.src.pairOk o.a && s.src.bOk o.b, usesRegs (o.a :: (o.a ||| 1) :: o.b.regs) [],
      planesOk s c p false, c.valid, [], false, tileBytes o.y.toNat c, id, [],
      .tld o.y.toNat cfg p.b1 p.p1 p.b2 p.p2 s.iss.pc⟩
  | .tldw o =>
    let cfg := s.tcfgOf o.y.toNat
    let c := Cfg.ofWord cfg
    let a := (s.rd o.a).toNat
    let l := s.readCard a 32
    some ⟨o.g, 0, s.src.tregOk o.y && s.src.regOk o.a && s.src.bOk o.b, usesRegs (o.a :: o.b.regs) [], windowOk s c a,
      windowFmt c.fmt && c.valid && (WinDesc.ofWords l).ok l c.cols, [], false, tileBytes o.y.toNat c, id, [],
      .tldw o.y.toNat cfg l (s.bval o.b) s.iss.pc⟩
  | .wlat o =>
    let cfg := s.tcfgOf o.y.toNat
    let buf := s.src.core.latValid && !s.src.core.latBuf
    some ⟨o.g, 0, s.src.tregOk o.y, usesRegs [] [], true, (Cfg.ofWord cfg).latchable, [o.y.toNat],
      s.src.ck.latValid && s.src.ck.latBuf == buf, (0, 0), fun c => c.latch buf cfg, [], .wlat o.y.toNat cfg buf⟩
  | .mmac o => mul o false
  | .mmacz o => mul o true
  | .aread o =>
    let cfg := s.tcfgOf o.y.toNat
    let c := Cfg.ofWord cfg
    let row := (s.rd o.a).toNat % 256
    let ctl := s.bval o.b
    some ⟨o.g, 0, decide (o.x.toNat < 4) && s.src.tregOk o.y && s.src.regOk o.a && s.src.bOk o.b, usesRegs (o.a :: o.b.regs) [],
      true, c.valid && areadFmt c.fmt && decide (row + c.rows ≤ 256) && decide (ctl.toNat / 2 ^ 11 % 64 + c.cols ≤ 64), [],
      false, tileBytes o.y.toNat c, id, [], .aread o.y.toNat cfg o.x.toNat row ctl⟩
  | .azero o =>
    let a := (s.rd o.a).toNat
    some ⟨o.g, 0, decide (o.x.toNat < 4) && s.src.regOk o.a, usesRegs [o.a] [], true,
      decide (a % 256 + (a / 256 % 256 + 1) ≤ 256), [], false, (0, 0), id, [], .azero o.x.toNat (a % 256) (a / 256 % 256 + 1)⟩
  | .arow o =>
    let cfg := s.tcfgOf o.y.toNat
    let c := Cfg.ofWord cfg
    let a := (s.rd o.a).toNat
    let ctl := s.bval o.b
    some ⟨o.g, 0, decide (o.x.toNat < 4) && s.src.tregOk o.y && s.src.regOk o.a && s.src.bOk o.b, usesRegs (o.a :: o.b.regs) [],
      true, c.valid && arowFmt (ctl.getLsbD 8) c.fmt && decide (ctl.toNat % 256 < c.rows) &&
        decide (a % 256 + (a / 256 % 256 + 1) ≤ 256) && decide (ctl.toNat / 2 ^ 10 % 64 + c.cols ≤ 64), [o.y.toNat], false,
      (0, 0), id, [], .arow o.x.toNat o.y.toNat cfg (a % 256) (a / 256 % 256 + 1) ctl⟩
  | _ => none
where
  mul (o : FX) (zero : Bool) : Option XRow :=
    let cfg := s.tcfgOf o.y.toNat
    let w := s.src.core.latched
    let row := (s.rd o.a).toNat % 256
    let col := (s.bval o.b).toNat % 64
    some ⟨o.g, 0, decide (o.x.toNat < 4) && s.src.tregOk o.y && s.src.regOk o.a && s.src.bOk o.b, usesRegs (o.a :: o.b.regs) [],
      true, mmacOk s.src.core.latValid (Cfg.ofWord cfg) (Cfg.ofWord w) row col, [o.y.toNat], false, (0, 0), id, [],
      .mmac zero o.x.toNat o.y.toNat cfg w s.src.core.latBuf row col⟩

/-- The row of a Flint instruction (R299 to R303). -/
def flintRow (s : State) (i : Instr) : Option XRow :=
  let f := s.src.core.flint.fst
  match i with
  | .fsig o =>
    let cx := s.tcfgOf o.x.toNat
    let cy := s.tcfgOf o.y.toNat
    some ⟨o.g, 1, s.src.tregOk o.x && s.src.tregOk o.y, usesRegs [] [], true, fsigOk (Cfg.ofWord cx) (Cfg.ofWord cy),
      [o.x.toNat, o.y.toNat], false, (0, 0),
      setFst (fstWith f (some (Cfg.ofWord cx).rows) (some (Cfg.ofWord cy).rows) none none (some 0)), [],
      .fsig o.x.toNat o.y.toNat cx cy⟩
  | .fgrp o =>
    let cfg := s.tcfgOf o.y.toNat
    let g := grouping f (s.bval o.b) (Cfg.ofWord cfg)
    some ⟨o.g, 1, s.src.tregOk o.y && s.src.regOk o.a && s.src.bOk o.b, usesRegs o.b.regs [o.a], true,
      fgrpOk f (Cfg.ofWord cfg) g, if g.load then [o.y.toNat] else [], false, (tregBase o.y.toNat, 4 * g.m),
      setFst (fstWith f (if g.load then some g.m else none) none (some g.w) none (some 1)), [.sreg o.a],
      .fgrp o.a o.y.toNat cfg g.m g.w g.load⟩
  | .frep o =>
    let cx := s.tcfgOf o.x.toNat
    let cy := s.tcfgOf o.y.toNat
    some ⟨o.g, 1, s.src.tregOk o.x && s.src.tregOk o.y && s.src.bOk o.b, usesRegs o.b.regs [], true,
      frepOk f (Cfg.ofWord cx) (Cfg.ofWord cy), [o.y.toNat], false, tileBytes o.x.toNat (Cfg.ofWord cx), id, [],
      .frep o.x.toNat o.y.toNat cx cy (fstM f) ((s.bval o.b).getLsbD 0)⟩
  | .fscat o =>
    rows o fun src dst => .fscat o.x.toNat src dst (fstM f)
  | .fsum o =>
    rows o fun src dst => .fsum o.x.toNat src dst (fstM f) ((s.bval o.b).getLsbD 8)
  | _ => none
where
  rows (o : FXS) (op : Nat → Nat → XOp) : Option XRow :=
    let src := (s.rd o.a).toNat % 256
    let dst := (s.bval o.b).toNat % 256
    some ⟨o.g, 1, decide (o.x.toNat < 4) && s.src.regOk o.a && s.src.bOk o.b, usesRegs (o.a :: o.b.regs) [], true,
      flintRowsOk s.src.core.flint.fst src dst, [], false, (0, 0), id, [], op src dst⟩

/-- Whether an instruction reads FST at issue (R300 to R303). -/
def readsFst (s : State) (i : Instr) : Bool :=
  match i with
  | .fgrp o => !(grouping s.src.core.flint.fst (s.bval o.b) (Cfg.ofWord (s.tcfgOf o.y.toNat))).load
  | .frep _ => true
  | .fscat _ => true
  | .fsum _ => true
  | _ => false

/-- What a load of a tile register reads, as one access (R278, R282). -/
def tileSource (s : State) (i : Instr) : Acc :=
  match i with
  | .tld o =>
    let p := s.planes o
    runsAcc p.b1.toNat (tileRuns (Cfg.ofWord (s.tcfgOf o.y.toNat)) p.b1 p.p1 p.b2 p.p2)
  | .tldw o =>
    let a := (s.rd o.a).toNat
    runsAcc a ((WinDesc.ofWords (s.readCard a 32)).runs (Cfg.ofWord (s.tcfgOf o.y.toNat)) (s.bval o.b))
  | _ => ⟨0, []⟩

/-- A load of a tile register meets nothing that it waits for, and no poisoned register among its sources (R188, R266, R280). -/
def readable (s : State) (i : Instr) : Bool :=
  match i with
  | .tld _ => clear
  | .tldw _ => clear
  | _ => true
where
  clear : Bool := !s.readWaits (tileSource s i) && !s.accTokens (tileSource s i) && (s.accPoison (tileSource s i)).isNone

/-- Whether it reads vector or scalar registers of the own window, or its control region, which it does with its bundle (R274). -/
def readsRegs (s : State) (i : Instr) : Bool := s.accVs (tileSource s i)

/-- The registers that an operation reads are loaded, and not poisoned (R274, R280). -/
def loaded (s : State) (ts : List Nat) : Bool := !(s.src.mq.any fun x => ts.any x.loads)
def poisoned (s : State) (ts : List Nat) : Option Poison := s.src.poison.find? fun p => ts.contains p.t

/-- One operation more in the queue: its registers at issue as the row says, the units it will write saved (R138), nothing else
changed. -/
structure Queued (s t : State) (r : XRow) : Prop where
  queue : t.tile.mq = s.tile.mq.map (XOp.kill r.kills) ++ [r.op]
  core : t.tile.core = r.core { s.tile.core with
    tokPend := s.tile.core.tokPend.filter fun k => !r.kills.contains (.sreg k.reg)
    tokDone := s.tile.core.tokDone.filter fun q => !r.kills.contains (.sreg q) }
  pend : t.tile.pend = s.tile.pend.map (Pending.kill r.kills)
  loads : t.tile.loads = s.tile.loads.map fun l => { l with dst := l.dst.kill r.kills }
  win : t.tile.win = s.tile.win
  saved : (∃ l, t.tile.rb = s.tile.rb ++ l) ∧ ∀ u, u % 64 = 0 → u < 0x1A0000 → u < r.saves.1 + r.saves.2 → r.saves.1 < u + 64 →
    (t.tile.rb.any fun x => decide (x.unit = u)) = true
  rest : { t.tile.rest with rb := [] } = { s.tile.rest with rb := [] }
  dev : t.dev = s.dev
  others : t.others = s.others

/-- The operation has completed with its bundle: as it does when it leaves the queue, on sources as the bundle found them once the
stream vectors written before it had landed, its flags being those of the bundle (R48, R82, R274). -/
def Completed (s t : State) (r : XRow) : Prop :=
  ∃ u : State, Queued s { u with tile := { u.tile with mq := u.tile.mq ++ [r.op] } } r ∧
    t = u.withFlags fun v => r.op.run s.src.landOutputs v

/-- Element (m, k) that a `tldw` puts: zero past the kernel, the fill outside the map, else the element of the map as the tile `r`
sees it (R282). -/
def windowElem (s : State) (r : Tile) (pc : BitVec 20) (l : List Word) (c : Cfg) (first : Word) (m k : Nat) : Nat :=
  let d := WinDesc.ofWords l
  let es := fmtWidth c.fmt / 8
  match d.source es first m k with
  | none => 0
  | some none => d.fill % 2 ^ (8 * es)
  | some (some a) => natOfBytes ((List.range es).map fun i => s.supByte r pc (a + i))

/-- Element (r, k) of tile register n under a configuration. -/
def tileElem (t : Tile) (n : Nat) (c : Cfg) (r k : Nat) : Nat := c.elem (t.treg n) r k

/-- No register or buffer that an operation reads holds an uncorrectable word (R291). -/
def sound (t : Tile) (x : XOp) : Bool :=
  !(((x.reads t).any fun p => (t.win.badWord p.1 p.2).isSome) ||
    ((x.readsBuf.map fun b => ((t.wb b.1).badWord 0 b.2).isSome).getD false) || (x.readsFlint t).any t.flintBad.contains)

/-- Nothing keeps an X-pipe operation from issuing (R274). -/
structure XReady (s : State) (r : XRow) : Prop where
  feat : s.src.feat r.bit = true
  ready : Ready s r.g r.ok r.uses
  room : s.src.mq.length < 16
  quiet : s.tile.quiet = true

end Sys2Proof.Claims

/-- `tld`, `tldw`, `wlat`, `mmac`, `mmacz`, `aread`, `azero` and `arow`, `fsig`, `fgrp`, `frep`, `fscat` and `fsum` (R273,
R274, R277 to R289, R297 to R303) complete for every operand that passes their checks: an operation enters the queue with what
it captured, and from an empty queue it executes next; beside a memory-slot operation it completes with its bundle, as does a
load of a tile register from vector or scalar registers of the own window or, in supervisor mode, from its control region. A
register still being loaded makes it wait, a poisoned one raises access-fault, an operand outside its limits illegal-operand; a
`wlat` into the committed buffer needs a checkpoint first (R284), and an FST of bad parity, read at issue, is a data error (R294).
The model's choices in it: log entries 26, 41, 42 (which of several poisoned registers is reported), 47, 121 (the smallest element
size), 129 (the first `wlat`, and when one needs a checkpoint) and 130 (an invalid configuration). -/
def Obligations.MatrixQueues : Prop :=
  (∀ (i : Instr) (s : State) (r : XRow),
    (∃ o, i = .tld o) ∨ (∃ o, i = .tldw o) ∨ (∃ o, i = .wlat o) ∨ (∃ o, i = .mmac o) ∨ (∃ o, i = .mmacz o) ∨ (∃ o, i = .aread o) ∨
      (∃ o, i = .azero o) ∨ (∃ o, i = .arow o) ∨ (∃ o, i = .fsig o) ∨ (∃ o, i = .fgrp o) ∨ (∃ o, i = .frep o) ∨
        (∃ o, i = .fscat o) ∨
      (∃ o, i = .fsum o) →
    matrixRow s i = some r ∨ flintRow s i = some r → XReady s r → r.addr = true → r.valid = true → r.ckpt = false →
    (readsFst s i = true → s.src.flintBad.contains 0 = false) → readsRegs s i = false →
    readable s i = true → loaded s r.reads = true → poisoned s r.reads = none → (s.iss.both = true → s.src.mq = []) →
    ∃ t, exec i s = .next t ∧ (s.iss.both = false → Queued s t r) ∧ (s.iss.both = true → Completed s t r) ∧
      (s.iss.both = false → s.tile.mq = [] → ∃ u, exec .matrixOpComplete t = .next u ∧ u.tile.mq = [])) ∧
  (∀ (s : State) (o : FXY) (r : XRow), matrixRow s (.tld o) = some r → XReady s r → r.addr = true → r.valid = true →
    readsRegs s (.tld o) = true → readable s (.tld o) = true → s.src.mq = [] → s.memWf = true →
    let c := Cfg.ofWord (s.tcfgOf o.y.toNat)
    let p := s.planes o
    ∃ t, exec (.tld o) s = .next t ∧ t.tile.mq = s.tile.mq ∧
      (s.readHit s.src.landOutputs (tileSource s (.tld o)).bytes = .none →
        ((tileRuns c p.b1 p.p1 p.b2 p.p2).any fun x =>
          ((s.src.ownOff x.1).map fun a => overlapsTreg o.y.toNat a (a + x.2.2)).getD false) = false →
        ∀ x ∈ tileRuns c p.b1 p.p1 p.b2 p.p2, ∀ k, k < x.2.2 →
          t.tile.treg o.y.toNat (x.2.1 + k) = s.supByte s.src.landOutputs s.iss.pc (x.1 + k))) ∧
  (∀ (s : State) (o : FXY) (r : XRow), matrixRow s (.tldw o) = some r → XReady s r → r.addr = true → r.valid = true →
    readsRegs s (.tldw o) = true → readable s (.tldw o) = true → s.src.mq = [] → s.memWf = true →
    let c := Cfg.ofWord (s.tcfgOf o.y.toNat)
    ∃ t, exec (.tldw o) s = .next t ∧ t.tile.mq = s.tile.mq ∧
      (s.readHit s.src.landOutputs (tileSource s (.tldw o)).bytes = .none → ∀ m k, m < c.rows → k < c.cols →
        tileElem t.tile o.y.toNat c m k =
          windowElem s s.src.landOutputs s.iss.pc (s.readCard (s.rd o.a).toNat 32) c (s.bval o.b) m k)) ∧
  (∀ (i : Instr) (s : State) (r : XRow), flintRow s i = some r → XReady s r → readsFst s i = true → s.iss.both = false →
    s.src.flintBad.contains 0 = true → s.tile.recov.phase = .run → ∃ t, exec i s = .next t ∧ t.tile.recov.phase = .stop) ∧
  ∀ (i : Instr) (s : State) (r : XRow), matrixRow s i = some r ∨ flintRow s i = some r → XReady s r → r.addr = true →
    (readsFst s i = true → s.src.flintBad.contains 0 = false) → s.iss.both = false →
    (loaded s r.reads = false → exec i s = .next (s.setStatus .stall)) ∧
    (∀ p, loaded s r.reads = true → poisoned s r.reads = some p →
      exec i s = .next (s.trapAt .accessFault (BitVec.ofNat 32 p.pc.toNat) (2 ^ 8 + 2 ^ 7) 0 .trapExec)) ∧
    (loaded s r.reads = true → poisoned s r.reads = none → r.valid = false →
      exec i s = .next (s.trapAt .illegalOperand s.iss.raw 0 0 .trapExec)) ∧
    (loaded s r.reads = true → poisoned s r.reads = none → r.valid = true → r.ckpt = true → exec i s = .next (s.setStatus .ckpt))

/-- `tcfg` (R277) completes once its register is loaded: it sets the configuration, reserved bits apart, and clears the
register's poison. `tst` (R279): what goes into the own window waits in the queue; what goes elsewhere is one entry of the
commit queue that is kept for its bytes; into vector or scalar registers of the own window it completes with its bundle, every
byte of the window then holding what it stores there, other bytes as they were, and nothing joining the queue.
The model's choices in it: log entries 26 (the registers) and 47 (waiting stream vectors land first). -/
def Obligations.ConfigureAndStore : Prop :=
  (∀ (s : State) (o : FXA), s.src.feat 0 = true → Ready s o.g (s.src.tregOk o.y && s.src.regOk o.a) (usesRegs [o.a] []) →
    s.src.mq.length < 16 → (s.iss.both = true → s.src.mq = []) → loaded s [o.y.toNat] = true →
    (Cfg.ofWord (s.rd o.a &&& 0x01FFFFFF)).valid = true →
    ∃ t, exec (.tcfg o) s = .next t ∧ t.tile.core.tcfg.getD o.y.toNat 0 = s.rd o.a &&& 0x01FFFFFF ∧
      (∀ k, k ≠ o.y.toNat → t.tile.core.tcfg.getD k 0 = s.tile.core.tcfg.getD k 0) ∧
      t.tile.core = { s.tile.core with tcfg := t.tile.core.tcfg } ∧ (t.tile.poison.all fun p => decide (p.t ≠ o.y.toNat)) = true ∧
      t.tile.win = s.tile.win ∧ t.tile.pend = s.tile.pend ∧ t.tile.loads = s.tile.loads ∧ t.tile.mq = s.tile.mq ∧
      { t.tile.rest with poison := [] } = { s.tile.rest with poison := [] } ∧ t.dev = s.dev ∧ t.others = s.others) ∧
  ∀ (s : State) (o : FXY), s.src.feat 0 = true →
    Ready s o.g (s.src.tregOk o.y && s.src.pairOk o.a && s.src.bOk o.b) (usesRegs (o.a :: (o.a ||| 1) :: o.b.regs) []) →
    s.src.mq.length < 16 → s.iss.both = false → s.tile.quiet = true → s.src.portLoading = false → loaded s [o.y.toNat] = true →
    poisoned s [o.y.toNat] = none →
    let cfg := s.tcfgOf o.y.toNat
    let c := Cfg.ofWord cfg
    let p := s.planes o
    let runs := tileRuns c p.b1 p.p1 p.b2 p.p2
    let acc := runsAcc p.b1.toNat runs
    let own := runs.all fun r => (s.src.ownOff r.1).isSome
    planesOk s c p true = true → c.valid = true → s.src.ltile = s.tile.ltile →
    (s.accVs acc = false → own = false →
      ∃ t, exec (.tst o) s = .next t ∧
        t.tile.cq = s.tile.cq ++ [.tst s.tile.tstId [] (s.tile.jobSq, s.tile.core.bindings)] ∧ t.tile.tstId = s.tile.tstId + 1 ∧
        t.tile.mq = s.tile.mq ++ [.tst o.y.toNat cfg p.b1 p.p1 p.b2 p.p2 (some s.tile.tstId)] ∧ t.tile.core = s.tile.core ∧
        t.tile.win = s.tile.win ∧ t.dev = s.dev ∧ t.others = s.others) ∧
    (s.accVs acc = false → own = true →
      ∃ t, exec (.tst o) s = .next t ∧ t.tile.mq = s.tile.mq ++ [.tst o.y.toNat cfg p.b1 p.p1 p.b2 p.p2 none] ∧
        t.tile.cq = s.tile.cq ∧ t.tile.core = s.tile.core ∧ t.tile.win = s.tile.win ∧ t.dev = s.dev ∧ t.others = s.others) ∧
    (s.accVs acc = true → s.accTokens acc = false → s.src.mq = [] → s.storeWaits acc = false →
      (∀ r ∈ runs, s.src.ctlOff r.1 = none) → sound s.src.landOutputs (.tst o.y.toNat cfg p.b1 p.p1 p.b2 p.p2 none) = true →
      s.memWf = true →
      let base := (s.tstOwn runs).tile
      let stored (r : Nat × Nat × Nat) : List Host.Cell :=
        cellsOf ((s.src.ownOff r.1).getD 0) ((List.range r.2.2).map fun k => s.src.landOutputs.treg o.y.toNat (r.2.1 + k))
      ∃ t, exec (.tst o) s = .next t ∧ t.dev = s.dev ∧ t.others = s.others ∧ t.tile.mq = base.mq ∧
        t.tile.pend = base.pend ∧ t.tile.core.p = base.core.p ∧ t.tile.core.special = base.core.special ∧
        (∀ a, t.tile.winByte a = if 0x1E0400 ≤ a ∧ a < 0x1E0404 then 0
          else (lastCell ((runs.filter fun r => (s.src.ownOff r.1).isSome).flatMap stored) a none).getD (base.winByte a)) ∧
        (own = true → t.tile.cq.length = s.tile.cq.length) ∧
        (own = false → t.tile.cq.getLast? = some (.tst s.tile.tstId ((runs.filter fun r => (s.src.ownOff r.1).isNone).flatMap
          fun r => cellsOf r.1 ((List.range r.2.2).map fun k => s.src.landOutputs.treg o.y.toNat (r.2.1 + k)))
          (s.tile.jobSq, s.tile.core.bindings))))

namespace Sys2Proof.Claims

/-- A word of an accumulator. -/
def accWord (t : Tile) (n row col : Nat) : Nat := t.win.readNat (accOff n row col) 4

/-- An accumulator word as a signed number. -/
def accInt (t : Tile) (n row col : Nat) : Int := (BitVec.ofNat 32 (accWord t n row col)).toInt

/-- What `arow` puts for element j of its row into a word that holds `old` (R288). -/
def rowWord (t : Tile) (n : Nat) (c : Cfg) (ctl : Word) (old j : Nat) : Nat :=
  let src := ctl.toNat % 256
  let add := ctl.getLsbD 9
  if ctl.getLsbD 8 then
    let v := c.int (t.treg n) src j
    lowBits 32 (if add then (satI 32 ((BitVec.ofNat 32 old).toInt + v)).1 else v)
  else
    let bits := tileElem t n c src j
    match elemFmt c.fmt with
    | some (.fl f) =>
      let v := if f = .f32 then canonNan .f32 bits else (f.convert .f32 .rne false bits).bits
      (if add then (FFmt.f32.add .rne old v).bits else v) % 2 ^ 32
    | _ => old

/-- The members of bucket b among the first m rows (R300). -/
def bucket (t : Tile) (m b : Nat) : List Nat :=
  (List.range m).filter fun i => decide ((t.core.flint.map.getD i 0).toNat = b)

/-- The first members of the buckets of m rows, in row order: those whose key no earlier row has (R300). -/
def firstMembers (key : Nat → Nat) (m : Nat) : List Nat :=
  (List.range m).filter fun i => (List.range i).all fun j => decide (key j ≠ key i)

/-- CNT of bucket b. -/
def count (t : Tile) (b : Nat) : Nat := (t.core.flint.cnt.getD b 0).toNat

/-- What `frep` puts for element k of bucket b (R301). -/
def bucketElem (t : Tile) (y : Nat) (c : Cfg) (m : Nat) (mean : Bool) (b k : Nat) : Nat :=
  if mean then
    match elemFmt c.fmt with
    | some (.fl f) => (meanFloat f (count t b) ((bucket t m b).map fun i => tileElem t y c i k)).bits
    | some (.int i) => lowBits i.w (meanInt (count t b) ((bucket t m b).map fun j => c.int (t.treg y) j k))
    | none => 0
  else tileElem t y c (t.core.flint.lead.getD b 0).toNat k

/-- The sum of some accumulator words, the first as it is (R303). -/
def sumWords (isInt : Bool) : List Nat → Nat
  | [] => 0
  | w :: l => l.foldl (fun a x =>
      if isInt then lowBits 32 (satI 32 ((BitVec.ofNat 32 a).toInt + (BitVec.ofNat 32 x).toInt)).1
      else (FFmt.f32.add .rne a x).bits) w

end Sys2Proof.Claims

/-- The oldest queued operation completes on the state as it stands (R273, R297): `tld` (R278), `tldw` (R282), `tst` (R279), `wlat` (R283),
`mmac` and `mmacz` (R285), `aread` (R287), `arow` (R288), `azero` (R289), `fsig` (R299), `fgrp` (R300), `frep` (R301), `fscat`
(R302) and `fsum` (R303); other words of the window stay. `fgrp` numbers the buckets in the order of their first members: LEAD, CNT
and MAP of each, NB, the map tile and sA. One that reads a word or an element of bad parity shows a data error (R291, R294).
The model's choices in it: log entries 26, 41, 137 (`frep` and `fsum` with a count of 0) and 141 (what supervisor mode has written). -/
def Obligations.MatrixCompletes : Prop :=
  ∀ (s : State) (x : XOp) (rest : List XOp), s.tile.mq = x :: rest → s.memWf = true →
    ∃ t, exec .matrixOpComplete s = .next t ∧
      (sound s.tile x = false → s.tile.recov.phase = .run →
        t.tile.recov.phase = .stop ∧ t.tile.win = s.tile.win ∧ t.tile.core = s.tile.core ∧ t.tile.mq = rest) ∧
      (∀ zero acc n cfg wcfg buf row0 c0, x = .mmac zero acc n cfg wcfg buf row0 c0 → sound s.tile x = true → acc < 4 →
        let c := Cfg.ofWord cfg
        let w := Cfg.ofWord wcfg
        row0 + c.rows ≤ 256 → c0 + w.rows ≤ 64 →
        (∀ m j, m < c.rows → j < w.rows →
          let old := accWord s.tile acc (row0 + m) (c0 + j)
          accWord t.tile acc (row0 + m) (c0 + j) =
            if intFmt c.fmt && intFmt w.fmt then
              lowBits 32 (sumInt c.cols (w.int (s.tile.wb buf).readByte j) (c.int (s.tile.treg n) m)
                (if zero then 0 else (BitVec.ofNat 32 old).toInt)).1
            else (sumFloat c.cols (w.val (s.tile.wb buf).readByte j) (c.val (s.tile.treg n) m)
                (if zero then 0x80000000 else old)).bits % 2 ^ 32) ∧
        (∀ a, a < 0x1A0000 + 0x10000 * acc ∨ 0x1B0000 + 0x10000 * acc ≤ a → t.tile.win.readByte a = s.tile.win.readByte a) ∧
        (∀ row col, row < 256 → col < 64 → row < row0 ∨ row0 + c.rows ≤ row ∨ col < c0 ∨ c0 + w.rows ≤ col →
          accWord t.tile acc row col = accWord s.tile acc row col) ∧
        (∀ r, t.tile.core.reg r = s.tile.core.reg r) ∧ t.tile.mq = rest ∧ t.dev = s.dev) ∧
      (∀ acc row n, x = .azero acc row n → acc < 4 → row + n ≤ 256 →
        (∀ a, t.tile.win.readByte a = if accOff acc row 0 ≤ a ∧ a < accOff acc (row + n) 0 then 0 else s.tile.win.readByte a) ∧
        t.tile.core = s.tile.core ∧ t.tile.mq = rest ∧ t.dev = s.dev) ∧
      (∀ acc src dst m, x = .fscat acc src dst m → sound s.tile x = true → acc < 4 → src + m ≤ 256 → dst + m ≤ 256 →
        (∀ i col, i < m → col < 64 → accWord t.tile acc (dst + i) col =
          accWord s.tile acc (src + (s.tile.core.flint.map.getD i 0).toNat) col) ∧
        (∀ row col, row < 256 → col < 64 → row < dst ∨ dst + m ≤ row → accWord t.tile acc row col = accWord s.tile acc row col) ∧
        t.tile.core = s.tile.core ∧ t.tile.mq = rest ∧ t.dev = s.dev) ∧
      (∀ nx ny cx cy, x = .fsig nx ny cx cy → sound s.tile x = true →
        let c := Cfg.ofWord cx
        let h := Cfg.ofWord cy
        h.rows ≤ 32 →
        (∀ m j, m < c.rows → j < 32 → (t.tile.core.flint.sg.getD m 0).getLsbD j =
          (decide (j < h.rows) && projBit ((List.range c.cols).map fun k => c.val (s.tile.treg nx) m k)
            ((List.range c.cols).map fun k => h.val (s.tile.treg ny) j k))) ∧
        t.tile.win = s.tile.win ∧ (∀ r, t.tile.core.reg r = s.tile.core.reg r) ∧ t.tile.mq = rest ∧ t.dev = s.dev) ∧
      (∀ dst y cfg m w load, x = .fgrp dst y cfg m w load → sound s.tile x = true → m ≤ 256 →
        let key (i : Nat) : Nat := if load then (Cfg.ofWord cfg).elem (s.tile.treg y) 0 i % 256
          else (s.tile.core.flint.sg.getD i 0).toNat % 2 ^ w
        let firsts := firstMembers key m
        let f := t.tile.core.flint
        let f0 := s.tile.core.flint
        let c := Cfg.ofWord cfg
        (∀ b l, firsts[b]? = some l → (f.lead.getD b 0).toNat = l ∧
          (f.cnt.getD b 0).toNat = ((List.range m).filter fun i => decide (key i = key l)).length ∧
          ∀ i, i < m → key i = key l → (f.map.getD i 0).toNat = b ∧
            (c.fmt = 7 → c.valid = true → c.rows = 1 → m ≤ c.cols → y < 8 → tileElem t.tile y c 0 i = b)) ∧
        fstNb f.fst = firsts.length ∧ (∀ k, k < 9 ∨ (10 ≤ k ∧ k < 22) ∨ k = 31 → f.fst.getLsbD k = f0.fst.getLsbD k) ∧
        (∀ i, m ≤ i → f.map.getD i 0 = f0.map.getD i 0) ∧ f.sg = f0.sg ∧
        (∀ b, firsts.length ≤ b → f.lead.getD b 0 = f0.lead.getD b 0 ∧ f.cnt.getD b 0 = f0.cnt.getD b 0) ∧
        (c.fmt = 7 → c.valid = true → c.rows = 1 → m ≤ c.cols → y < 8 → ∀ a, a < tregBase y ∨ tregBase y + 4 * m ≤ a →
          t.tile.win.readByte a = s.tile.win.readByte a) ∧
        t.tile.core.reg dst = valueOf dst (BitVec.ofNat 32 firsts.length) ∧
        (∀ r, r ≠ dst → t.tile.core.reg r = s.tile.core.reg r) ∧ t.tile.mq = rest ∧ t.dev = s.dev) ∧
      (∀ n cfg b1 p1 b2 p2 pc, x = .tld n cfg b1 p1 b2 p2 pc → n < 8 →
        let c := Cfg.ofWord cfg
        let runs := tileRuns c b1 p1 b2 p2
        c.valid = true → s.readHit s.tile (runsAcc 0 runs).bytes = .none →
        (runs.any fun r => ((s.tile.ownOff r.1).map fun o => overlapsTreg n o (o + r.2.2)).getD false) = false →
        (∀ r ∈ runs, ∀ k, k < r.2.2 → t.tile.treg n (r.2.1 + k) = s.supByte s.tile pc (r.1 + k)) ∧
        (∀ a, a < tregBase n ∨ tregBase n + c.size ≤ a → t.tile.win.readByte a = s.tile.win.readByte a) ∧
        (t.tile.poison.all fun p => decide (p.t ≠ n)) = true ∧ t.tile.core = s.tile.core ∧ t.tile.mq = rest ∧ t.dev = s.dev) ∧
      (∀ n cfg l first pc, x = .tldw n cfg l first pc → n < 8 →
        let c := Cfg.ofWord cfg
        c.valid = true → windowFmt c.fmt = true →
        s.readHit s.tile (runsAcc 0 ((WinDesc.ofWords l).runs c first)).bytes = .none →
        (∀ m k, m < c.rows → k < c.cols → tileElem t.tile n c m k = windowElem s s.tile pc l c first m k) ∧
        (∀ a, a < tregBase n ∨ tregBase n + c.size ≤ a → t.tile.win.readByte a = s.tile.win.readByte a) ∧
        t.tile.core = s.tile.core ∧ t.tile.mq = rest ∧ t.dev = s.dev) ∧
      (∀ n cfg b1 p1 b2 p2 id, x = .tst n cfg b1 p1 b2 p2 (some id) → sound s.tile x = true →
        let runs := tileRuns (Cfg.ofWord cfg) b1 p1 b2 p2
        (∀ r ∈ runs, s.tile.ownOff r.1 = none) →
        t.tile.cq = s.tile.cq.map (fun h => match h with
          | .tst i old before => .tst i (if i = id then
              runs.flatMap fun r => cellsOf r.1 ((List.range r.2.2).map fun k => s.tile.treg n (r.2.1 + k)) else old) before
          | h => h) ∧ t.tile.win = s.tile.win ∧ t.tile.core = s.tile.core ∧ t.tile.mq = rest ∧ t.dev = s.dev) ∧
      (∀ n cfg buf, x = .wlat n cfg buf → sound s.tile x = true →
        (∀ k, k < (Cfg.ofWord cfg).size → (∀ u ∈ s.tile.win.undef, u.has (tregBase n + k) = false) →
          (t.tile.wb buf).readByte k = s.tile.treg n k) ∧
        t.tile.wb (!buf) = s.tile.wb (!buf) ∧ t.tile.win = s.tile.win ∧ t.tile.core = s.tile.core ∧ t.tile.mq = rest ∧
        t.dev = s.dev) ∧
      (∀ n cfg acc row0 ctl, x = .aread n cfg acc row0 ctl → sound s.tile x = true → n < 8 →
        let c := Cfg.ofWord cfg
        c.valid = true → areadFmt c.fmt = true →
        (∀ m j, m < c.rows → j < c.cols → tileElem t.tile n c m j =
          (areadWord c.fmt (ctl.getLsbD 10) (ctl.getLsbD 9) (ctl.getLsbD 8) (sextN 8 ctl.toNat)
            (accWord s.tile acc (row0 + m) (ctl.toNat / 2 ^ 11 % 64 + j))).bits % 2 ^ fmtWidth c.fmt) ∧
        (∀ a, a < tregBase n ∨ tregBase n + c.size ≤ a → t.tile.win.readByte a = s.tile.win.readByte a) ∧
        (∀ r, t.tile.core.reg r = s.tile.core.reg r) ∧ t.tile.mq = rest ∧ t.dev = s.dev) ∧
      (∀ acc n cfg row0 cnt ctl, x = .arow acc n cfg row0 cnt ctl → sound s.tile x = true → acc < 4 → row0 + cnt ≤ 256 →
        let c := Cfg.ofWord cfg
        let c0 := ctl.toNat / 2 ^ 10 % 64
        c0 + c.cols ≤ 64 →
        (∀ q j, q < cnt → j < c.cols → accWord t.tile acc (row0 + q) (c0 + j) =
          rowWord s.tile n c ctl (accWord s.tile acc (row0 + q) (c0 + j)) j) ∧
        (∀ row col, row < 256 → col < 64 → row < row0 ∨ row0 + cnt ≤ row ∨ col < c0 ∨ c0 + c.cols ≤ col →
          accWord t.tile acc row col = accWord s.tile acc row col) ∧
        (∀ r, t.tile.core.reg r = s.tile.core.reg r) ∧ t.tile.mq = rest ∧ t.dev = s.dev) ∧
      (∀ nx ny cx cy m mean, x = .frep nx ny cx cy m mean → sound s.tile x = true → nx < 8 →
        let d := Cfg.ofWord cx
        let c := Cfg.ofWord cy
        d.valid = true → d.fmt = c.fmt → d.cols = c.cols → flintFmt c.fmt = true →
        (∀ b k, b < min (fstNb s.tile.core.flint.fst) d.rows → k < c.cols → (mean = true → count s.tile b ≠ 0) →
          tileElem t.tile nx d b k = bucketElem s.tile ny c m mean b k % 2 ^ fmtWidth c.fmt) ∧
        (∀ a, a < tregBase nx ∨ tregBase nx + d.size ≤ a → t.tile.win.readByte a = s.tile.win.readByte a) ∧
        t.tile.core.flint = s.tile.core.flint ∧ (∀ r, t.tile.core.reg r = s.tile.core.reg r) ∧ t.tile.mq = rest ∧ t.dev = s.dev) ∧
      (∀ acc src dst m isInt, x = .fsum acc src dst m isInt → sound s.tile x = true → acc < 4 → src + m ≤ 256 → dst + m ≤ 256 →
        (∀ b col, b < fstNb s.tile.core.flint.fst → dst + b < 256 → col < 64 → bucket s.tile m b ≠ [] →
          accWord t.tile acc (dst + b) col =
            sumWords isInt (((bucket s.tile m b).take (max 1 (count s.tile b))).map fun i => accWord s.tile acc (src + i) col) % 2 ^ 32) ∧
        t.tile.core.flint = s.tile.core.flint ∧ (∀ r, t.tile.core.reg r = s.tile.core.reg r) ∧ t.tile.mq = rest ∧ t.dev = s.dev)

/-! ### Hydin, Shale and system instructions -/

namespace Sys2Proof.Claims

/-- A checkpointing operation with a result of its own (R137, R140): outside a rerun the value is delivered at once and logged,
on top of what the operation did to the machine. -/
def Answers (i : Instr) (s base : State) (d : Reg) (v : Word) : Prop :=
  ∃ t, exec i s = .next t ∧ t.tile.core.reg d = valueOf d v ∧ t.tile.ckDue = true ∧
    t.tile.recov.log = base.tile.recov.log ++ [⟨base.iss.word, false, v⟩] ∧ t.iss.late = base.iss.late ∧
    Machine.Frame base t [d] [] [] [] 0

/-- A tree instruction of supervisor mode is ready, outside a rerun. -/
def TreeReady (s : State) (g : Guard) (ok : Bool) (u : Uses) : Prop :=
  ReadyCk s g (s.src.feat 2 && s.src.core.sup && ok) u ∧ s.src.logged s.iss.word false = none ∧
    s.tile.logged s.iss.word false = none

/-- The descriptor at a passes its address checks and is readable (R323). -/
def descOk (s : State) (a : Nat) : Prop :=
  syncOk s a 64 false false = true ∧ s.eccOf ((List.range 64).map (a + ·)) = .none

/-- A tree as it stands after the operation on the tables. -/
def madeTree (s : State) (o : FS) : Word × State :=
  s.makeTree ((s.bval o.b).toNat % 64) (s.seen s.src (s.rd o.a).toNat 64) s.myByte fun a n => s.myRange a n false
def editedTree (s : State) (o : FS) : Word × State :=
  s.editTree s.src.ctx (s.rd o.a) (s.seen s.src (s.bval o.b).toNat 64) s.myByte fun a n => s.myRange a n false

/-- The image address of `hfrz` and `hthaw` passes its checks (R325). -/
def imageOk (s : State) (o : FS) (write : Bool) : Prop :=
  s.imageCause (s.bval o.b).toNat (((s.liveTree s.src.ctx (s.rd o.a)).map Tree.bound).getD 64) write = none

/-- The task's object and a layer of it that an instruction names (R369). -/
def names (s : State) (r : Reg) (obj : Obj) (l : Nat) : Prop :=
  s.obj? s.src.task.sctx = some obj ∧ obj.ctx = s.src.ctx ∧ (s.rd r).toNat = l ∧ l < s.objLayers obj

/-- The pin count of a layer in the tile's pin set. -/
def pinDepth (c : Core) (obj l : Nat) : Nat :=
  ((c.pins.find? fun p => decide (p.obj = obj) && decide (p.layer = l)).map (·.depth)).getD 0

end Sys2Proof.Claims

/-- The Hydin instructions (R323 to R328). `hmk` answers a handle of a free table entry and the tree is in the table, or a code
and nothing changes; `hedit` and `hfree` answer a code; a handle that names no live tree of the context answers 5. `hfrz` and
`hthaw` start their work and await its result, or answer a code. `hstat` reads one word of the tree.
The model's choices in it: log entries 57, 58, 59 and 60. -/
def Obligations.TreeInstructions : Prop :=
  (∀ (s : State) (o : FS), TreeReady s o.g (fsOk s o) (usesRegs (o.a :: o.b.regs) [o.d]) → descOk s (s.rd o.a).toNat →
    let r := madeTree s o
    Answers (.hmk o) s r.2 o.d r.1 ∧ (r.2 = s ∧ r.1.toNat < 4 ∨
      ∃ idx, s.tree? idx = none ∧ idx < 4096 ∧ r.1 = s.handle idx ∧ (r.2.tree? idx).isSome = true)) ∧
  (∀ (s : State) (o : FS), TreeReady s o.g (fsOk s o) (usesRegs (o.a :: o.b.regs) [o.d]) → descOk s (s.bval o.b).toNat →
    let r := editedTree s o
    Answers (.hedit o) s r.2 o.d r.1 ∧ (s.liveTree s.src.ctx (s.rd o.a) = none → r.1 = 5 ∧ r.2 = s)) ∧
  (∀ (s : State) (o : FDA), TreeReady s o.g (s.src.regOk o.d && s.src.regOk o.a) (usesRegs [o.a] [o.d]) →
    let r := s.freeHandle s.src.ctx (s.rd o.a)
    Answers (.hfree o) s r.2 o.d r.1 ∧ (s.liveTree s.src.ctx (s.rd o.a) = none → r.1 = 5 ∧ r.2 = s) ∧
      (∀ tr, s.liveTree s.src.ctx (s.rd o.a) = some tr → s.treeFrozen tr = false →
        r.1 = 0 ∧ r.2.tree? tr.idx = none)) ∧
  (∀ (s : State) (o : FS), TreeReady s o.g (fsOk s o) (usesRegs (o.a :: o.b.regs) [o.d]) →
    let live := s.liveTree s.src.ctx (s.rd o.a)
    (imageOk s o true → (live = none → Answers (.hfrz o) s s o.d 5) ∧
      (∀ tr, live = some tr → s.treeFrozen tr = true → Answers (.hfrz o) s s o.d 8) ∧
      (∀ tr, live = some tr → s.treeFrozen tr = false →
        let u := s.setTree { tr with freezing := some (s.bval o.b).toNat }
        ∃ t, exec (.hfrz o) s = .next t ∧
          Sent u t (written [o.d] []) [⟨if o.d = 0 then .none else .sreg o.d, .tree tr.idx, s.iss.word⟩])) ∧
    (imageOk s o false → (live = none → Answers (.hthaw o) s s o.d 5) ∧
      (∀ tr, live = some tr → tr.frozen = false → Answers (.hthaw o) s s o.d 9) ∧
      (∀ tr, live = some tr → tr.frozen = true → (s.imageAt tr (s.bval o.b).toNat).isNone = true →
        Answers (.hthaw o) s s o.d 0xA) ∧
      (∀ tr, live = some tr → tr.frozen = true → (s.imageAt tr (s.bval o.b).toNat).isNone = false →
        let u := s.setTree { tr with thawing := some (tr.thawing.getD (s.bval o.b).toNat) }
        ∃ t, exec (.hthaw o) s = .next t ∧
          Sent u t (written [o.d] []) [⟨if o.d = 0 then .none else .sreg o.d, .tree tr.idx, s.iss.word⟩]))) ∧
  ∀ (s : State) (o : FS), Ready s o.g (s.src.feat 2 && fsOk s o) (usesRegs (o.a :: o.b.regs) [o.d]) →
    let sel := (s.bval o.b).toNat
    (sel < 5 → ∃ t, exec (.hstat o) s = .next t ∧ Frame s t [o.d] [] [] [] 0 ∧
      (s.liveTree s.src.ctx (s.rd o.a) = none → t.tile.core.reg o.d = 0) ∧
      (∀ tr, s.liveTree s.src.ctx (s.rd o.a) = some tr → t.tile.core.reg o.d = valueOf o.d (
        if sel = 0 then tr.statusWord else if sel = 1 then BitVec.ofNat 32 tr.lowest
        else if sel = 2 then BitVec.ofNat 32 tr.misses else if sel = 3 then BitVec.ofNat 32 tr.bound
        else BitVec.ofNat 32 (tr.descs.getLastD ⟨0, 0, [], []⟩).members.length))) ∧
    (5 ≤ sel → exec (.hstat o) s = .next (s.trapAt .illegalOperand s.iss.raw 0 0 .trapExec))

/-- The Shale instructions (R369 to R373). `lwait` of a layer the tile holds pins it once more, of a RESIDENT one pins it at
its home and asks for the layers after it; either answers the layer's staging address; a FAILED one, or one whose load has
failed since the wait began, raises swap-fault; else it asks for the layer and waits, up to cr.lwlim. `lrel` takes one pin
away, and the last one's unpin follows at the checkpoint. `lhint` asks for layers. A name that is not of the task's object
raises illegal-operand.
The model's choices in it: log entries 53 and 122. -/
def Obligations.LayerInstructions : Prop :=
  (∀ (s : State) (o : FDA) (obj : Obj) (l : Nat),
    ReadyCk s o.g (s.src.feat 4 && (s.src.regOk o.d && s.src.regOk o.a)) (usesRegs [o.a] [o.d]) → names s o.a obj l →
    s.src.logged s.iss.word false = none → s.tile.logged s.iss.word false = none →
    let depth := pinDepth s.src.core obj.num l
    let base := BitVec.ofNat 32 (s.layerStage obj l)
    depth < 255 → (depth = 0 → s.src.core.pins.length < 16) →
    (0 < depth → Answers (.lwait o) s (s.pinHere obj l) o.d base) ∧
    (depth = 0 → s.src.waitFailed obj.num l = false → s.layerState obj l = 2 →
      Answers (.lwait o) s (((s.pinFresh obj l).pinHere obj l).lookahead obj l) o.d base) ∧
    (depth = 0 → s.src.waitFailed obj.num l = true ∨ s.layerState obj l = 3 →
      exec (.lwait o) s = .next (s.trapAt .swapFault (BitVec.ofNat 32 l) 0 0 .trapExec)) ∧
    (depth = 0 → s.src.waitFailed obj.num l = false → s.layerState obj l < 2 →
      s.src.core.lwlim.toNat * 1024 < s.src.lwCount → s.src.core.lwlim ≠ 0 →
      exec (.lwait o) s = .next (s.trapAt .swapTimeout (BitVec.ofNat 32 l) 0 0 .trapExec)) ∧
    (depth = 0 → s.src.waitFailed obj.num l = false → s.layerState obj l < 2 →
      s.src.core.lwlim = 0 ∨ s.src.lwCount ≤ s.src.core.lwlim.toNat * 1024 →
      exec (.lwait o) s = .next (((s.requestLayer obj l true).waitLayer obj.num l).setStatus .stall))) ∧
  (∀ (s : State) (o : FA) (obj : Obj) (l : Nat),
    Ready s o.g (s.src.feat 4 && s.src.regOk o.a) (usesRegs [o.a] []) → names s o.a obj l →
    (∀ p, s.tile.core.pin? obj.num l = some p → ∃ t, exec (.lrel o) s = .next t ∧
      t.tile.core = s.tile.core.unpinOnce obj.num l ∧
      t.tile.unpins = s.tile.unpins ++ (if p.depth ≤ 1 then [(obj.num, l)] else []) ∧ t.tile.win = s.tile.win ∧
      { t.tile.rest with unpins := [] } = { s.tile.rest with unpins := [] } ∧ t.dev = s.dev ∧ t.others = s.others) ∧
    (s.tile.core.pin? obj.num l = none → exec (.lrel o) s = .next (s.trapAt .illegalOperand s.iss.raw 0 0 .trapExec))) ∧
  (∀ (s : State) (o : FAB) (obj : Obj) (l : Nat),
    Ready s o.g (s.src.feat 4 && (s.src.regOk o.a && s.src.bOk o.b)) (usesRegs (o.a :: o.b.regs) []) → names s o.a obj l →
    let n := (s.bval o.b).toNat
    (1 ≤ n → n ≤ 1024 → exec (.lhint o) s = .next
      ((((List.range (s.objLayers obj)).filter fun k => decide (l ≤ k) && decide (k < l + n)).foldl
        (fun x k => x.hintLayer obj k) s).markDue (s.readsToken (usesRegs (o.a :: o.b.regs) [])))) ∧
    (n = 0 ∨ 1024 < n → exec (.lhint o) s = .next (s.trapAt .illegalOperand s.iss.raw 0 0 .trapExec))) ∧
  ∀ (s : State) (i : Instr) (g : Guard) (ok : Bool) (u : Uses) (r : Reg), ReadyCk s g (s.src.feat 4 && ok) u →
    ((∃ o, i = .lwait o ∧ g = o.g ∧ ok = (s.src.regOk o.d && s.src.regOk o.a) ∧ u = usesRegs [o.a] [o.d] ∧ r = o.a) ∨
      (∃ o, i = .lrel o ∧ g = o.g ∧ ok = s.src.regOk o.a ∧ u = usesRegs [o.a] [] ∧ r = o.a) ∨
      (∃ o, i = .lhint o ∧ g = o.g ∧ ok = (s.src.regOk o.a && s.src.bOk o.b) ∧ u = usesRegs (o.a :: o.b.regs) [] ∧ r = o.a)) →
    (∀ obj l, ¬ names s r obj l) → exec i s = .next (s.trapAt .illegalOperand s.iss.raw 0 0 .trapExec)

namespace Sys2Proof.Claims

/-- A byte of the own window, or of the near store once the bundle has issued, at an address of an image. -/
def imageByte (s t : State) (a : Nat) : Byte :=
  match s.tile.ownOff a with
  | some off => t.tile.winByte off
  | none => t.flushLate.dev.near.readByte a

/-- A word at an offset of an image, from its bytes. -/
def imageWord (byte : Nat → Byte) (o : Nat) : Word := BitVec.ofNat 32 (natOfBytes ((List.range 4).map fun i => byte (o + i)))

/-- The core part that `save` writes, in words by offset (R389). -/
structure SavedCore (s : State) (w : Nat → Word) : Prop where
  regs : ∀ r : Reg, w (4 * r.toNat) = if s.src.regPending r then 0xFFFFFFFF else s.src.core.reg r
  preds : w 0x100 = (s.src.core.p ||| 1).setWidth 32
  flags : w 0x104 = s.src.core.flags
  fpctl : w 0x108 = s.src.core.fpctl
  lwlim : w 0x10C = s.src.core.lwlim
  mask : ∀ n, n < 64 → (w (0x110 + 4 * (n / 32))).getLsbD (n % 32) = s.src.regPending (BitVec.ofNat 6 n)
  lattice : ∀ k, k < 256 → w (0x400 + 4 * k) = s.src.core.latEl k
  configs : ∀ k, k < 8 → w (0x800 + 4 * k) = s.src.core.tcfg.getD k 0
  weights : w 0x820 = s.src.core.wbCfg0 ∧ w 0x824 = s.src.core.wbCfg1
  latched : (w 0x828).getLsbD 0 = s.src.core.latBuf ∧ (w 0x828).getLsbD 1 = s.src.core.latValid
  flint : w 0x1000 = s.src.core.flint.fst ∧ ∀ k, k < 256 → w (0x1400 + 4 * k) = s.src.core.flint.sg.getD k 0
  groups : ∀ k, k < 256 → (w (0x1800 + k / 4 * 4)).extractLsb' (8 * (k % 4)) 8 = s.src.core.flint.map.getD k 0 ∧
    (w (0x1900 + k / 4 * 4)).extractLsb' (8 * (k % 4)) 8 = s.src.core.flint.lead.getD k 0 ∧
    (w (0x1A00 + k / 2 * 4)).extractLsb' (16 * (k % 2)) 9 = s.src.core.flint.cnt.getD k 0

/-- The core part that `rest` has brought back (R389): but for s0, for bit 0 of cr.preds and for pending registers. -/
structure RestoredCore (s t : State) (w : Nat → Word) : Prop where
  regs : ∀ r, r ≠ 0 → s.src.regPending r = false → t.tile.core.reg r = w (4 * r.toNat)
  kept : ∀ r, s.src.regPending r = true → t.tile.core.reg r = s.tile.core.reg r
  preds : t.tile.core.p = (w 0x100).setWidth 8 ||| 1
  flags : t.tile.core.flags = w 0x104 &&& 0x7F
  fpctl : t.tile.core.fpctl = w 0x108 &&& 0xF
  lwlim : t.tile.core.lwlim = w 0x10C
  lattice : ∀ k, k < 256 → t.tile.core.latEl k = w (0x400 + 4 * k)
  configs : ∀ k, k < 8 → t.tile.core.tcfg.getD k 0 = w (0x800 + 4 * k) &&& 0x01FFFFFF
  weights : t.tile.core.wbCfg0 = w 0x820 &&& 0x01FFFFFF ∧ t.tile.core.wbCfg1 = w 0x824 &&& 0x01FFFFFF
  latched : t.tile.core.latBuf = (w 0x828).getLsbD 0 ∧ t.tile.core.latValid = (w 0x828).getLsbD 1
  fst : t.tile.core.flint.fst = w 0x1000 &&& 0xFFFFFDFF
  sg : ∀ k, k < 256 → t.tile.core.flint.sg.getD k 0 = w (0x1400 + 4 * k)
  map : ∀ k, k < 256 → t.tile.core.flint.map.getD k 0 = (w (0x1800 + k / 4 * 4)).extractLsb' (8 * (k % 4)) 8
  lead : ∀ k, k < 256 → t.tile.core.flint.lead.getD k 0 = (w (0x1900 + k / 4 * 4)).extractLsb' (8 * (k % 4)) 8
  cnt : ∀ k, k < 256 → t.tile.core.flint.cnt.getD k 0 = (w (0x1A00 + k / 2 * 4)).extractLsb' (16 * (k % 2)) 9
  ports : t.tile.core.ports = s.tile.core.ports
  pins : t.tile.core.pins = s.tile.core.pins
  saved : t.tile.core.epc = s.tile.core.epc ∧ t.tile.core.ecause = s.tile.core.ecause ∧ t.tile.core.einfo = s.tile.core.einfo
  mode : t.tile.core.pc = s.tile.core.pc ∧ t.tile.core.sup = s.tile.core.sup

end Sys2Proof.Claims

/-- `save` and `rest` (R389): the parts that the mask names go to the own scratchpad or the near store, where no other byte
changes, and come back from there. `sev` (R390) puts its event, with the saved pc and cause, in the commit queue. `domw` (R391)
replaces an entry of the grant table, or answers why not.
The model's choices in it: log entries 47 (waiting stream vectors land before an event enters the queue), 56, 80 and 124 (the near
store and the grant table change once the bundle has issued). -/
def Obligations.SystemInstructions : Prop :=
  (∀ (s : State) (o : FAB), s.src.core.sup = true →
    ReadyCk s o.g (s.src.regOk o.a && s.src.bOk o.b) (usesRegs (o.a :: o.b.regs) []) → s.src.flagsBusy = false →
    s.src.ltile = s.tile.ltile → s.memWf = true →
    let a := (s.rd o.a).toNat
    let mask := (s.bval o.b).toNat % 16
    let ps := partsOf mask
    ps ≠ [] → a % 64 = 0 → (ps.all fun p => s.partOk a true p) = true → (ps.any s.src.partBad) = false →
    ∃ t, exec (.save o) s = .next t ∧
      (∀ p k b, p ∈ ps → (s.src.partBytes s.free p)[k]? = some b → imageByte s t (a + p.off + k) = b) ∧
      (mask.testBit 0 = true → SavedCore s (imageWord fun o => imageByte s t (a + o))) ∧
      (mask.testBit 1 = true → ∀ k, k < 0x4000 → imageByte s t (a + 0x2000 + k) = s.src.wb0.readByte k ∧
        imageByte s t (a + 0x6000 + k) = s.src.wb1.readByte k) ∧
      (mask.testBit 2 = true → ∀ k, k < 0x20000 → imageByte s t (a + 0xA000 + k) = s.src.win.readByte (0x180000 + k)) ∧
      (mask.testBit 3 = true → ∀ k, k < 0x40000 → imageByte s t (a + 0x2A000 + k) = s.src.win.readByte (0x1A0000 + k)) ∧
      t.tile.core = s.tile.core ∧ t.dev = s.dev ∧ t.others = s.others ∧
      (∀ x, (∀ p ∈ ps, ∀ k, k < p.size → s.tile.ownOff (a + p.off + k) ≠ some x) → t.tile.winByte x = s.tile.winByte x) ∧
      (∀ x, (∀ p ∈ ps, x < a + p.off ∨ a + p.off + p.size ≤ x) →
        t.flushLate.dev.near.readByte x = s.flushLate.dev.near.readByte x)) ∧
  (∀ (s : State) (o : FAB), s.src.core.sup = true →
    ReadyCk s o.g (s.src.regOk o.a && s.src.bOk o.b) (usesRegs (o.a :: o.b.regs) []) → s.memWf = true →
    let a := (s.rd o.a).toNat
    let mask := (s.bval o.b).toNat % 16
    let ps := partsOf mask
    ps ≠ [] → a % 64 = 0 → (ps.all fun p => s.partOk a false p) = true →
    s.eccOf (ps.flatMap fun p => (List.range p.size).map fun k => a + p.off + k) = .none →
    ∃ t, exec (.rest o) s = .next t ∧
      (mask.testBit 2 = true → ∀ k, k < 0x20000 → t.tile.win.readByte (0x180000 + k) = s.seenByte s.src (a + 0xA000 + k)) ∧
      (mask.testBit 3 = true → ∀ k, k < 0x40000 → t.tile.win.readByte (0x1A0000 + k) = s.seenByte s.src (a + 0x2A000 + k)) ∧
      (mask.testBit 0 = true → RestoredCore s t (imageWord fun o => s.seenByte s.src (a + o))) ∧
      (mask.testBit 1 = true → ∀ k, k < 0x4000 → t.tile.wb0.readByte k = s.seenByte s.src (a + 0x2000 + k) ∧
        t.tile.wb1.readByte k = s.seenByte s.src (a + 0x6000 + k)) ∧
      (mask.testBit 1 = false → t.tile.wb0 = s.tile.wb0 ∧ t.tile.wb1 = s.tile.wb1) ∧
      (mask.testBit 0 = false → t.tile.core = s.tile.core ∧ t.tile.pend = s.tile.pend ∧ t.tile.loads = s.tile.loads) ∧
      (∀ x, x < 0x180000 ∨ 0x1E0000 ≤ x → t.tile.win.readByte x = s.tile.win.readByte x) ∧ t.dev = s.dev ∧
      t.others = s.others) ∧
  (∀ (s : State) (o : FAB), s.src.core.sup = true →
    Ready s o.g (s.src.pairOk o.a && s.src.bOk o.b) (usesRegs (o.a :: (o.a ||| 1) :: o.b.regs) []) →
    let code := (s.bval o.b).toNat % 256
    (0x80 ≤ code → s.tile.quiet = true → ∃ t, exec (.sev o) s = .next t ∧ Entered s t (.sev code ((s.bval o.b).getLsbD 8)
      [s.rd o.a, s.rd (o.a ||| 1), BitVec.ofNat 32 s.src.core.epc.toNat, s.src.core.ecause])) ∧
    (code < 0x80 → exec (.sev o) s = .next (s.trapAt .illegalOperand s.iss.raw 0 0 .trapExec))) ∧
  ∀ (s : State) (o : FS) (c : Ctx), s.src.core.sup = true →
    ReadyCk s o.g (s.src.regOk o.d && s.src.pairOk o.a && s.src.bOk o.b) (usesRegs (o.a :: (o.a ||| 1) :: o.b.regs) [o.d]) →
    s.src.logged s.iss.word false = none → s.tile.logged s.iss.word false = none → s.ctx? s.src.ctx = some c →
    let e := (s.bval o.b).toNat % 16
    let rights := (s.bval o.b).toNat / 16 % 4
    let base := (s.rd o.a).toNat
    let len := (s.rd (o.a ||| 1)).toNat
    (rights = 2 → exec (.domw o) s = .next (s.trapAt .illegalOperand s.iss.raw 0 0 .trapExec)) ∧
    (rights ≠ 2 → s.domwCode c base len rights = 0 →
      let u := { s with iss := { s.iss with late := s.iss.late ++ [Late.grant s.src.ctx e base len rights] } }
      Answers (.domw o) s u o.d 0 ∧ u.flushLate = s.flushLate.modCtx s.src.ctx fun c =>
        { c with grants := c.grants.setIfInBounds e ⟨base, len, rights⟩ }) ∧
    (rights ≠ 2 → s.domwCode c base len rights ≠ 0 →
      Answers (.domw o) s s o.d (BitVec.ofNat 32 (s.domwCode c base len rights)))

/-! ### Checkpoints and recovery -/

namespace Sys2Proof.Claims

/-- The tile runs alone and in no data error, nothing it awaits comes from another engine; d is the state once its operations
have landed. -/
structure Settles (s d : State) : Prop where
  landed : d = s.drain
  running : s.tile.stat = .running
  engine : s.tile.waitsEngine = false
  solo : s.ribbonOf s.tile.phys = none
  noError : s.tile.recov.phase ≠ .stop
  noErrorAfter : d.tile.recov.phase ≠ .stop
  same : d.tile.phys = s.tile.phys
  sameRibbons : d.ribbonOf s.tile.phys = none
  wf : d.memWf = true

/-- From d, whose operations have landed, to t the checkpoint is taken (R137): the image is the registers, the accumulators, the
weight buffers and the poison, the rollback store and the queue are empty, and so is the log, but for that of an interval which a
handler that ends has kept for its rerun (R140; the model's choice, log entry 125); registers and memory stay. -/
structure Committed (d t : State) : Prop where
  image : t.tile.ck = d.tile.core
  shadow : ∀ a, 0x1A0000 ≤ a → a < 0x1E0000 → t.tile.shadow.readByte a = d.tile.win.readByte a
  rollback : t.tile.rb = []
  queue : t.tile.cq = []
  weights : t.tile.ckWb0 = d.tile.wb0 ∧ t.tile.ckWb1 = d.tile.wb1
  poison : t.tile.ckPoison = d.tile.poison
  log : t.tile.recov.log = if d.tile.core.inHandler then [] else d.tile.recov.kept
  fresh : t.tile.ckFresh = true
  due : t.tile.ckDue = false
  core : t.tile.core = d.tile.core
  win : t.tile.win = d.tile.win
  others : t.others = d.others

/-- The bytes that an entry of the queue stores. -/
def storeCells : Held → List Host.Cell
  | .store cells _ => cells
  | _ => []

/-- The copies of a voted machine agree on its next output, which takes effect on u (R393). -/
def Agreed (s : State) (v : Voted) (u : State) : Prop :=
  (s.dev.votedBy v).struck = 0 ∧
    (((s.dev.votedBy v).state = .triplex ∧ u = s.counted) ∨ ((s.dev.votedBy v).state = .resync ∧ u = s))

/-- The rollback store of R138: whole units of the scratchpad and the tile file, each once. -/
def rollbackOk (t : Tile) : Prop :=
  (t.rb.map (·.unit)).Nodup ∧ ∀ u ∈ t.rb, u.unit % 64 = 0 ∧ u.unit + 64 ≤ 0x1A0000 ∧ cellsWf u.cells = true

end Sys2Proof.Claims

/-- CHECKPOINT (R137): image, rollback store, queue and log as a checkpoint leaves them; the entries of the queue leave in
their order (R139), so that each byte holds what the last of the stores put there, a copy job is WAITING, and a spawned task
starts on its tile (R135); a pin given up in the interval leaves its layer (R367); during a rerun it ends the rerun instead.
NOTIFICATION (R378, R384): outside supervisor mode, or in a launch that runs in it one that was held at the latest `eret`:
one that is enabled is taken as a trap is, its cause that of the table and its detail the tile or 1; one that is not was only
recorded.
The model's choices in it: log entries 52 and 125. -/
def Obligations.CheckpointAndNotification : Prop :=
  (∀ s d : State, Settles s d → s.tile.recov.phase = .run → d.tile.poison = [] → d.tile.haltDue = false → d.tile.unpins = [] →
    (d.tile.cq = [] → ∃ t, exec .checkpoint s = .next t ∧ Committed d t ∧ t.dev = d.dev) ∧
    (d.tile.released = [] → (∀ h ∈ d.tile.cq, ∃ cells n, h = .store cells n ∧ ∀ c ∈ cells, 0x80000000 ≤ c.1 ∧ c.1 < 0x100000000 ∧
        ∀ b ∈ d.barsInUse (some (d.tile.phys, n)), c.1 < b.1 ∨ b.1 + 16 ≤ c.1) →
      ∃ t, exec .checkpoint s = .next t ∧ Committed d t ∧
        (∀ x, t.dev.near.readByte x = (lastCell (d.tile.cq.flatMap storeCells) x none).getD (d.dev.near.readByte x)) ∧
        { t.dev with near := d.dev.near } = d.dev) ∧
    (∀ slot j, d.tile.cq = [.job slot] → d.tile.job? slot = some j → (∀ h, j.kind ≠ .post h) →
      (∀ x y z w, j.kind ≠ .xst x y z w) → (∀ op x y z, j.kind ≠ .xatom op x y z) →
      ∃ t k, exec .checkpoint s = .next t ∧ Committed d t ∧ t.tile.job? slot = some k ∧ k.state = .waiting ∧ k.sq = j.sq ∧
        k.kind = j.kind ∧ k.tok = j.tok ∧ k.card = j.card ∧ t.dev = d.dev ∧
        ∀ n, n ≠ slot → t.tile.job? n = d.tile.job? n) ∧
    (∀ tgt entry regs u, d.tile.cq = [.spawn tgt entry regs] → d.logical d.tile.ctx tgt = some u → u.phys ≠ d.tile.phys →
      d.getTile u.phys = u →
      ∃ t, exec .checkpoint s = .next t ∧ t.tile.cq = [] ∧ t.tile.ck = d.tile.core ∧ t.tile.core = d.tile.core ∧
        (let w := t.getTile u.phys
         w.stat = .running ∧ w.core.pc = BitVec.ofNat 20 entry ∧ w.core.p = 1 ∧ w.core.flags = 0 ∧
         (∀ k, k < 8 → w.core.reg (BitVec.ofNat 6 (48 + k)) = regs.getD k 0) ∧ w.task.spawned = true ∧ w.task.q = d.tile.task.q ∧
         w.task.sq = d.tile.task.sq) ∧
        (∀ p, p ≠ d.tile.phys → p ≠ u.phys → t.getTile p = d.getTile p) ∧
        ∀ l, d.launch? d.tile.task.q d.tile.task.sq = some l →
          t.launch? d.tile.task.q d.tile.task.sq = some { l with live := l.live + 1 })) ∧
  (∀ (s d : State) (n l : Nat) (o : Obj), Settles s d → s.tile.recov.phase = .run → d.tile.poison = [] → d.tile.haltDue = false →
    d.tile.cq = [] → d.tile.unpins = [(n, l)] → d.obj? n = some o → 0x80000000 ≤ entryAddr o l →
    entryAddr o l + 0x38 ≤ 0x100000000 → let a := entryAddr o l + 0x30
    ∃ t, exec .checkpoint s = .next t ∧ Committed d t ∧ resPins (t.dev.near.readNat a 8) = resPins (d.dev.near.readNat a 8) - 1 ∧
      resState (t.dev.near.readNat a 8) = resState (d.dev.near.readNat a 8) ∧
      resGen (t.dev.near.readNat a 8) = resGen (d.dev.near.readNat a 8) ∧
      ∀ x, x < a ∨ a + 8 ≤ x → t.dev.near.readByte x = d.dev.near.readByte x) ∧
  (∀ s d : State, Settles s d → d.tile.inRerun = true → d.tile.poison = [] →
    exec .checkpoint s = .next { d with tile := { d.tile with recov := { d.tile.recov with ended := true } } }) ∧
  ∀ (s : State) (n : Note) (rest : List Note), s.tile.notes = n :: rest → s.tile.stat = .running →
    s.tile.core.sup = false ∨ (s.tile.core.inHandler = false ∧ s.tile.core.noteDue ≠ 0) → s.tile.recov.phase = .run →
      s.ribbonOf s.tile.phys = none → s.tile.waitsEngine = false →
    let u : State := { s with tile := { s.tile with
      notes := rest
      core := { s.tile.core with noteDue := s.tile.core.noteDue - 1 } } }
    let on : Bool := match n with
      | .retired _ => s.tile.core.ntmask.getLsbD 1
      | .preempt => s.tile.core.ntmask.getLsbD 0
    (on = false ∨ s.tile.tvec = 0xFFFFF → exec .notification s = .next u) ∧
    (on = true → s.tile.tvec ≠ 0xFFFFF → s.drain.errorPending = false → s.drain.rankPoison = none → EntersAlone u →
      PoisonKnown u 0 → u.drain.tile.tvec = s.tile.tvec →
      ∃ t, exec .notification s = .next t ∧ t.tile.core.epc = s.tile.core.pc ∧ t.tile.core.sup = true ∧
        t.tile.core.pc = s.tile.tvec ∧ t.tile.core.ecause.toNat % 64 = (match n with
          | .retired _ => 9
          | .preempt => 15) ∧
        t.tile.core.einfo = (match n with
          | .retired p => BitVec.ofNat 32 (p % 512)
          | .preempt => 1))

/-- RECOVERY_RESTORE (R142, R269): after a data error the tile has its checkpointed registers, accumulators, weight buffers and
poison again, streams at their positions with their FIFOs empty, and every saved unit and accumulator its old bytes, but for those that another agent
has written too, which are undefined; its queues are empty and the rerun begins. RERUN_END: after the first rerun count and
signature are recorded; when the second agrees the state commits and the tile runs on; when it does not, the restored tile
retires (R144), by the firmware, and so waits while that is stopped (R393).
The model's choices in it: log entries 14, 43, 45, 46, 108 and 125. -/
def Obligations.RestoreAndRerun : Prop :=
  (∀ s : State, s.ribbonOf s.tile.phys = none → s.tile.recov.phase = .stop ∨ s.tile.recov.phase = .restoreB →
    s.tile.waitsEngine = false →
    let x := s.land1
    let d := x.tile.cq.foldl (fun y h => y.discard1 x.tile.phys h) x
    d.memWf = true → d.tile.phys = s.tile.phys → rollbackOk d.tile →
    ∃ t, exec .recoveryRestore s = .next t ∧ t.tile.core = { d.tile.ck with ports := t.tile.core.ports } ∧
      (∀ q, q < 12 → t.tile.core.port q = { d.tile.ck.port q with fifo := [] }) ∧
      (∀ u ∈ d.tile.rb, ∀ a, u.unit ≤ a → a < u.unit + 64 →
        (∀ v ∈ d.tile.sharedUnits, a < v ∨ v + 64 ≤ a) → t.tile.win.readByte a = Mem.readByte ⟨u.cells, u.undef, u.bad⟩ a) ∧
      (∀ a, 0x1A0000 ≤ a → a < 0x1E0000 → (∀ v ∈ d.tile.sharedUnits, a < v ∨ v + 64 ≤ a) →
        t.tile.win.readByte a = d.tile.shadow.readByte a) ∧
      (∀ a, a < 0x1A0000 → (∀ u ∈ d.tile.rb, a < u.unit ∨ u.unit + 64 ≤ a) →
        (∀ v ∈ d.tile.sharedUnits, a < v ∨ v + 64 ≤ a) → t.tile.win.readByte a = d.tile.win.readByte a) ∧
      t.tile.rb = [] ∧ t.tile.cq = [] ∧ t.tile.pend = [] ∧ t.tile.loads = [] ∧ t.tile.mq = [] ∧ t.tile.poison = d.tile.ckPoison ∧
      (∀ a, t.tile.wb0.readByte a = d.tile.ckWb0.readByte a ∧ t.tile.wb1.readByte a = d.tile.ckWb1.readByte a) ∧
      t.tile.jobs = d.tile.jobs ∧ t.dev = d.dev ∧ t.others = d.others ∧
      (d.tile.recov.phase = .stop → t.tile.recov.phase = .rerunA) ∧
      (d.tile.recov.phase = .restoreB → t.tile.recov.phase = .rerunB) ∧ t.tile.recov.ended = false ∧
      t.tile.recov.retired = 0) ∧
  ∀ s d : State, Settles s d → s.tile.recov.phase = d.tile.recov.phase → s.tile.recov.ended = true →
    (d.tile.recov.phase = .rerunA → ∃ t, exec .rerunEnd s = .next t ∧ t.tile.recov.phase = .restoreB ∧
      t.tile.recov.countA = d.tile.recov.retired ∧ t.tile.recov.sigA = d.tile.signature ∧
      { t.tile with recov := d.tile.recov } = d.tile ∧ t.dev = d.dev ∧ t.others = d.others) ∧
    (d.tile.recov.phase = .rerunB → d.tile.cq = [] → d.tile.unpins = [] → d.tile.haltDue = false →
      let same := !d.tile.recov.err && decide (d.tile.recov.retired = d.tile.recov.countA) &&
        decide (d.tile.signature = d.tile.recov.sigA)
      (same = true → d.tile.recov.fatal = false →
        ∃ t, exec .rerunEnd s = .next t ∧ Committed d t ∧ t.tile.recov.phase = .run ∧ t.dev = d.dev) ∧
      (same = false → (∀ u, Agreed d .firmware u → exec .rerunEnd s = .next (u.restore1.retire [d.tile.phys])) ∧
        ((d.dev.votedBy .firmware).state = .stopped → exec .rerunEnd s = .next d)))

/-! ### The events of jobs -/

namespace Sys2Proof.Claims

/-- A job has reached DONE with a status: its slot is free, and the status is in its token register, live and in the image. -/
structure JobDone (s t : State) (j : Job) (status : Word) : Prop where
  slot : t.tile.job? j.slot = none
  jobs : t.tile.jobs = s.tile.jobs.filter fun k => decide (k.slot ≠ j.slot)
  core : t.tile.core = s.tile.core.landToken j.sq (j.tok.getD 0) status
  image : t.tile.ck = s.tile.ck.landToken j.sq (j.tok.getD 0) status
  win : t.tile.win = s.tile.win
  others : t.others = s.others

/-- A card whose first word is 0 and whose formats are not q4 or s24: a copy of bytes in one dimension (R209 to R211). -/
def plainCopy (j : Job) (c : Card) : Prop :=
  j.kind = .cpy ∧ (∃ l, j.card = some l ∧ c = Card.ofWords l) ∧ c.mode = 0 ∧ c.sf ≠ 9 ∧ c.sf ≠ 10 ∧ c.df ≠ 9 ∧ c.df ≠ 10

/-- The event ring, if there is one yet, lies in host memory (R415). -/
def hostRing (s : State) : Prop := ∀ r, s.dev.evRing = some r → r.1 = 0

end Sys2Proof.Claims

/-- The events of the copy engine. JOB_START (R232, R216, R233): a waiting job runs once no edge holds it and the tile's
earlier writes are made; one whose list could not be read before gets the edges that it asks for. PAGE_WALK_COMPLETE (R240): a
walk gives the job its translation, or parks it; a prefetch ends with status 3. JOB_COMPLETE (R214, R234): a plain copy puts
each source byte at its destination; a fence answers the first failure before it; either frees its slot and its status lands in
the token. MIGRATION (R242, R243): the bytes of a page move, and no translator keeps it. A walk or a migration waits while its
machine is stopped (R393).
The model's choices in it: log entries 14, 29, 30, 31, 34 and 102. -/
def Obligations.JobEvents : Prop :=
  (∀ (s : State) (slot : Nat) (j : Job), s.tile.job? slot = some j →
    (j.state = .waiting → s.tile.edgesLeft j = [] → s.tile.writesPending = false ∨ s.tile.returns j = true →
      let k := if j.scan then s.tile.scanJob j else j
      exec (.jobStart slot) s =
        .next { s with tile := s.tile.setJob (if s.tile.edgesLeft k = [] then { k with state := .running } else k) }) ∧
    (j.state ≠ .waiting ∨ s.tile.edgesLeft j ≠ [] ∨ (s.tile.writesPending = true ∧ s.tile.returns j = false) →
      exec (.jobStart slot) s = .next s)) ∧
  (∀ (s : State) (slot : Nat) (j : Job) (va : Nat) (wr : Bool), s.tile.job? slot = some j → j.state = .running → j.status = 0 →
    s.jobMiss s.tile j = some (va, wr) → ∀ u, Agreed s (.walker (s.tile.phys / 16)) u →
    (∀ e, s.walk s.tile.pasid.toNat va = some e → ∃ t, exec (.pageWalkComplete slot) s = .next t ∧
      t.tile.job? slot = some { j with xl := e :: j.xl } ∧ t.tile.core = s.tile.core ∧ t.tile.win = s.tile.win ∧
      t.dev.near = s.dev.near ∧ t.others = s.others) ∧
    (s.walk s.tile.pasid.toNat va = none → j.kind = .cpf →
      exec (.pageWalkComplete slot) s = .next { u with tile := u.tile.setJob { j with status := 3 } }) ∧
    (s.walk s.tile.pasid.toNat va = none → j.kind ≠ .cpf → hostRing s → ∃ t, exec (.pageWalkComplete slot) s = .next t ∧
      t.tile.job? slot = some { j with state := .parked, parkVa := va, parkWr := wr } ∧ t.tile.core = s.tile.core ∧
      t.tile.win = s.tile.win ∧ t.dev.near = s.dev.near ∧ t.others = s.others)) ∧
  (∀ s : State, (∀ slot, (s.dev.votedBy (.walker (s.tile.phys / 16))).state = .stopped →
      exec (.pageWalkComplete slot) s = .next s) ∧
    ∀ m, (s.dev.votedBy .migration).state = .stopped → exec (.migration m) s = .next s) ∧
  (∀ (s : State) (slot : Nat) (j : Job) (c : Card) (sa da : Nat), s.tile.job? slot = some j → j.state = .running →
    j.status = 0 → plainCopy j c → j.acks = [] → j.phase ≠ 2 → s.tile.stat = .running → s.memWf = true → s.jobStatus s.tile j c = 0 →
    let n := c.ext.getD 0 0
    c.src + n ≤ 2 ^ 57 → c.dst + n ≤ 2 ^ 57 → 0x80000000 ≤ sa → 0x80000000 ≤ da → sa + n ≤ 0x100000000 → da + n ≤ 0x100000000 →
    sa + n ≤ da ∨ da + n ≤ sa →
    (∀ b ∈ s.barsInUse none, b.1 + 16 ≤ da ∨ da + n ≤ b.1) →
    (∀ k, k < n → s.jobLoc s.tile j (c.src + k) = some (.chip (sa + k)) ∧
      s.jobLoc s.tile j (c.dst + k) = some (.chip (da + k))) →
    ∃ t, exec (.jobComplete slot) s = .next t ∧ JobDone s t j 0 ∧
      (∀ k, k < n → t.dev.near.readByte (da + k) = s.dev.near.readByte (sa + k)) ∧
      (∀ x, x < da ∨ da + n ≤ x → t.dev.near.readByte x = s.dev.near.readByte x)) ∧
  (∀ (s : State) (slot : Nat) (j : Job), s.tile.job? slot = some j → j.state = .running → j.status = 0 → j.kind = .cfence →
    j.card = none → j.early = 0 → s.tile.stat = .running → j.tok ≠ none →
    ∃ t, exec (.jobComplete slot) s = .next t ∧ JobDone s t j (BitVec.ofNat 32 (s.tile.fenceStatus j.sq)) ∧ t.dev = s.dev) ∧
  ∀ (s : State) (m : MigrateArgs) (e : TlbEntry) (root table lo dest : Nat) (src dst : Mem),
    s.walk m.pasid m.va = some e → s.ptroot m.pasid = some root → e.t = m.t → 0 < m.cls → m.cls ≤ 2 → s.memWf = true →
    let n := 2 ^ (12 + e.t)
    m.base % n = 0 → m.base + n ≤ 2 ^ 51 → s.dev.classMem e.cls e.dev e.base = some (src, lo) →
    s.dev.classMem m.cls m.dev m.base = some (dst, dest) → tableGo s.dev.lpddr m.pasid m.va (e.t / 9) 4 root = some table →
    (∀ r ∈ src.undef, r.hi ≤ lo ∨ lo + n ≤ r.lo) → ∀ u, Agreed s .migration u →
    ∃ t, exec (.migration m) s = .next t ∧
      (∃ mem, t.dev.classMem m.cls m.dev m.base = some (mem, dest) ∧
        (∀ k, k < n → mem.readByte (dest + k) = src.readByte (lo + k)) ∧
        ∀ x, x < dest ∨ dest + n ≤ x → mem.readByte x = dst.readByte x) ∧
      (∀ x ∈ t.tile.tlb, ¬ (x.pasid = m.pasid ∧ x.va < e.va + n ∧ e.va < x.va + 2 ^ (12 + x.t))) ∧
      t.tile.core = s.tile.core ∧ t.tile.win = s.tile.win ∧ t.dev.near = s.dev.near

/-! ### The events of streams and releases -/

namespace Sys2Proof.Claims

/-- n bytes at a, none past a multiple of 16, in the own scratchpad or the near store. -/
def inPlace (s : State) (a n : Nat) : Prop :=
  a % 16 + n ≤ 16 ∧ (0x80000000 ≤ a ∧ a < 0x100000000 ∨ ∃ off, s.tile.ownOff a = some off ∧ off < 0x180000)

/-- The byte that the tile's map names. -/
def byteOf (s : State) (a : Nat) : Byte := s.mapByte s.tile.ctx s.tile.ltile a
def bytesAt (s : State) (a n : Nat) : List Byte := (List.range n).map fun i => byteOf s (a + i)

/-- From s to t no byte of the map changes but the n at a, under either of the two names of the own window. -/
def onlyBytes (s t : State) (a n : Nat) : Prop :=
  ∀ x, s.tile.canon x < s.tile.canon a ∨ s.tile.canon a + n ≤ s.tile.canon x → byteOf t x = byteOf s x

/-- No barrier object in use lies among the n bytes at a (R250: its words would be undefined), as seen from an own write that stands
behind so many jobs and bindings of streams. -/
def offBars (s : State) (before : Nat × Nat) (a n : Nat) : Prop :=
  ∀ b ∈ s.barsInUse (some (s.tile.phys, before)), ∀ i k, i < n → s.chipKey s.tile.ctx s.tile.ltile (a + i) = some k →
    k < b.1 ∨ b.1 + 16 ≤ k

/-- The i-th released action of the running tile may act, and no write waits behind it. -/
structure Acts (s : State) (i : Nat) (h : Held) : Prop where
  held : s.tile.released[i]? = some h
  may : s.tile.canPerform i = true
  running : s.tile.stat = .running
  noWrites : ∀ k ∈ s.tile.released, k.isWrite = false
  wf : s.memWf = true

/-- After it the action is gone, and nothing but the bytes of memory that it names has changed. -/
structure Acted (s t : State) (i : Nat) : Prop where
  released : t.tile.released = s.tile.released.eraseIdx i
  core : t.tile.core = s.tile.core
  cq : t.tile.cq = s.tile.cq
  jobs : t.tile.jobs = s.tile.jobs
  others : t.others = s.others

end Sys2Proof.Claims

/-- The events of streams (R195, R204, R205): the next vector of an input port is in its FIFO, as the tile's program sees its
bytes; the oldest vector of an output port is in the own window, or enters the commit queue, before the completion arrival of
its stream where that stands in the queue already; the completion arrival steps the barrier of the descriptor and marks the
port of its own binding done, and no other.
The model's choices in it: log entries 47 and 128 (a barrier with an uncorrectable word takes its step on the raw bytes). -/
def Obligations.StreamEvents : Prop :=
  (∀ (s : State) (q : Nat), q < 12 →
    let p := s.tile.core.port q
    let a := p.addrOf (p.pos + p.fifo.length)
    p.bound = true → p.out = false → p.fifo.length < 8 → p.pos + p.fifo.length < p.total → (s.tile.mq.any XOp.isTst) = false →
    s.tile.portLoading = false → (∀ r, r < 12 → s.tile.outPending r = false) →
    (∀ i, i < 64 → ({ s with src := s.tile }).eccByte (a + i) = .none) →
    let p' := { p with fifo := p.fifo ++ [vecOfBytes ((List.range 64).map fun i =>
      ({ s with src := s.tile }).supByte s.tile s.iss.pc (a + i))] }
    exec (.streamFetch q) s = .next { s with
      tile := { s.tile with core := s.tile.core.setPort q p' }
      free := s.free + 1 }) ∧
  (∀ (s : State) (q : Nat) (v : Vec) (rest : List Vec), q < 12 → s.tile.stat = .running → s.memWf = true →
    let p := s.tile.core.port q
    let a := p.addrOf (p.pos - p.fifo.length)
    p.bound = true → p.out = true → p.fifo = v :: rest → (∀ off, s.tile.ownOff a = some off → off + 64 ≤ 0x180000) →
    ∃ t, exec (.streamVectorLand q) s = .next t ∧ t.tile.core = s.tile.core.setPort q { p with fifo := rest } ∧
      t.dev = s.dev ∧ t.others = s.others ∧
      (s.tile.ownOff a = none → t.tile.cq = s.tile.cq.takeWhile (fun h => !h.isDoneOf p.num) ++
          .vec p.num (cellsOf a (vecBytes v)) :: s.tile.cq.dropWhile (fun h => !h.isDoneOf p.num) ∧
        t.tile.win = s.tile.win) ∧
      (∀ off, s.tile.ownOff a = some off →
        (∀ k b, (vecBytes v)[k]? = some b → t.tile.win.readByte (off + k) = b) ∧
        ∀ x, x < off ∨ off + 64 ≤ x → t.tile.win.readByte x = s.tile.win.readByte x)) ∧
  ∀ (s : State) (i bar num : Nat), Acts s i (.streamDone bar num) → inPlace s bar 16 →
    ∃ t, exec (.streamCompletionArrival i) s = .next t ∧ t.tile.released = s.tile.released.eraseIdx i ∧
      bytesAt t bar 16 = ((BarObj.ofBytes (bytesAt s bar 16)).step 1 0 0).toBytes ∧ onlyBytes s t bar 16 ∧
      (∀ (k : Nat) (q : Port), s.tile.core.ports[k]? = some q → t.tile.core.ports[k]? =
        some (if q.bound = true ∧ q.out = true ∧ q.num = num then { q with done := true } else q)) ∧
      t.tile.core = { s.tile.core with ports := t.tile.core.ports } ∧
      t.others = s.others

/-- Releases act (R136, R193, R255, R258): an arrival takes n from what a barrier awaits and joins its flags, an expectation
adds its bytes, by the step of R247; a counter grows; a phase only ends its hold; a trigger is given once; a flagged store
writes its bytes and then adds 1 to its flag. Nothing else changes.
The model's choices in it: log entries 39, 94, 104 and 128 (an object with an uncorrectable word takes its step on the raw
bytes). -/
def Obligations.ReleaseEvents : Prop :=
  (∀ (s : State) (i sc a n : Nat) (f : Byte), Acts s i (.barv sc a n f) → inPlace s a 16 →
    ∃ t, exec (.releasePerform i) s = .next t ∧ Acted s t i ∧ onlyBytes s t a 16 ∧
      bytesAt t a 16 = ((BarObj.ofBytes (bytesAt s a 16)).step n 0 f.toNat).toBytes) ∧
  (∀ (s : State) (i sc a n : Nat) (x : Word), Acts s i (.bartx sc a n x) → inPlace s a 16 →
    ∃ t, exec (.releasePerform i) s = .next t ∧ Acted s t i ∧ onlyBytes s t a 16 ∧
      bytesAt t a 16 = ((BarObj.ofBytes (bytesAt s a 16)).step n x.toInt 0).toBytes) ∧
  (∀ (s : State) (i sc a : Nat) (inc : BitVec 64), Acts s i (.cadd sc a inc) → inPlace s a 8 →
    ∃ t, exec (.releasePerform i) s = .next t ∧ Acted s t i ∧ onlyBytes s t a 8 ∧
      natOfBytes (bytesAt t a 8) = (natOfBytes (bytesAt s a 8) + inc.toNat) % 2 ^ 64) ∧
  (∀ (s : State) (i sc : Nat), Acts s i (.phaseRel sc) →
    ∃ t, exec (.releasePerform i) s = .next t ∧ Acted s t i ∧ t.dev = s.dev ∧ t.tile.win = s.tile.win) ∧
  (∀ (s : State) (i sq : Nat), Acts s i (.trig sq) → s.tile.task.spawned = false →
    ∃ t, exec (.releasePerform i) s = .next t ∧ Acted s t i ∧ t.tile.task.trigDone = true ∧ t.tile.win = s.tile.win) ∧
  ∀ (s : State) (i a flag : Nat) (n : Nat × Nat) (bs : List Byte), Acts s i (.stf (cellsOf a bs) flag n) → bs ≠ [] → inPlace s a bs.length →
    inPlace s flag 4 → offBars s n a bs.length → offBars s n flag 4 →
      s.tile.canon flag + 4 ≤ s.tile.canon a ∨ s.tile.canon a + bs.length ≤ s.tile.canon flag →
    ∃ t, exec (.stfRelease i) s = .next t ∧ Acted s t i ∧ bytesAt t a bs.length = bs ∧
      natOfBytes (bytesAt t flag 4) = (natOfBytes (bytesAt s flag 4) + 1) % 2 ^ 32 ∧
      ∀ x, (s.tile.canon x < s.tile.canon a ∨ s.tile.canon a + bs.length ≤ s.tile.canon x) →
        (s.tile.canon x < s.tile.canon flag ∨ s.tile.canon flag + 4 ≤ s.tile.canon x) → byteOf t x = byteOf s x

/-! ### The events of trees -/

namespace Sys2Proof.Claims

/-- The refill counters of the routers with one more at router r (R316). -/
def refilled (l : List (Nat × Nat)) (r : Nat) : List (Nat × Nat) :=
  (r, ((l.find? fun p => decide (p.1 = r)).map (·.2)).getD 0 + 1) :: l.filter fun p => decide (p.1 ≠ r)

/-- The tree that a thaw goes on with: what the entry holds, or what the image holds where it is one of an earlier freeze or of
another device (R325, R326). -/
def thawed (s : State) (tr : Tree) (a : Nat) : Tree :=
  match s.imageAt tr a with
  | some (seed, img) => if seed = some tr.image.1 then tr else tr.fromImage img
  | none => tr

end Sys2Proof.Claims

/-- Posts, flits, refills, deliveries, freezes and thaws (R313 to R316, R321, R325, R326): a post's source is read and sent,
and ends a member that does not receive; a flit joins its node, waits where the node has no place for its segment, or is held by a miss that asks for a refill; a refill makes the
record present; a delivery puts the result at the receiver and lands status 0; a frozen entry has its image, a thawed one is
live; either lands code 0.
The model's choices in it: log entries 59, 61, 63 and 116. -/
def Obligations.TreeEvents : Prop :=
  (∀ (s : State) (slot : Nat) (j : Job) (tr : Tree) (p : Post), s.tile.job? slot = some j →
    s.postOf s.tile slot = some (tr, p) → j.state = .running → j.status = 0 → p.read = false → s.treeFrozen tr = false →
    tr.sendsLater p = false → s.pathDown tr p.seg = false → (∀ i, i < p.len →
      s.mapBad s.tile.ctx s.tile.ltile (p.src + i) 1 = none) →
    let data := tElems tr.oper tr.tfmt (s.mapRead s.tile.ctx s.tile.ltile p.src p.len)
    let posts := tr.posts.map fun (q : Post) => if q.tile = s.tile.ltile ∧ q.slot = j.slot then { q with read := true } else q
    let tr' := (Tree.send { tr with posts := posts } p.dev p.tile p.seg data).sendEmpties.settle
    (p.rcv ≠ 0 → exec (.postSourceRead slot) s = .next (State.setTree { s with free := s.free + 1 } tr')) ∧
    (p.rcv = 0 → s.tile.stat = .running → s.logical tr.ctx s.tile.ltile = some s.tile → ∃ t, exec (.postSourceRead slot) s = .next t ∧ JobDone s t j 0 ∧
      t.dev.near = s.dev.near)) ∧
  (∀ (s : State) (f : TreeFlit) (tr : Tree) (d : TreeData), s.tree? f.tree = some tr → s.treeFrozen tr = false →
    (tr.flight.find? fun d => decide (d.node = f.node) && decide (d.child = f.child) && decide (d.seg % 2 ^ 32 = f.seg)) =
      some d →
    let tr' := { tr with flight := tr.flight.erase d }
    let x := tr.node (tr.descFor d.seg).eff d.node
    (x.present = true → ∀ u, tr'.accept d = some u → ∃ t, exec (.treeFlitArrival f) s = .next t ∧
      t.tree? f.tree = some (u.setNode { u.nodeFor d with used := s.dev.stamp }).settle ∧ t.tile = s.tile ∧
      t.others = s.others ∧ t.dev.near = s.dev.near) ∧
    (x.present = true → tr'.accept d = none → exec (.treeFlitArrival f) s = .next s) ∧
    (x.present = false → ∃ t u, exec (.treeFlitArrival f) s = .next t ∧ t.tree? f.tree = some u ∧
      (u.node x.eff x.node).held = x.held ++ [d] ∧ (u.node x.eff x.node).missing = true ∧ u.flight = tr.flight.erase d ∧
      u.misses = (if x.missing then tr.misses else (tr.misses + 1) % 2 ^ 32) ∧
      t.dev.refills = (if x.missing then s.dev.refills
        else refilled s.dev.refills (s.placeNode tr.ctx (tr.descFor d.seg) d.node)) ∧
      t.tile = s.tile ∧ t.others = s.others ∧ t.dev.near = s.dev.near)) ∧
  (∀ (s : State) (idx n : Nat) (tr : Tree) (x : NodeState), s.tree? idx = some tr → s.treeFrozen tr = false →
    (tr.nodes.find? fun x => decide (x.node = n) && x.missing) = some x → ∀ v, Agreed s .refill v → ∃ t u, exec (.treeRefillComplete idx n) s = .next t ∧ t.tree? idx = some u ∧
      (u.node x.eff n).present = true ∧ (u.node x.eff n).missing = false ∧ (u.node x.eff n).held = [] ∧ t.tile = s.tile ∧ t.others = s.others ∧ t.dev.near = s.dev.near) ∧
  (∀ (s : State) (idx seg member : Nat) (tr : Tree) (p : Post) (r : Nat × List Int) (j : Job) (u : Tile), s.tree? idx = some tr →
    s.treeFrozen tr = false → (tr.posts.find? fun p => decide (p.seg % 2 ^ 32 = seg) && decide (p.tile = member) && p.read &&
      decide (p.rcv ≠ 0) && tr.results.any fun r => decide (r.1 = p.seg)) = some p →
    (tr.results.find? fun r => decide (r.1 = p.seg)) = some r → p.bar = 0 →
    s.logical tr.ctx p.tile = some u → s.getTile u.phys = u → u.job? p.slot = some j → u.stat = .running → s.memWf = true →
    s.dev.near.bad = [] →
    let bs := tBytes tr.oper tr.tfmt r.2
    0x80000000 ≤ p.rcv → p.rcv + bs.length ≤ 0x100000000 →
    ∃ t, exec (.treeDelivery idx seg member) s = .next t ∧
      (∀ k b, bs[k]? = some b → t.dev.near.readByte (p.rcv + k) = b) ∧
      (∀ x, x < p.rcv ∨ p.rcv + bs.length ≤ x → t.dev.near.readByte x = s.dev.near.readByte x) ∧
      (t.getTile u.phys).job? p.slot = none ∧
      (t.getTile u.phys).core = u.core.landToken j.sq (j.tok.getD 0) 0) ∧
  (∀ (s : State) (idx a : Nat) (tr : Tree), s.tree? idx = some tr → tr.freezing = some a →
    s.memWf = true →
    ∃ t u, exec (.treeFreezeComplete idx) s = .next t ∧ t.tree? idx = some u ∧
      u = { tr with frozen := true, freezing := none, image := u.image } ∧
      t.dev.near.readNat (a + 4) 4 = (s.handle idx).toNat ∧
      (∀ x, x < a ∨ a + tr.bound ≤ x → t.dev.near.readByte x = s.dev.near.readByte x) ∧
      t.tile = s.tile.landWaiting (.tree idx) false 0 ∧
      t.others = s.others.map fun u => u.landWaiting (.tree idx) false 0) ∧
  ∀ (s : State) (idx a : Nat) (tr : Tree), s.tree? idx = some tr → tr.thawing = some a →
    ∃ t u, exec (.treeThawComplete idx) s = .next t ∧ t.tree? idx = some u ∧ u.frozen = false ∧ u.thawing = none ∧
      u.results.take (thawed s tr a).results.length = (thawed s tr a).results ∧ t.dev.near = s.dev.near ∧
      t.tile = s.tile.landWaiting (.tree idx) false 0 ∧
      t.others = s.others.map fun u => u.landWaiting (.tree idx) false 0

/-! ### The events of Lelum and Shale -/

namespace Sys2Proof.Claims

/-- Nothing on the chip has changed: no tile and no byte of the near store. -/
def sameChip (s t : State) : Prop := t.tile = s.tile ∧ t.others = s.others ∧ t.dev.near = s.dev.near

/-- A sequence number that an acknowledgement of `num` does not cover (R342): it is at or after `num`. -/
def unacked (num q : Nat) : Bool := decide ((q + 2 ^ 24 - num % 2 ^ 24) % 2 ^ 24 < 2 ^ 23)

/-- How far a flit lies past the number that its pair expects (R341). -/
def ahead (s : State) (f : Flit) : Nat := (f.sq + 2 ^ 24 - (s.pair f.src).expected % 2 ^ 24) % 2 ^ 24

/-- What becomes of a laser input when its power falls or rises (R345). -/
def lowered : Laser → Laser
  | .lit => .fading
  | .fading => .fading
  | .dark => .dark
  | .waking => .dark
def raised : Laser → Laser
  | .lit => .lit
  | .fading => .lit
  | .dark => .waking
  | .waking => .waking

end Sys2Proof.Claims

/-- The events of Lelum (R334 to R336, R339, R341 to R346): in a rotor slot every stripe counter counts from 0 what its port
has transmitted since the slot began, and the relayed flits of the devices now joined leave; a bad flit is counted and dropped,
one for another device relayed once, one ahead of its turn held, one in its turn delivered; an acknowledgement covers every
earlier flit; timers acknowledge, replay, and declare a pair unreachable, which ends with status 8 what awaits it; laser inputs
fade, are lost, wake and are restored.
The model's choices in it: log entries 64, 66, 67, 68 and 109. -/
def Obligations.LelumEvents : Prop :=
  (∀ (s : State) (r : List (List (Option (Nat × Nat)))), s.dev.rotor = some r →
    ∃ t new, exec .rotorSlotStart s = .next t ∧ sameChip s t ∧
      t.dev.rotorSlot = (if s.dev.rotorSlot + 1 < r.length then s.dev.rotorSlot + 1 else 0) ∧
      t.dev.sent = s.dev.sent ++ new ∧ (∀ k, (t.lport k).stripe = (new.filter fun x => decide (x.port = k)).length) ∧
      t.dev.relay = (s.dev.relay.filter fun f => (t.portTo f.dst).isNone) ∧
      ∀ f ∈ s.dev.relay, ∀ k, t.portTo f.dst = some k → ∃ x ∈ new, x.port = k ∧ x.flit = f) ∧
  (∀ (s : State) (f : Flit), f.crcOk = false ∨ 3 ≤ f.type →
    exec (.flitReceive f) s = .next { s with dev := { s.dev with discards := s.dev.discards + 1 } }) ∧
  (∀ (s : State) (f : Flit), f.crcOk = true → f.type < 3 →
    (f.dst ≠ s.dev.devid.toNat → f.hop = 0 → s.regionFull = false →
      exec (.flitReceive f) s = .next { s with dev := { s.dev with relay := s.dev.relay ++ [f.hopped] } }) ∧
    (f.dst ≠ s.dev.devid.toNat → 1 ≤ f.hop ∨ s.regionFull = true →
      exec (.flitReceive f) s = .next { s with dev := { s.dev with discards := s.dev.discards + 1 } }) ∧
    (f.dst = s.dev.devid.toNat → f.type = 2 →
      exec (.flitReceive f) s = exec (.ackReceive f.src (natOfBytes (f.payload.take 4) % 2 ^ 24)) s) ∧
    (f.dst = s.dev.devid.toNat → f.type < 2 → ahead s f = 0 → (s.pair f.src).reorder = [] →
      exec (.flitReceive f) s = .next (s.deliverFlit f)) ∧
    (f.dst = s.dev.devid.toNat → f.type < 2 → 0 < ahead s f → ahead s f < 2 ^ 23 → s.regionFull = false →
      (∀ g ∈ (s.pair f.src).reorder, g.sq ≠ f.sq) →
      exec (.flitReceive f) s = .next (s.setPair { s.pair f.src with reorder := (s.pair f.src).reorder ++ [f] })) ∧
    (f.dst = s.dev.devid.toNat → f.type < 2 → 2 ^ 23 ≤ ahead s f →
      exec (.flitReceive f) s = .next { s with dev := { s.dev with discards := s.dev.discards + 1 } })) ∧
  (∀ (s : State) (d num : Nat), ∃ t new, exec (.ackReceive d num) s = .next t ∧ sameChip s t ∧
    (t.pair d).unacked = ((s.pair d).unacked.filter fun f => unacked num f.sq) ++ new) ∧
  (∀ (s : State) (d : Nat), let p := s.pair d
    (p.owed = true → s.carries p.port d = true → ∃ t x, exec (.ackTimer d) s = .next t ∧ sameChip s t ∧
      t.pair d = { p with owed := false } ∧ t.dev.sent = s.dev.sent ++ [x] ∧ x.port = p.port ∧ x.flit.type = 2 ∧
      x.flit.dst = d % 4096 ∧ natOfBytes (x.flit.payload.take 4) = p.expected % 2 ^ 24 ∧ x.flit.crcOk = true) ∧
    (p.owed = false ∨ s.carries p.port d = false → exec (.ackTimer d) s = .next s)) ∧
  (∀ (s : State) (d : Nat), let p := s.pair d
    p.unacked ≠ [] → p.unreachable = false → ∃ t new, exec (.replayTimeout d) s = .next t ∧ sameChip s t ∧
      (t.pair d).replays = p.replays + 1 ∧
      (t.lport p.port).replayed = (s.lport p.port).replayed + p.unacked.length ∧ t.dev.sent = s.dev.sent ++ new ∧
      (s.carries p.port d = false → t.pair d = { p with replays := p.replays + 1, resend := p.unacked } ∧ new = []) ∧
      (s.carries p.port d = true → (t.pair d).resend = [] ∧ (new.map (·.flit)).take p.unacked.length = p.unacked)) ∧
  (∀ (s : State) (d : Nat), (s.pair d).unacked ≠ [] → (s.pair d).unreachable = false → hostRing s →
    (s.treePosts d = [] → ∃ t, exec (.pairUnreachable d) s = .next t ∧ (t.pair d).unreachable = true ∧
      (t.pair d).unacked = [] ∧ t.tile.core = s.tile.core ∧ t.tile.win = s.tile.win ∧
      t.tile.jobs = s.tile.jobs.map fun (j : Job) =>
        if (∃ a ∈ j.acks, a.1 = d) ∧ j.status = 0 then { j with status := 8, acks := [] } else j) ∧
    (∀ i p j tr u, s.treePosts d = [(i, p)] → s.tree? i = some tr → s.logical tr.ctx p.tile = some u → s.getTile u.phys = u →
      u.job? p.slot = some j → u.stat = .running →
      ∃ t, exec (.pairUnreachable d) s = .next t ∧ (t.getTile u.phys).job? p.slot = none ∧
        (t.getTile u.phys).core = u.core.landToken j.sq (j.tok.getD 0) 8)) ∧
  (∀ (s : State) (k i : Nat), k < 128 → i < 4 →
    (∃ t, exec (.laserPowerLow k i) s = .next t ∧ sameChip s t ∧
      (t.lport k).inputs.getD i .dark = lowered ((s.lport k).inputs.getD i .dark) ∧
      ∀ m, m ≠ i → (t.lport k).inputs.getD m .dark = (s.lport k).inputs.getD m .dark) ∧
    (∃ t, exec (.laserPowerHigh k i) s = .next t ∧ sameChip s t ∧
      (t.lport k).inputs.getD i .dark = raised ((s.lport k).inputs.getD i .dark) ∧
      ∀ m, m ≠ i → (t.lport k).inputs.getD m .dark = (s.lport k).inputs.getD m .dark) ∧
    ((s.lport k).inputs.getD i .dark = .fading → hostRing s → ∃ t, exec (.laserInputLost k i) s = .next t ∧ sameChip s t ∧
      (t.lport k).inputs = (s.lport k).inputs.setIfInBounds i .dark ∧
      (((s.lport k).setInput i .dark).lit = 0 → (s.dev.pairs.map (·.dev)).Nodup →
        ∀ d ∈ s.pairsOn k, (t.pair d).port = s.otherPort k)) ∧
    ((s.lport k).inputs.getD i .dark = .waking → hostRing s → ∃ t, exec (.laserInputRestored k i) s = .next t ∧ sameChip s t ∧
      t.lport k = { s.lport k with inputs := (s.lport k).inputs.setIfInBounds i .lit, stripe := 0 }))

/-- The events of the layer manager (R362 to R366, R371, R374, R376): a queued load starts where room can be made, its layer
LOADING; a load completes with every byte of WSRC at STAGE, the layer RESIDENT and its generation one more; one whose entry,
grant, budget, pages or data do not allow it fails, the layer FAILED and every tile that waits for it told so; the limit of
`lwait` raises swap-timeout. A machine that has resynchronised is TRIPLEX again (R393), and a resource takes up the shares last
commanded at its window (R396).
The model's choices in it: log entries 14, 53, 54 and 91. -/
def Obligations.LayerEvents : Prop :=
  (∀ (s : State) (r : LoadReq) (o : Obj), s.dev.loading.length < 8 → s.dev.reqs = [r] → s.obj? r.obj = some o →
    s.memWf = true → hostRing s →
    (∀ evs v, Agreed s .layers v → s.startRoom o r.layer = some evs → ∃ t, exec .layerLoadStart s = .next t ∧
      t.dev.reqs = [] ∧ t.dev.loading = s.dev.loading ++ [{ r with cause := (s.loadRefused o r.layer).getD 0 }] ∧
      t.layerState o r.layer = 1 ∧ t.tile = s.tile ∧
      t.others = s.others ∧ (evs = [] → ∀ a, a < entryAddr o r.layer + 0x30 ∨ entryAddr o r.layer + 0x38 ≤ a →
        t.dev.near.readByte a = s.dev.near.readByte a)) ∧
    (s.startRoom o r.layer = none ∨ (s.dev.votedBy .layers).state = .stopped → exec .layerLoadStart s = .next s)) ∧
  (∀ (s : State) (num l : Nat) (o : Obj) (q : LoadReq), s.loadingLayer num l = some (o, q) → s.memWf = true → hostRing s →
    ∀ v, Agreed s .layers v →
    let stage := s.layerStage o l
    let size := s.layerSize o l
    let pasid := ((s.ctx? o.ctx).map (·.pasid)).getD 0
    (s.loadFails o q = none → stage + size ≤ o.addr ∨ o.addr + 64 * (s.objLayers o + 1) ≤ stage →
      ∃ t, exec (.layerLoadComplete num l) s = .next t ∧ t.layerState o l = 2 ∧
        resGen (t.res o l) = (resGen (s.res o l) + 1) % 2 ^ 24 ∧
        (∀ k, k < size → t.dev.near.readByte (stage + k) =
          ((s.loadLoc pasid (s.layerSrc o l + k)).map (s.locByte o.ctx 0)).getD 0) ∧
        (∀ q ∈ t.dev.loading, ¬ (q.obj = num ∧ q.layer = l)) ∧ t.tile = s.tile ∧ t.others = s.others) ∧
    (∀ cause, s.loadFails o q = some cause → exec (.layerLoadComplete num l) s = .next s ∧
      ∃ t, exec (.layerLoadFail num l cause) s = .next t ∧ t.layerState o l = 3 ∧
      (∀ q ∈ t.dev.loading, ¬ (q.obj = num ∧ q.layer = l)) ∧ t.tile = s.tile.failWait num l ∧
      t.others = s.others.map fun y => y.failWait num l)) ∧
  (∀ (s : State) (o : FDA), s.tile.stat = .running → s.tile.core.lwlim ≠ 0 →
    1024 * s.tile.core.lwlim.toNat < s.tile.lwCount → s.iss.pc = s.tile.core.pc → decodeWord s.iss.raw = .ok (.lwait o) →
    exec .lwaitTimeout s =
      .next (s.enterTrap .swapTimeout s.tile.core.pc (s.tile.core.reg o.a) 0 s.iss.word s.iss.len 0)) ∧
  (∀ (s : State) (m : Nat), (s.dev.machine m).state = .resync → (s.dev.machine m).struck = 0 →
    ∃ t, exec (.resyncComplete m) s = .next t ∧ t.dev.machine m = { s.dev.machine m with state := .triplex } ∧
      t.dev.vres = s.dev.vres + 1 ∧ sameChip s t) ∧
  ∀ (s : State) (r : Nat), ∃ t, exec (.budgetWindow r) s = .next t ∧ sameChip s t ∧
    t.dev.windows.find? (fun p => decide (p.1 = r)) = some (r, s.dev.shares) ∧
    ∀ k, k ≠ r → t.dev.windows.find? (fun p => decide (p.1 = k)) = s.dev.windows.find? (fun p => decide (p.1 = k))

/-! ### Commands -/

namespace Sys2Proof.Claims

/-- It is the turn of a command of its queue (R404), it is well formed (R403), and the copies of the machine that carries it
out agree: its output takes effect on v. -/
structure Turn (s v : State) (q sq typ : Nat) (x : Queue) (c : Cmd) : Prop where
  queue : s.queue? q = some x
  cmd : s.cmd? q sq = some c
  kind : c.typ = typ
  may : s.mayStart x c = true
  body : c.bodyOk = true
  agreed : Agreed s (c.by q) v

/-- The command has completed with a status. -/
def ended (t : State) (q sq st : Nat) : Prop := ∃ c, t.cmd? q sq = some c ∧ c.state = .done ∧ c.status = st

/-- Its completion is not written to memory (NTF of R399 is 0). -/
def noWord (c : Cmd) : Prop := c.word 0 / 2 ^ 8 % 2 = 0

/-- A COPY whose card is a plain copy of n bytes within the near store, every page translated. -/
structure NearCopy (s : State) (t : Tile) (j : Job) (sa da n : Nat) : Prop where
  mode : j.cardOf.mode = 0
  fmts : j.cardOf.sf ≠ 9 ∧ j.cardOf.sf ≠ 10 ∧ j.cardOf.df ≠ 9 ∧ j.cardOf.df ≠ 10
  ext : j.cardOf.ext.getD 0 0 = n
  ok : j.cardOf.refused .cpy [] = false
  status : s.jobStatus t j j.cardOf = 0
  near : 0x80000000 ≤ sa ∧ 0x80000000 ≤ da ∧ sa + n ≤ 0x100000000 ∧ da + n ≤ 0x100000000
  apart : sa + n ≤ da ∨ da + n ≤ sa
  src : ∀ k, k < n → s.jobLoc t j (j.cardOf.src + k) = some (.chip (sa + k))
  dst : ∀ k, k < n → s.jobLoc t j (j.cardOf.dst + k) = some (.chip (da + k))

end Sys2Proof.Claims

/-- The commands of R400 and what carries them out. A fetch takes the next sixteen words of the ring and moves the head (R397);
SIGNAL, WAIT, FENCE and COPY do what R400 says and complete with status 0, the status and sequence number written where NTF
asks for it (R399); a LAUNCH becomes a launch, whose identifiers bind to idle tiles (R118, R122); TREE does what the Hydin
instruction does; POWER waits for its point. Work whose machine is stopped waits (R393).
The model's choices in it: log entries 14, 69, 71, 72, 74, 75 and 118. -/
def Obligations.Commands : Prop :=
  (∀ (s : State) (x : Queue), s.queue? 0 = some x → (x.cmds.find? fun c => !c.known && s.mayStart x c) = none →
    s.dev.host.stage = 6 → x.state = .active → x.head % 2 ^ x.logn ≠ s.dev.doorbell 0 % 2 ^ x.logn →
    ∀ v, Agreed s (.processor 0) v → ∃ t y, exec (.commandFetch 0) s = .next t ∧ t.queue? 0 = some y ∧ y.head = x.head + 1 ∧
      y.cmds = x.cmds ++ [⟨x.head, cmdWords (s.dev.hostMem.read (x.ring + 64 * (x.head % 2 ^ x.logn)) 64), .fetched, 0, false, 0,
        [], 0, none, [], []⟩] ∧ sameChip s t ∧ t.dev.votes = v.dev.votes) ∧
  (∀ (s v : State) (q sq : Nat) (x : Queue) (c : Cmd), Turn s v q sq 8 x c → (∀ e ∈ x.cmds, e.sq < sq → e.state = .done) →
    noWord c →
    ∃ t, exec (.fence q sq) s = .next t ∧ ended t q sq 0 ∧ sameChip s t ∧ t.dev.hostMem = s.dev.hostMem) ∧
  (∀ (s v : State) (sq : Nat) (x : Queue) (c : Cmd), Turn s v 0 sq 8 x c → (∀ e ∈ x.cmds, e.sq < sq → e.state = .done) →
    ¬ noWord c → s.memWf = true → ∃ t, exec (.fence 0 sq) s = .next t ∧ ended t 0 sq 0 ∧ sameChip s t ∧
      t.dev.hostMem.readNat (c.dword 8) 8 = sq % 2 ^ 56 ∧
      ∀ a, a < c.dword 8 ∨ c.dword 8 + 8 ≤ a → t.dev.hostMem.readByte a = s.dev.hostMem.readByte a) ∧
  (∀ (s v : State) (sq : Nat) (x : Queue) (c : Cmd), Turn s v 0 sq 3 x c → (∀ e ∈ x.cmds, e.sq < sq → e.state = .done) → noWord c →
    s.memWf = true → let va := c.dword 0x10
    va % 8 = 0 → ∃ t, exec (.signal 0 sq) s = .next t ∧ ended t 0 sq 0 ∧ sameChip s t ∧
      t.dev.hostMem.readNat va 8 = (s.dev.hostMem.readNat va 8 + c.dword 0x18) % 2 ^ 64 ∧
      ∀ a, a < va ∨ va + 8 ≤ a → t.dev.hostMem.readByte a = s.dev.hostMem.readByte a) ∧
  (∀ (s v : State) (sq : Nat) (x : Queue) (c : Cmd), Turn s v 0 sq 4 x c → noWord c → let va := c.dword 0x10
    va % 8 = 0 →
    (c.dword 0x18 ≤ s.dev.hostMem.readNat va 8 →
      ∃ t, exec (.wait 0 sq) s = .next t ∧ ended t 0 sq 0 ∧ sameChip s t ∧ t.dev.hostMem = s.dev.hostMem) ∧
    (s.dev.hostMem.readNat va 8 < c.dword 0x18 → ∃ t, exec (.wait 0 sq) s = .next t ∧
      t.cmd? 0 sq = some { c with state := .started } ∧ sameChip s t ∧ t.dev.hostMem = s.dev.hostMem)) ∧
  (∀ (s v : State) (sq : Nat) (c : Cmd), s.cmd? 0 sq = some c → c.typ = 4 → c.state = .started → noWord c →
    Agreed s (c.by 0) v →
    let va := c.dword 0x10
    va % 8 = 0 → c.dword 0x18 ≤ s.dev.hostMem.readNat va 8 →
    ∃ t, exec (.waitSatisfied 0 sq) s = .next t ∧ ended t 0 sq 0 ∧ sameChip s t ∧ t.dev.hostMem = s.dev.hostMem) ∧
  (∀ (s v : State) (q sq : Nat) (x : Queue) (c : Cmd) (k : Ctx) (bs : List Byte) (sa da n : Nat), Turn s v q sq 2 x c → q ≠ 0 →
    noWord c → s.memWf = true → c.early = 0 → c.acks = [] → c.phase = 0 → c.frame = none → c.state ≠ .started → let u := v.beginCmd q c
    u.ctx? x.ctx = some k → c.dword 0x10 % 16 = 0 → u.cmdRead k.pasid (c.dword 0x10) 128 = .ok bs →
    let j := migrationJob q c ((List.range 32).map fun i => BitVec.ofNat 32 (fieldAt bs (4 * i) 4))
    NearCopy { u with free := u.free + 2 } (u.migrator k) j sa da n → (∀ b ∈ u.barsInUse none, b.1 + 16 ≤ da ∨ da + n ≤ b.1) →
    j.cardOf.src + n ≤ 2 ^ 57 → j.cardOf.dst + n ≤ 2 ^ 57 →
    ∃ t, exec (.copy q sq) s = .next t ∧ ended t q sq 0 ∧ t.tile = s.tile ∧ t.others = s.others ∧
      (∀ i, i < n → t.dev.near.readByte (da + i) = s.dev.near.readByte (sa + i)) ∧
      ∀ a, a < da ∨ da + n ≤ a → t.dev.near.readByte a = s.dev.near.readByte a) ∧
  (∀ (s v : State) (q sq : Nat) (x : Queue) (c : Cmd) (k : Ctx) (lb code : List Byte) (base : Nat), Turn s v q sq 1 x c → q ≠ 0 →
    x.priv = true ∨ c.word 0x20 / 2 ^ 16 % 2 = 0 → let u := v.beginCmd q c
    let h := Header.ofBytes lb
    let list := u.placements k.num (if c.word 0x20 % 65536 = 0 then k.ntile else c.word 0x20 % 65536) h.rlen
    u.ctx? x.ctx = some k → x.depOk c = true → c.dword 0x10 % 8 = 0 → u.cmdRead k.pasid (c.dword 0x10) 0x68 = .ok lb →
    h.refused (c.dword 0x18) = none → c.dword 0x18 ≠ 0 → c.word 0x20 % 65536 ≤ k.ntile → list ≠ [] →
    u.cmdRead k.pasid (fieldAt lb 0x40 8) (12 * h.size) = .ok code → u.codeRoom h.size = some base →
    u.dev.binds.length + (u.bindsOf k.num u.dev.lseq h.rlen list).length ≤ 4096 → u.launch? q sq = none → fieldAt lb 0x58 4 = 0 →
    fieldAt lb 0x5C 4 = 0 →
    ∃ t l, exec (.launch q sq) s = .next t ∧ t.cmd? q sq = some { c with state := .started } ∧ t.launch? q sq = some l ∧
      l.ctx = k.num ∧ l.n = c.dword 0x18 ∧ l.lseq = u.dev.lseq ∧ t.dev.lseq = u.dev.lseq + 1 ∧ l.next = 0 ∧ l.live = 0 ∧ l.entry = BitVec.ofNat 20 h.entry ∧ l.list = list ∧
      l.task.imgBase = base ∧ l.task.spad = h.spad ∧ t.dev.near = s.dev.near) ∧
  (∀ (s : State) (i p : Nat) (l : Launch) (u : Tile), s.dev.launches[i]? = some l → l.started = true → l.next < l.n →
    s.ctxRuns l.ctx = true → s.bindPlace l = some (p, [u]) → l.task.rlen = 1 →
    ∀ v, Agreed s .dispatch v → ∃ t, exec (.taskBind i) s = .next t ∧ (t.getTile u.phys).stat = .running ∧
      (t.getTile u.phys).core.pc = l.entry ∧
      (t.getTile u.phys).task.wid = BitVec.ofNat 64 l.next ∧
      t.dev.launches[i]? = some { l with
        next := l.next + 1
        live := l.live + 1
        freed := [] } ∧ t.dev.near = s.dev.near) ∧
  (∀ (s : State) (i : Nat) (l : Launch), s.dev.launches[i]? = some l → l.started = false →
    (s.depMet l = true → s.ctxRuns l.ctx = true → l.image.spadSz = 0 → l.image.nearSz = 0 → ∀ v, Agreed s .firmware v →
      ∃ t, exec (.launchDependentStart i) s = .next t ∧
      t.dev.launches[i]? = some { l with started := true } ∧ t.dev.near.cells = s.dev.near.cells) ∧
    (s.depMet l = false ∨ s.ctxRuns l.ctx = false → exec (.launchDependentStart i) s = .next s)) ∧
  (∀ (s v : State) (q sq sub : Nat) (x : Queue) (c : Cmd), Turn s v q sq 5 x c → c.sub = sub → c.dword 0x18 = 0 →
    x.priv = true ∨ c.word 0x20 = x.ctx → let u := v.beginCmd q c
    let ctx := c.word 0x20
    let a := c.word 0x10
    let bs := (List.range 64).map fun i => u.nearByte (a + i)
    (u.ctx? ctx).isSome = true → (sub < 2 → a % 64 = 0 ∧ u.nearRange ctx a 64 = true) →
    (sub = 0 → let r := u.makeTree ctx bs u.nearByte (u.nearRange ctx)
      exec (.treeMake q sq) s = .next (r.2.completeCmd q sq (if 0x1000 ≤ r.1.toNat then 0 else 9))) ∧
    (sub = 1 → let r := u.editTree ctx (BitVec.ofNat 32 (c.word 0x14)) bs u.nearByte (u.nearRange ctx)
      exec (.treeEdit q sq) s = .next (r.2.completeCmd q sq (if r.1 = 0 then 0 else 9))) ∧
    (sub = 2 → let r := u.freeHandle ctx (BitVec.ofNat 32 (c.word 0x14))
      exec (.treeFree q sq) s = .next (r.2.completeCmd q sq (if r.1 = 0 then 0 else 9)))) ∧
  (∀ (s : State) (q sq : Nat) (x : Queue) (c : Cmd), s.queue? q = some x → s.cmd? q sq = some c → c.state = .fetched →
    (s.dev.votedBy (c.by q)).state = .stopped → s.launch? q sq = none →
    ∀ i ∈ [Instr.launch q sq, .copy q sq, .signal q sq, .wait q sq, .fence q sq, .treeMake q sq, .treeEdit q sq, .treeFree q sq,
      .power q sq, .ctxCreate q sq, .ctxDestroy q sq, .ctxPreempt q sq, .ctxRestore q sq], exec i s = .next s) ∧
  ∀ (s v : State) (q sq : Nat) (x : Queue) (c : Cmd), Turn s v q sq 7 x c → x.priv = true →
    ∃ t, exec (.power q sq) s = .next t ∧ t.cmd? q sq = some { c with state := .started } ∧ sameChip s t ∧
      t.dev.point = s.dev.point

/-- The commands of R402 on a queue with PRIV. CREATE makes a context on tiles of the pool; DESTROY resets every tile of it;
PREEMPT enters Drain, or Save; RESTORE resumes what stands in the save area, of this device or, its pinned layers RESIDENT
first, of another (R375); QUEUE, RESUMEQ, GRANT, HANDLER, OBJECT, OBJRESET, BUDGET, INVAL, FAULT and EVRING change the one
table they name; each then completes with status 0.
The model's choices in it: log entries 14 (what counts as one output of a voted machine), 69, 76, 77, 79, 81, 82, 83 and 117. -/
def Obligations.ContextCommands : Prop :=
  ∀ (s v : State) (q sq sub : Nat) (x : Queue) (c : Cmd), Turn s v q sq 6 x c → c.sub = sub → x.priv = true →
    let u := v.beginCmd q c
    (sub = 0 → noWord c → let n := c.word 0x10 / 2 ^ 16 % 1024
      1 ≤ n → n ≤ 512 → c.dword 0x18 % 4096 = 0 → c.dword 0x20 % 4096 = 0 → u.ctx? (c.word 0x10 % 64) = none →
      n ≤ u.poolTiles.length → ∃ t k, exec (.ctxCreate q sq) s = .next t ∧ ended t q sq 0 ∧
        t.ctx? (c.word 0x10 % 64) = some k ∧ k.state = .run ∧ k.pasid = c.word 0x14 ∧ k.ptroot = c.dword 0x18 ∧ k.ntile = n ∧
        (∀ i p, i < n → u.poolTiles[i]? = some p → (t.getTile p).stat = .idle ∧ (t.getTile p).ctx = k.num ∧
          (t.getTile p).ltile = i ∧ (t.getTile p).pasid = BitVec.ofNat 20 k.pasid) ∧ t.dev.near = s.dev.near) ∧
    (sub = 1 → ∀ k, u.ctx? (c.word 0x10) = some k → k.state ≠ .dead → k.state ≠ .reset →
      ∃ t k', exec (.ctxDestroy q sq) s = .next t ∧ t.ctx? (c.word 0x10) = some k' ∧ k'.state = .reset ∧ k'.endCause = 8 ∧
        (q, sq) ∈ k'.waiters ∧ ∀ y ∈ s.tilesOf (c.word 0x10), (t.getTile y.phys).stat = .stopped) ∧
    (sub = 2 → ∀ y k, u.queue? (c.word 0x10) = some y → y.num ≠ 0 → y.state ≠ .dead → u.ctx? y.ctx = some k → k.state = .run →
      u.saveNeed k ≤ k.saveSz →
      ∃ t k', exec (.ctxPreempt q sq) s = .next t ∧ t.ctx? k.num = some k' ∧
        (y.t1 ≠ 0 → (k'.state = .drain ∧ (q, sq) ∈ k'.waiters ∨ k'.state = .preempted) ∧ k'.rung = 1) ∧
        (y.t1 = 0 → y.t2 ≠ 0 → k'.state = .save ∧ k'.rung = 2 ∧ (q, sq) ∈ k'.waiters) ∧
        (y.t1 = 0 → y.t2 = 0 → k'.state = .reset ∧ k'.rung = 3)) ∧
    (sub = 3 → c.dword 0x18 % 4096 = 0 → c.dword 0x20 % 4096 = 0 → ∀ old pl,
      u.savedAt (u.queuePasid x) (c.dword 0x20) = some old → c.word 0x10 % 64 = old.num ∨ u.ctx? (c.word 0x10 % 64) = none →
      u.savedFeat old &&& 0x7F = u.savedFeat old → u.placement old = some pl →
      exec (.ctxRestore q sq) s = .next (State.completeCmd (u.resume old c (u.queuePasid x) pl) q sq 0)) ∧
    (sub = 3 → c.dword 0x18 % 4096 = 0 → c.dword 0x20 % 4096 = 0 → ∀ i pl bs w,
      u.savedAt (u.queuePasid x) (c.dword 0x20) = none → u.broughtAt (u.queuePasid x) (c.dword 0x20) = some i →
      u.ctx? (c.word 0x10 % 64) = none → featUnion i.launches &&& 0x7F = featUnion i.launches →
      u.placement i.ctx = some pl → u.imageFits i = true → placeImages u.usedCode i.images = some bs →
      let j := (i.rebase bs).place c pl
      (u.install j).stagePins j.ctx = .ok w →
      exec (.ctxRestore q sq) s = .next (State.completeCmd (w.resume j.ctx c (u.queuePasid x)
        (j.ctx.saved.map fun y => (y.phys, y.phys))) q sq 0)) ∧
    (sub = 4 → c.dword 0x10 % 64 = 0 → c.dword 0x38 = 0 → ∀ d n, u.cmdRead (u.queuePasid x) (c.dword 0x10) 64 = .ok d →
      (queueOf 0 d).descOk = true → (u.runningCtx (queueOf 0 d).ctx).isSome = true → 1 ≤ n → n < 256 → u.queue? n = none →
      (∀ i, 1 ≤ i → i < n → u.queue? i ≠ none) →
        exec (.ctxQueue q sq) s = .next (State.completeCmd (u.addQueue (queueOf n d)) q sq 0)) ∧
    (sub = 5 → ∀ y, u.queue? (c.word 0x10) = some y → y.state = .faulted →
      exec (.ctxResumeq q sq) s = .next (State.completeCmd (u.putQueue { y with state := .active, fcause := 0 }) q sq 0)) ∧
    (sub = 6 → let n := c.word 0x10 % 64
      let base := c.word 0x14
      let len := c.word 0x18
      (u.ctx? n).isSome = true → base % 65536 = 0 → len % 65536 = 0 → len = 0 ∨ (0x80000000 ≤ base ∧ base + len ≤ 2 ^ 32) →
      exec (.ctxGrant q sq) s = .next (State.completeCmd (u.modCtx n fun k =>
        { k with alloc := k.alloc.setIfInBounds (c.word 0x10 / 2 ^ 8 % 4) (base, len) }) q sq 0)) ∧
    (sub = 7 → noWord c → let n := c.word 0x10
      let size := c.word 0x14
      let entry := c.word 0x18
      ∀ k bs base, u.runningCtx n = some k → 1 ≤ size → size ≤ 87381 → entry < size → c.dword 0x20 % 4096 = 0 →
      u.cmdRead (u.queuePasid x) (c.dword 0x20) (12 * size) = .ok bs → u.codeRoom size = some base →
      ∃ t k', exec (.ctxHandler q sq) s = .next t ∧ ended t q sq 0 ∧ t.ctx? n = some k' ∧ k'.hBase = base ∧ k'.hSize = size ∧
        k'.tvec = BitVec.ofNat 20 entry ∧ ∀ y ∈ s.tilesOf n, (t.getTile y.phys).tvec = BitVec.ofNat 20 entry) ∧
    (sub = 8 → c.dword 0x38 = 0 → let a := c.word 0x14
      a % 64 = 0 → 0x80000000 ≤ a → ∀ k n, u.runningCtx (c.word 0x10) = some k → n < 256 → u.obj? n = none →
      (∀ i, i < n → u.obj? i ≠ none) → u.objRefused k a = none →
      exec (.ctxObject q sq) s = .next (State.completeCmd (u.register ⟨n, a, k.num⟩) q sq 0)) ∧
    (sub = 9 → noWord c → s.memWf = true → ∀ o, u.obj? (c.word 0x10) = some o →
      ∃ t, exec (.ctxObjreset q sq) s = .next t ∧ ended t q sq 0 ∧ t.tile = s.tile ∧ ∀ i, i < s.objLayers o →
        t.layerState o i = (if s.layerState o i = 3 then 0 else s.layerState o i) ∧
        (s.layerState o i = 3 → ∃ r ∈ t.dev.reqs, r.obj = o.num ∧ r.layer = i)) ∧
    (sub = 10 → let sh (i : Nat) : Nat := c.word (0x10 + i / 4 * 4) / 2 ^ (8 * (i % 4)) % 256
      sh 0 + sh 1 + sh 2 + sh 3 + sh 4 + sh 5 + sh 6 + sh 7 ≤ 64 →
      ∃ t, exec (.ctxBudget q sq) s = .next t ∧ ended t q sq 0 ∧ ∀ i (h : i < 8), t.dev.shares[i] = sh i) ∧
    (sub = 11 → c.dword 0x18 % 4096 = 0 → c.dword 0x20 % 4096 = 0 →
      exec (.ctxInval q sq) s = .next (State.completeCmd (if c.dword 0x20 = 0 then u.invalidate (c.word 0x10) 0 (2 ^ 57)
        else u.invalidate (c.word 0x10) (c.dword 0x18) (c.dword 0x18 + c.dword 0x20)) q sq 0)) ∧
    (sub = 12 → noWord c → ∀ k y j, let slot := c.word 0x18
      u.ctx? (c.word 0x10) = some k → c.word 0x14 ≠ 0x1FF → slot < 96 → u.logical k.num (c.word 0x14) = some y →
      y.job? slot = some j → j.state = .parked → ∃ t, exec (.ctxFault q sq) s = .next t ∧ ended t q sq 0 ∧
        (t.getTile y.phys).job? slot = some { j with state := .running, status := if c.word 0x1C = 1 then 1 else j.status } ∧
        (t.getTile y.phys).core = y.core) ∧
    (sub = 13 → c.dword 0x10 % 4096 = 0 → 4 ≤ c.word 0x18 → c.word 0x18 ≤ 16 → u.dev.early = [] →
      ∃ t, exec (.ctxEvring q sq) s = .next t ∧ ended t q sq 0 ∧
        t.dev.evRing = some (u.queuePasid x, c.dword 0x10, c.word 0x18) ∧ t.dev.host.evhead = 0 ∧ t.dev.host.evtail = 0)

/-! ### The ladder and the platform -/

namespace Sys2Proof.Claims

/-- The device in its reset state at stage 0: only the tiles that are out of the pool for good are retired (R24, R430). -/
def startsAfresh (s t : State) : Prop :=
  t.dev.host = HostRegs.reset ∧ t.dev.ctxs = [] ∧ t.dev.queues = [] ∧
    (s.tile.stat ≠ .retired → s.tile.doomed = false → t.tile = Tile.reset s.tile.phys) ∧
    (s.tile.stat = .retired ∨ s.tile.doomed = true → t.tile.stat = .retired) ∧ ∀ y ∈ t.others, y.stat = .retired

end Sys2Proof.Claims

/-- The ladder (R407, R408, R410): T1 ends Drain, T2 ends Save; a saved context is PREEMPTED, its granted near store in the
save area; an ended one is gone, with its trees and objects. Where the copies of a voted machine disagree, the one that differs
is resynchronised, or the machine stops, with its queues FAULTED (R393). The host's side (R425 to R433): reset, bring-up, the
registers, CXL.mem, frames, operating points and thermal trips.
The model's choices in it: log entries 14, 77, 78, 79, 84, 85, 86, 87, 117 and 120. -/
def Obligations.LadderAndPlatform : Prop :=
  (∀ (s v : State) (n : Nat) (k : Ctx), s.ctx? n = some k → s.dev.tripped = false → Agreed s .firmware v →
    (k.state = .drain → ∃ t k', exec (.drainTimeout n) s = .next t ∧ t.ctx? n = some k' ∧
      (k.t2 ≠ 0 → k'.state = .save ∧ k'.rung = 2) ∧ (k.t2 = 0 → k'.state = .reset ∧ k'.rung = 3)) ∧
    (k.state = .save → ∃ t k', exec (.saveTimeout n) s = .next t ∧ t.ctx? n = some k' ∧ k'.state = .reset ∧
      k'.rung = 3 ∧ k'.endCause = 0) ∧
    (k.state = .save → k.doom = none → (∀ y ∈ s.tilesOf n, y.recov.phase = .run) → let u := s.settleTiles n
      ∀ k1, u.ctx? n = some k1 → u.saveReady n = true → u.saveFits k = true → u.memWf = true → hostRing u →
      ∀ w, Agreed u .firmware w →
      ∃ t k', exec (.saveComplete n) s = .next t ∧ t.ctx? n = some k' ∧ k'.state = .preempted ∧ k'.rung = 2 ∧ k'.waiters = [] ∧
        ∀ g ∈ k1.grants.toList, g.rights ≠ 0 → ∀ a, g.base ≤ a → a < g.base + g.len →
          k'.savedNear.readByte a = u.dev.near.readByte a) ∧
    (k.state = .reset → k.doom = none → s.flitsDone k = true → ∃ t, exec (.contextQuiesced n) s = .next t ∧ t.ctx? n = none ∧
      (∀ y ∈ t.dev.trees, y.ctx ≠ n) ∧ ∀ y ∈ t.dev.objs, y.ctx ≠ n)) ∧
  (∀ s : State, ∃ t, exec .powerOn s = .next t ∧ startsAfresh s t) ∧
  (∀ s : State, ∃ t, exec .hctlHrst s = .next t ∧ startsAfresh s t) ∧
  (∀ s : State, let h := s.dev.host
    (h.stage = 0 → exec (.bringupStageDone true) s = .next { s with dev := { s.dev with host := { h with stage := 1 } } }) ∧
    (h.stage = 1 → exec (.bringupStageDone true) s =
      .next { s with dev := { s.dev with near := Mem.empty, host := { h with stage := 2 } } }) ∧
    (h.stage = 2 → h.go = false → exec (.bringupStageDone true) s =
      .next { s with dev := { s.dev with lpddr := Mem.empty, host := { h with stage := 3 } } }) ∧
    (h.stage = 3 → exec .hctlGo s =
      .next { s with dev := { s.dev with devid := h.devid, host := { h with stage := 4, go := false } } }) ∧
    (h.stage = 4 → h.fail = false →
      exec (.bringupStageDone false) s = .next { s with dev := { s.dev with host := { h with fail := true } } } ∧
      ∃ t, exec (.bringupStageDone true) s = .next t ∧ t.dev.host = { h with stage := 5 } ∧ sameChip s t) ∧
    (h.stage = 5 → h.rschpa = 0 → ∃ t x, exec (.bringupStageDone true) s = .next t ∧ t.dev.host = { h with stage := 6 } ∧
      t.dev.rotor = none ∧ t.dev.queues = [x] ∧ x.num = 0 ∧ x.priv = true ∧ x.ring = h.q0ring.toNat ∧ x.head = 0)) ∧
  (∀ (s : State) (m : Nat),
    ((s.dev.machine m).state = .stopped → ∃ t, exec (.mrst m) s = .next t ∧ sameChip s t ∧
      t.dev.machine m = { s.dev.machine m with state := .triplex, struck := 0 }) ∧
    ((s.dev.machine m).agrees = true → ∃ t, exec (.mrst m) s = .next t ∧ sameChip s t ∧ t.dev.vres = s.dev.vres + 1 ∧
      t.dev.machine m = { s.dev.machine m with state := .triplex, struck := 0 }) ∧
    ((s.dev.machine m).state ≠ .stopped → (s.dev.machine m).agrees = false → hostRing s → ∃ t, exec (.mrst m) s = .next t ∧ sameChip s t ∧
      t.dev.vstop = s.dev.vstop + 1 ∧ t.dev.machine m = { s.dev.machine m with state := .triplex, struck := 0 })) ∧
  (∀ (s : State) (o : Voted) (go : State → State), let m := s.dev.votedBy o
    (m.state = .triplex → m.struck = 1 → hostRing s → ∃ u, s.applied o go = go u ∧ sameChip s u ∧
      u.dev.machine m.num = { m with state := .resync, struck := 0 } ∧ u.dev.vdis = s.dev.vdis + 1) ∧
    ((m.state = .triplex ∧ 2 ≤ m.struck) ∨ (m.state = .resync ∧ 1 ≤ m.struck) →
      (s.applied o go).dev.machine m.num = { m with state := .stopped, struck := 0 } ∧
      (s.applied o go).dev.vstop = s.dev.vstop + 1 ∧
      ∀ q ∈ m.queues, ∀ y, (s.applied o go).queue? q = some y → y.state ≠ .active) ∧
    (m.state = .stopped → s.applied o go = s)) ∧
  (∀ (s : State) (v : Nat), exec (.evhead v) s =
    .next { s with dev := { s.dev with host := { s.dev.host with evhead := BitVec.ofNat 32 v } } }) ∧
  (∀ (s : State) (q tail : Nat), q < 256 → ∃ t, exec (.dbell q tail) s = .next t ∧ sameChip s t ∧
    t.dev.doorbell q = tail % 65536 ∧ ∀ k, k ≠ q → t.dev.doorbell k = s.dev.doorbell k) ∧
  (∀ (s : State) (v : Nat), s.dev.host.stage ≤ 3 → exec (.hostRegisterWrite 8 v false) s =
    .next { s with dev := { s.dev with host := { s.dev.host with devid := BitVec.ofNat 12 v } } }) ∧
  (∀ s : State, exec (.hostRegisterWrite 4 0 false) s =
    .next { s with dev := { s.dev with host := { s.dev.host with go := false } } }) ∧
  (∀ (s : State) (v : Nat), v < 2 ^ 64 → exec (.hostRegisterWrite 0x30 v true) s =
    .next { s with dev := { s.dev with host := { s.dev.host with q0ring := BitVec.ofNat 64 v } } }) ∧
  (∀ (s : State) (near : Bool) (a n : Nat), let size := if near then 0x80000000 else 768 * 2 ^ 30
    let m := if near then s.dev.near else s.dev.lpddr
    let base := if near then 0x80000000 else 0
    (a + n ≤ size → m.bad = [] → ∃ t, exec (.cxlMemRead near a n) s = .next t ∧ t.dev.hostRead = m.read (base + a) n ∧
      t.tile = s.tile ∧ t.others = s.others) ∧
    (size < a + n → exec (.cxlMemRead near a n) s = .fault .hostAddressAbsent)) ∧
  (∀ (s : State) (near : Bool) (a : Nat) (bs : List Byte), s.memWf = true → let size := if near then 0x80000000 else 768 * 2 ^ 30
    let m := if near then s.dev.near else s.dev.lpddr
    let base := if near then 0x80000000 else 0
    (a + bs.length ≤ size → m.bad = [] →
      (near = true → ∀ b ∈ s.barsInUse none, b.1 + 16 ≤ base + a ∨ base + a + bs.length ≤ b.1) → ∃ t, exec (.cxlMemWrite near a bs) s = .next t ∧ t.tile = s.tile ∧
      let m' := if near then t.dev.near else t.dev.lpddr
      (∀ k b, bs[k]? = some b → m'.readByte (base + a + k) = b) ∧
      ∀ y, y < base + a ∨ base + a + bs.length ≤ y → m'.readByte y = m.readByte y) ∧
    (size < a + bs.length → exec (.cxlMemWrite near a bs) s = .fault .hostAddressAbsent)) ∧
  (∀ (s : State) (m : Nat), m < 4 → ∃ t, exec (.ucieModuleLoss m) s = .next t ∧ sameChip s t ∧
    ∀ i, i < 4 → t.dev.host.hlink.getLsbD i = (s.dev.host.hlink.getLsbD i && decide (i ≠ m))) ∧
  (∀ (s : State) (f : Frame),
    (f.fcsOk = true → exec (.frameReceive f) s =
      .next { s with dev := { s.dev with rxFrames := s.dev.rxFrames ++ [⟨f.port, s.dev.steered f, f.bytes⟩] } }) ∧
    (f.fcsOk = false → exec (.frameReceive f) s = .next { s with dev := { s.dev with frameDrops := s.dev.frameDrops + 1 } })) ∧
  (∀ (s : State) (n temp : Nat), 1680 ≤ temp → hostRing s → ∃ t, exec (.thermalTrip n temp) s = .next t ∧
    t.dev.tripped = true ∧ t.dev.host.temp = BitVec.ofNat 16 temp ∧ sameChip s t) ∧
  (∀ s : State, ∃ t, exec .thermalClear s = .next t ∧ sameChip s t ∧ t.dev.cool = s.dev.tripped ∧
    t.dev.host.temp.toNat < 95 * 16) ∧
  ∀ (s : State) (q sq n : Nat) (l : List (Nat × Nat × Nat)) (c : Cmd), s.dev.pointNext = (q, sq, n) :: l → s.cmd? q sq = some c →
    c.state = .started → s.dev.tripped = false ∨ s.dev.cool = true → noWord c → ∀ v, Agreed s .firmware v →
    ∃ t, exec .operatingPointInForce s = .next t ∧ ended t q sq 0 ∧ t.dev.point = n ∧ t.dev.pointNext = l ∧
      t.dev.tripped = false ∧ sameChip s t
end

