-- ==== Sys2Proof/Laws/Decode.lean ====
section
/-! SUPPORT. Encoding and decoding agree, piece by piece: the fields of a word (R28, R34), the operand fields (R35, R37), and
each shape of fields. -/

namespace Sys2Proof.Laws

theorem ofWord_toWord (c : Bool) (r : Raw) : Raw.ofWord (r.toWord c) = r := by
  obtain ⟨op, g, d, a, b, m⟩ := r
  simp only [Raw.ofWord, Raw.toWord, Raw.mk.injEq]
  refine ⟨?_, ?_, ?_, ?_, ?_, ?_⟩ <;>
  · ext i hi
    simp only [BitVec.getElem_extractLsb', BitVec.getLsbD_append]
    repeat' split
    all_goals first | omega | skip
    all_goals simp [BitVec.getLsbD_eq_getElem, *]
    all_goals congr 1 <;> omega

@[simp] theorem hi_append {n m : Nat} (x : BitVec n) (y : BitVec m) : (x ++ y).extractLsb' m n = x := by
  ext i hi
  simp [BitVec.getLsbD_append, BitVec.getLsbD_eq_getElem, hi]

@[simp] theorem lo_append {n m : Nat} (x : BitVec n) (y : BitVec m) : (x ++ y).extractLsb' 0 m = y := by
  ext i hi
  simp [BitVec.getLsbD_append, hi]

@[simp] theorem hi_triple (x y : BitVec 3) : @BitVec.extractLsb' 6 3 3 (x ++ y) = x := hi_append x y
@[simp] theorem lo_triple (x y : BitVec 3) : @BitVec.extractLsb' 6 0 3 (x ++ y) = y := lo_append x y

theorem off_fields (x : BitVec 8) : x.extractLsb' 2 6 ++ x.extractLsb' 0 2 = x := by
  ext i hi
  rw [BitVec.getElem_append]
  split
  · simp [BitVec.getLsbD_eq_getElem, hi]
  · simp [BitVec.getLsbD_eq_getElem, hi, show 2 + (i - 2) = i by omega]

theorem j14_fields (x : BitVec 14) : x.extractLsb' 8 6 ++ x.extractLsb' 2 6 ++ x.extractLsb' 0 2 = x := by
  ext i hi
  simp only [BitVec.getElem_append]
  repeat' split
  all_goals simp [BitVec.getLsbD_eq_getElem, hi]
  all_goals rw [BitVec.getLsbD_eq_getElem (by omega)]; congr 1; omega

theorem j20_fields (x : BitVec 20) :
    x.extractLsb' 14 6 ++ x.extractLsb' 8 6 ++ x.extractLsb' 2 6 ++ x.extractLsb' 0 2 = x := by
  ext i hi
  simp only [BitVec.getElem_append]
  repeat' split
  all_goals simp [BitVec.getLsbD_eq_getElem, hi]
  all_goals rw [BitVec.getLsbD_eq_getElem (by omega)]; congr 1; omega

theorem bop_fields {b : BOp} (h : b.wf = true) : BOp.ofFields b.fieldB b.fieldM = some b := by
  cases b <;> simp_all [BOp.wf, BOp.ofFields, BOp.fieldB, BOp.fieldM]

@[simp] theorem vop_field (v : VOp) : VOp.ofField v.field = v := by
  cases v <;> rename_i k <;> revert k <;> decide

theorem decode_of {i : Instr} (h : i.toRaw.toInstr = some i) (c : Bool) : decodeWord (encode c i) = .ok i := by
  simp [decodeWord, encode, ofWord_toWord, h]

theorem ofFJ_raw (k : FJ → Instr) (op : BitVec 8) (o : FJ) : ofFJ k (rawFJ op o) = some (k o) := by
  simp [ofFJ, rawFJ, j20_fields]

theorem ofFB_raw (k : FB → Instr) (op : BitVec 8) (o : FB) (h : (o.b.wf) = true) : ofFB k (rawFB op o) = some (k o) := by
  simp [ofFB, rawFB, bop_fields h]

theorem ofFL_raw (k : FL → Instr) (op : BitVec 8) (o : FL) : ofFL k (rawFL op o) = some (k o) := by
  simp [ofFL, rawFL, j14_fields]

theorem ofFG_raw (k : FG → Instr) (op : BitVec 8) (o : FG) : ofFG k (rawFG op o) = some (k o) := by
  simp [ofFG, rawFG]

theorem ofFAB_raw (k : FAB → Instr) (op : BitVec 8) (o : FAB) (h : (o.b.wf) = true) : ofFAB k (rawFAB op o) = some (k o) := by
  simp [ofFAB, rawFAB, bop_fields h]

theorem ofFS_raw (k : FS → Instr) (op : BitVec 8) (o : FS) (h : (o.b.wf) = true) : ofFS k (rawFS op o) = some (k o) := by
  simp [ofFS, rawFS, bop_fields h]

theorem ofFDA_raw (k : FDA → Instr) (op : BitVec 8) (o : FDA) : ofFDA k (rawFDA op o) = some (k o) := by
  simp [ofFDA, rawFDA]

theorem ofFDB_raw (k : FDB → Instr) (op : BitVec 8) (o : FDB) (h : (o.b.wf) = true) : ofFDB k (rawFDB op o) = some (k o) := by
  simp [ofFDB, rawFDB, bop_fields h]

theorem ofFC6_raw (k : FC → Instr) (op : BitVec 8) (o : FC) (h : (decide (o.cc.toNat < 6) && o.b.wf) = true) : ofFC6 k (rawFC op o) = some (k o) := by
  simp at h; simp [ofFC6, ofFC, rawFC, bop_fields h.2, h.1]

theorem ofFC8_raw (k : FC → Instr) (op : BitVec 8) (o : FC) (h : (o.b.wf) = true) : ofFC8 k (rawFC op o) = some (k o) := by
  have : o.cc.toNat < 8 := o.cc.isLt
  simp [ofFC8, ofFC, rawFC, bop_fields h, this]

theorem ofFP_raw (k : FP → Instr) (op : BitVec 8) (o : FP) : ofFP k (rawFP op o) = some (k o) := by
  simp [ofFP, rawFP]

theorem ofFN_raw (k : FN → Instr) (op : BitVec 8) (o : FN) : ofFN k (rawFN op o) = some (k o) := by
  simp [ofFN, rawFN]

theorem ofFC2_raw (k : FC → Instr) (op : BitVec 8) (o : FC) (h : (decide (o.cc.toNat < 2) && o.b.wf) = true) : ofFC2 k (rawFC op o) = some (k o) := by
  simp at h; simp [ofFC2, ofFC, rawFC, bop_fields h.2, h.1]

theorem ofFVKc_raw (k : FVK → Instr) (op : BitVec 8) (o : FVK) (h : (vcvtCodeOk o.k) = true) : ofFVKc k (rawFVK op o) = some (k o) := by
  simp [ofFVKc, rawFVK, h]

theorem ofFVp_raw (k : FV → Instr) (op : BitVec 8) (o : FV) (h : (packWidthOk o.t) = true) : ofFVp k (rawFV op o) = some (k o) := by
  simp [ofFVp, rawFV, h]

theorem ofFVIu_raw (k : FVI → Instr) (op : BitVec 8) (o : FVI) (h : (packWidthOk o.t && decide (o.i.toNat < 2)) = true) : ofFVIu k (rawFVI op o) = some (k o) := by
  simp at h; simp [ofFVIu, rawFVI, h]

theorem ofFV0_raw (k : FV0 → Instr) (op : BitVec 8) (o : FV0) : ofFV0 k (rawFV0 op o) = some (k o) := by
  simp [ofFV0, rawFV0]

theorem ofFVIq_raw (k : FVI → Instr) (op : BitVec 8) (o : FVI) (h : (vdqntOk o.t o.i) = true) : ofFVIq k (rawFVI op o) = some (k o) := by
  simp [ofFVIq, rawFVI, h]

theorem ofFV_raw (k : FV → Instr) (op : BitVec 8) (o : FV) (h : (decide (o.t.toNat < 3)) = true) : ofFV k (rawFV op o) = some (k o) := by
  simp at h; simp [ofFV, rawFV, h]

theorem ofFVT_raw (k : FVT → Instr) (op : BitVec 8) (o : FVT) (h : (decide (o.t.toNat < 3)) = true) : ofFVT k (rawFVT op o) = some (k o) := by
  simp at h; simp [ofFVT, rawFVT, h]

theorem ofFVA_raw (k : FVA → Instr) (op : BitVec 8) (o : FVA) : ofFVA k (rawFVA op o) = some (k o) := by
  simp [ofFVA, rawFVA]

theorem ofFVB_raw (k : FVB → Instr) (op : BitVec 8) (o : FVB) (h : (decide (o.t.toNat < 3)) = true) : ofFVB k (rawFVB op o) = some (k o) := by
  simp at h; simp [ofFVB, rawFVB, h]

theorem ofFVE_raw (k : FVE → Instr) (op : BitVec 8) (o : FVE) (h : (elemIndexOk o.t o.i) = true) : ofFVE k (rawFVE op o) = some (k o) := by
  simp [ofFVE, rawFVE, h]

theorem ofFVN_raw (k : FVN → Instr) (op : BitVec 8) (o : FVN) (h : (elemIndexOk o.t o.i) = true) : ofFVN k (rawFVN op o) = some (k o) := by
  simp [ofFVN, rawFVN, h]

theorem ofFVKk_raw (k : FVK → Instr) (op : BitVec 8) (o : FVK) (h : (decide (1 ≤ o.k.toNat ∧ o.k.toNat ≤ 16)) = true) : ofFVKk k (rawFVK op o) = some (k o) := by
  simp at h; simp [ofFVKk, rawFVK, h]

theorem ofFVKs_raw (k : FVK → Instr) (op : BitVec 8) (o : FVK) (h : (decide (o.k.toNat < 4)) = true) : ofFVKs k (rawFVK op o) = some (k o) := by
  simp at h; simp [ofFVKs, rawFVK, h]

theorem ofFVC_raw (k : FVC → Instr) (op : BitVec 8) (o : FVC) : ofFVC k (rawFVC op o) = some (k o) := by
  simp [ofFVC, rawFVC]

theorem ofFM_raw (k : FM → Instr) (op : BitVec 8) (o : FM) : ofFM k (rawFM op o) = some (k o) := by
  simp [ofFM, rawFM, off_fields]

theorem ofFMV_raw (k : FMV → Instr) (op : BitVec 8) (o : FMV) : ofFMV k (rawFMV op o) = some (k o) := by
  simp [ofFMV, rawFMV, off_fields]

theorem ofFMP_raw (k : FMP → Instr) (op : BitVec 8) (o : FMP) : ofFMP k (rawFMP op o) = some (k o) := by
  simp [ofFMP, rawFMP, off_fields]

theorem ofFD_raw (k : FD → Instr) (op : BitVec 8) (o : FD) : ofFD k (rawFD op o) = some (k o) := by
  simp [ofFD, rawFD]

theorem ofFR_raw (k : FR → Instr) (op : BitVec 8) (o : FR) (h : (decide (o.sc.toNat < 5) && o.b.wf) = true) : ofFR k (rawFR op o) = some (k o) := by
  simp at h; simp [ofFR, rawFR, bop_fields h.2, h.1]

theorem ofFRT_raw (k : FRT → Instr) (op : BitVec 8) (o : FRT) (h : (decide (o.sc.toNat < 5) && o.b.wf) = true) : ofFRT k (rawFRT op o) = some (k o) := by
  simp at h
  obtain ⟨g, na, sc, a, b⟩ := o
  have e1 : ∀ (n : Bool) (s : BitVec 3), (0#2 ++ BitVec.ofBool n ++ s).extractLsb' 4 2 = 0 := by decide
  have e2 : ∀ (n : Bool) (s : BitVec 3), (0#2 ++ BitVec.ofBool n ++ s).getLsbD 3 = n := by decide
  have e3 : ∀ (n : Bool) (s : BitVec 3), (0#2 ++ BitVec.ofBool n ++ s).extractLsb' 0 3 = s := by decide
  simp only [ofFRT, rawFRT, e1, e2, e3, bop_fields h.2, h.1, and_self, if_true, Option.map_some]

theorem ofFXA_raw (k : FXA → Instr) (op : BitVec 8) (o : FXA) : ofFXA k (rawFXA op o) = some (k o) := by
  simp [ofFXA, rawFXA]

theorem ofFXY_raw (k : FXY → Instr) (op : BitVec 8) (o : FXY) (h : (o.b.wf) = true) : ofFXY k (rawFXY op o) = some (k o) := by
  simp [ofFXY, rawFXY, bop_fields h]

theorem ofFXW_raw (k : FXW → Instr) (op : BitVec 8) (o : FXW) : ofFXW k (rawFXW op o) = some (k o) := by
  simp [ofFXW, rawFXW]

theorem ofFX_raw (k : FX → Instr) (op : BitVec 8) (o : FX) (h : (o.b.wf) = true) : ofFX k (rawFX op o) = some (k o) := by
  simp [ofFX, rawFX, bop_fields h]

theorem ofFXZ_raw (k : FXZ → Instr) (op : BitVec 8) (o : FXZ) : ofFXZ k (rawFXZ op o) = some (k o) := by
  simp [ofFXZ, rawFXZ]

theorem ofFXX_raw (k : FXX → Instr) (op : BitVec 8) (o : FXX) : ofFXX k (rawFXX op o) = some (k o) := by
  simp [ofFXX, rawFXX]

theorem ofFXB_raw (k : FXB → Instr) (op : BitVec 8) (o : FXB) (h : (o.b.wf) = true) : ofFXB k (rawFXB op o) = some (k o) := by
  simp [ofFXB, rawFXB, bop_fields h]

theorem ofFXS_raw (k : FXS → Instr) (op : BitVec 8) (o : FXS) (h : (o.b.wf) = true) : ofFXS k (rawFXS op o) = some (k o) := by
  simp [ofFXS, rawFXS, bop_fields h]

theorem ofFXT_raw (k : FXT → Instr) (op : BitVec 8) (o : FXT) : ofFXT k (rawFXT op o) = some (k o) := by
  simp [ofFXT, rawFXT]

theorem ofFA_raw (k : FA → Instr) (op : BitVec 8) (o : FA) : ofFA k (rawFA op o) = some (k o) := by
  simp [ofFA, rawFA]

end Sys2Proof.Laws
end

