-- ==== Sys2Proof/Laws/Mem.lean ====
section
/-! SUPPORT. The memory laws: every memory operation keeps the canonical form, a byte written reads back, and a write leaves
every other byte alone. -/

namespace Sys2Proof.Machine

/-! ### The canonical form of cells -/

theorem cellsWfFrom_mono {lo hi : Nat} (h : lo ≤ hi) : ∀ {l : List Host.Cell}, cellsWfFrom hi l = true → cellsWfFrom lo l = true
  | [], _ => rfl
  | (a, v) :: l, w => by
    simp only [cellsWfFrom, Bool.and_eq_true, decide_eq_true_eq] at w ⊢
    exact ⟨⟨Nat.le_trans h w.1.1, w.1.2⟩, w.2⟩

theorem cellsWfFrom_erase {lo a : Nat} : ∀ {l : List Host.Cell}, cellsWfFrom lo l = true → cellsWfFrom lo (eraseCell l a) = true
  | [], _ => rfl
  | (b, v) :: l, w => by
    simp only [cellsWfFrom, Bool.and_eq_true, decide_eq_true_eq] at w
    unfold eraseCell
    split
    · exact cellsWfFrom_mono (by omega) w.2
    · simpa [cellsWfFrom, w.1] using cellsWfFrom_erase w.2

theorem cellsWfFrom_insert {lo a : Nat} {v : Byte} (hv : v ≠ unlistedByte) :
    ∀ {l : List Host.Cell}, lo ≤ a → cellsWfFrom lo l = true → cellsWfFrom lo (insertCell l a v) = true
  | [], h, _ => by simp [insertCell, cellsWfFrom, h, hv]
  | (b, x) :: l, h, w => by
    simp only [cellsWfFrom, Bool.and_eq_true, decide_eq_true_eq] at w
    unfold insertCell
    split
    · simp only [cellsWfFrom, Bool.and_eq_true, decide_eq_true_eq]
      exact ⟨⟨h, hv⟩, ⟨by omega, w.1.2⟩, w.2⟩
    · split
      · rename_i e
        subst e
        simp [cellsWfFrom, h, hv, w.2]
      · simp only [cellsWfFrom, Bool.and_eq_true, decide_eq_true_eq]
        exact ⟨w.1, cellsWfFrom_insert hv (by omega) w.2⟩

theorem cellsWfFrom_set {lo a : Nat} {v : Byte} {l : List Host.Cell} (h : lo ≤ a) (w : cellsWfFrom lo l = true) :
    cellsWfFrom lo (setCell l a v) = true := by
  unfold setCell
  split
  · exact cellsWfFrom_erase w
  · rename_i hv; exact cellsWfFrom_insert hv h w

theorem cellsWf_set {a : Nat} {v : Byte} {l : List Host.Cell} (w : cellsWf l = true) : cellsWf (setCell l a v) = true :=
  cellsWfFrom_set (Nat.zero_le _) w

theorem cellsWfFrom_filter (p : Host.Cell → Bool) {lo : Nat} : ∀ {l : List Host.Cell}, cellsWfFrom lo l = true →
    cellsWfFrom lo (l.filter p) = true
  | [], _ => rfl
  | (b, v) :: l, w => by
    simp only [cellsWfFrom, Bool.and_eq_true, decide_eq_true_eq] at w
    have ih := cellsWfFrom_filter p w.2
    by_cases hp : p (b, v) = true
    · simp [hp, cellsWfFrom, w.1, ih]
    · simp only [Bool.not_eq_true] at hp
      simpa [hp] using cellsWfFrom_mono (show lo ≤ b + 1 by omega) ih

theorem cellsWf_filter (p : Host.Cell → Bool) {l : List Host.Cell} (w : cellsWf l = true) : cellsWf (l.filter p) = true :=
  cellsWfFrom_filter p w

theorem cellsWf_foldl_set (cs : List Host.Cell) : ∀ {l : List Host.Cell}, cellsWf l = true →
    cellsWf (cs.foldl (fun l c => setCell l c.1 c.2) l) = true := by
  induction cs with
  | nil => exact id
  | cons c cs ih => exact fun w => ih (cellsWf_set w)

/-! ### Every memory operation keeps it -/

@[simp] theorem Mem.empty_wf : Mem.empty.wf = true := rfl

theorem Mem.writeByte_wf {m : Mem} (w : m.wf = true) (a : Nat) (v : Byte) : (m.writeByte a v).wf = true := cellsWf_set w

theorem Mem.writeRaw_wf : ∀ (bs : List Byte) {m : Mem} (_ : m.wf = true) (a : Nat), (m.writeRaw a bs).wf = true
  | [], _, w, _ => w
  | b :: bs, m, w, a => Mem.writeRaw_wf bs (m.writeByte_wf w a b) (a + 1)

theorem Mem.write_wf {m : Mem} (w : m.wf = true) (a : Nat) (bs : List Byte) : (m.write a bs).wf = true :=
  Mem.writeRaw_wf bs w a

theorem Mem.writeNat_wf {m : Mem} (w : m.wf = true) (a n v : Nat) : (m.writeNat a n v).wf = true := m.write_wf w a _

theorem Mem.undefine_wf {m : Mem} (w : m.wf = true) (lo hi seed : Nat) : (m.undefine lo hi seed).wf = true := by
  unfold Mem.undefine
  split
  · exact w
  · exact cellsWf_filter _ w

/-- Whatever memory the bytes come from. -/
theorem Mem.copyRange_wf {dst : Mem} (w : dst.wf = true) (src : Mem) (lo hi : Nat) : (dst.copyRange src lo hi).wf = true :=
  cellsWf_foldl_set _ (cellsWf_filter _ w)

theorem Mem.move_wf {dst : Mem} (w : dst.wf = true) (src : Mem) (lo dest n : Nat) : (dst.move src lo dest n).wf = true :=
  dst.copyRange_wf w _ _ _

/-! ### Reads after writes -/

theorem cellAt_below {lo b : Nat} (h : b < lo) : ∀ {l : List Host.Cell}, cellsWfFrom lo l = true → cellAt l b = none
  | [], _ => rfl
  | (a, v) :: l, w => by
    simp only [cellsWfFrom, Bool.and_eq_true, decide_eq_true_eq] at w
    rw [cellAt, if_neg (by omega), cellAt_below (by omega) w.2]

theorem cellAt_erase {lo a b : Nat} : ∀ {l : List Host.Cell}, cellsWfFrom lo l = true →
    cellAt (eraseCell l a) b = if b = a then none else cellAt l b
  | [], _ => by simp [eraseCell, cellAt]
  | (c, v) :: l, w => by
    simp only [cellsWfFrom, Bool.and_eq_true, decide_eq_true_eq] at w
    unfold eraseCell
    split
    · rename_i e; subst e
      by_cases h : b = c
      · subst h; rw [if_pos rfl, cellAt_below (Nat.lt_succ_self _) w.2]
      · rw [if_neg h, cellAt, if_neg (Ne.symm h)]
    · rw [cellAt, cellAt_erase w.2, cellAt]
      by_cases h : c = b
      · subst h; rename_i e; rw [if_pos rfl, if_pos rfl, if_neg e]
      · rw [if_neg h, if_neg h]

theorem cellAt_insert {a b : Nat} {v : Byte} : ∀ {l : List Host.Cell}, cellAt (insertCell l a v) b = if b = a then some v else cellAt l b
  | [] => by simp [insertCell, cellAt, eq_comm]
  | (c, x) :: l => by
    unfold insertCell
    split
    · rw [cellAt]; simp only [eq_comm]
    · split
      · rename_i e; subst e
        rw [cellAt, cellAt]
        by_cases h : a = b <;> simp [h, eq_comm]
      · rename_i e
        rw [cellAt, cellAt_insert, cellAt]
        by_cases h : c = b
        · subst h; rw [if_pos rfl, if_pos rfl, if_neg (Ne.symm e)]
        · rw [if_neg h, if_neg h]

/-- What a list of cells shows after one is set. -/
theorem cellAt_set {l : List Host.Cell} (w : cellsWf l = true) (a b : Nat) (v : Byte) :
    (cellAt (setCell l a v) b).getD unlistedByte = if b = a then v else (cellAt l b).getD unlistedByte := by
  unfold setCell
  split
  · rename_i h; subst h
    rw [cellAt_erase w]
    split <;> rfl
  · rw [cellAt_insert]
    split <;> rfl

theorem find_optional {c : Prop} [Decidable c] (q : UndefRange) (x : Nat) :
    (if c then [q] else []).find? (·.has x) = if c ∧ q.has x = true then some q else none := by
  by_cases h : c <;> by_cases k : q.has x = true <;> simp [h, k]

theorem UndefRange.outside_seed (r : UndefRange) (lo hi x : Nat) :
    ((r.outside lo hi).find? (·.has x)).map (·.seed) =
      if (x < lo ∨ hi ≤ x) ∧ r.has x = true then some r.seed else none := by
  rw [UndefRange.outside, List.find?_append, find_optional, find_optional]
  simp only [UndefRange.has, decide_eq_true_eq]
  by_cases c : (x < lo ∨ hi ≤ x) ∧ r.lo ≤ x ∧ x < r.hi
  · rw [if_pos c]
    by_cases h : r.lo < min r.hi lo ∧ r.lo ≤ x ∧ x < min r.hi lo
    · rw [if_pos h, Option.some_or, Option.map_some]
    · rw [if_neg h, Option.none_or, if_pos (by omega), Option.map_some]
  · rw [if_neg c, if_neg (by omega), if_neg (by omega)]; rfl

/-- The undefined range that an address lies in, after [lo, hi) is taken out of every range: none inside, the same seed outside. -/
theorem find_outside (l : List UndefRange) {lo hi x : Nat} :
    ((l.flatMap (·.outside lo hi)).find? (·.has x)).map (·.seed) =
      if lo ≤ x ∧ x < hi then none else (l.find? (·.has x)).map (·.seed) := by
  induction l with
  | nil => simp
  | cons r l ih =>
    rw [List.flatMap_cons, List.find?_append, List.find?_cons]
    have hr := r.outside_seed lo hi x
    cases ho : (r.outside lo hi).find? (·.has x) with
    | none =>
      rw [ho, Option.map_none] at hr
      rw [Option.none_or, ih]
      by_cases h : lo ≤ x ∧ x < hi
      · rw [if_pos h, if_pos h]
      · rw [if_neg h, if_neg h]
        cases hx : r.has x
        · rfl
        · rw [if_pos ⟨by omega, hx⟩] at hr; cases hr
    | some q =>
      rw [ho, Option.map_some] at hr
      split at hr
      · rename_i c
        rw [if_neg (by omega), c.2]
        simpa using hr
      · cases hr

/-- A byte of a memory by the seed of its undefined range. -/
theorem Mem.readByte_eq (m : Mem) (a : Nat) : m.readByte a =
    match (m.undef.find? (·.has a)).map (·.seed) with
    | some n => Config.freeByte n a
    | none => (cellAt m.cells a).getD unlistedByte := by
  unfold Mem.readByte
  cases m.undef.find? (·.has a) <;> rfl

theorem Mem.readByte_writeByte {m : Mem} (w : m.wf = true) (a x : Nat) (v : Byte) :
    (m.writeByte a v).readByte x = if x = a then v else m.readByte x := by
  rw [Mem.readByte_eq, Mem.readByte_eq]
  simp only [Mem.writeByte, find_outside, cellAt_set w]
  by_cases h : x = a
  · subst h; simp
  · rw [if_neg (by omega), if_neg h, if_neg h]

theorem Mem.readByte_writeRaw (bs : List Byte) : ∀ {m : Mem} (_ : m.wf = true) (a x : Nat), (m.writeRaw a bs).readByte x =
    if a ≤ x then (bs[x - a]?).getD (m.readByte x) else m.readByte x := by
  induction bs with
  | nil => intro m w a x; simp [Mem.writeRaw]
  | cons b bs ih =>
    intro m w a x
    rw [Mem.writeRaw, ih (m.writeByte_wf w a b), Mem.readByte_writeByte w]
    rcases Nat.lt_trichotomy x a with h | h | h
    · rw [if_neg (by omega), if_neg (by omega), if_neg (by omega)]
    · subst h; rw [if_neg (by omega)]; simp
    · rw [if_pos (by omega), if_neg (by omega), if_pos (by omega), show x - a = (x - (a + 1)) + 1 by omega,
        List.getElem?_cons_succ]

/-- A write puts each byte in its place and leaves every other byte alone. -/
theorem Mem.readByte_write {m : Mem} (w : m.wf = true) (a x : Nat) (bs : List Byte) : (m.write a bs).readByte x =
    if a ≤ x then (bs[x - a]?).getD (m.readByte x) else m.readByte x := by
  rw [← Mem.readByte_writeRaw bs w]; rfl

theorem Mem.readByte_write_outside {m : Mem} (w : m.wf = true) {a x : Nat} {bs : List Byte} (h : x < a ∨ a + bs.length ≤ x) :
    (m.write a bs).readByte x = m.readByte x := by
  rw [Mem.readByte_write w]
  split
  · rw [List.getElem?_eq_none (by omega), Option.getD_none]
  · rfl

/-- What was written is read back. -/
theorem Mem.read_write {m : Mem} (w : m.wf = true) (a : Nat) (bs : List Byte) : (m.write a bs).read a bs.length = bs := by
  apply List.ext_getElem?
  intro i
  simp only [Mem.read, List.getElem?_map, Mem.readByte_write w, Nat.le_add_right, if_true, Nat.add_sub_cancel_left]
  by_cases h : i < bs.length
  · simp [List.getElem?_range h, List.getElem?_eq_getElem h]
  · simp [h]

/-! ### Numbers in memory (R4) -/

@[simp] theorem length_bytesOfNat (n v : Nat) : (bytesOfNat n v).length = n := by
  induction n generalizing v with
  | zero => rfl
  | succ n ih => simp [bytesOfNat, ih]

theorem natOfBytes_bytesOfNat (n v : Nat) : natOfBytes (bytesOfNat n v) = v % 256 ^ n := by
  induction n generalizing v with
  | zero => simp [bytesOfNat, natOfBytes, Nat.mod_one]
  | succ n ih =>
    rw [bytesOfNat, natOfBytes, ih, BitVec.toNat_ofNat, Nat.pow_succ 256, Nat.mul_comm (256 ^ n) 256, Nat.mod_mul]

theorem Mem.readNat_writeNat {m : Mem} (w : m.wf = true) (a n v : Nat) : (m.writeNat a n v).readNat a n = v % 256 ^ n := by
  have h := Mem.read_write w a (bytesOfNat n v)
  rw [length_bytesOfNat] at h
  rw [Mem.readNat, Mem.writeNat, h, natOfBytes_bytesOfNat]

/-- The memories after reset are in canonical form. -/
theorem reset_near_wf : State.reset.dev.near.wf = true ∧ State.reset.dev.lpddr.wf = true ∧ State.reset.dev.hostMem.wf = true ∧
    State.reset.dev.remote.wf = true ∧ State.reset.dev.code.wf = true ∧ State.reset.tile.win.wf = true := ⟨rfl, rfl, rfl, rfl, rfl, rfl⟩

end Sys2Proof.Machine
end

