-- ==== Sys2Proof/Laws/State.lean ====
section
/-! SUPPORT. The fields of the state under each named update, so that no proof unfolds a record update. -/

namespace Sys2Proof.Machine

@[simp] theorem State.setStatus_tile (s : State) (x : IssueStatus) : (s.setStatus x).tile = s.tile := rfl
@[simp] theorem State.setStatus_others (s : State) (x : IssueStatus) : (s.setStatus x).others = s.others := rfl
@[simp] theorem State.setStatus_src (s : State) (x : IssueStatus) : (s.setStatus x).src = s.src := rfl
@[simp] theorem State.setStatus_dev (s : State) (x : IssueStatus) : (s.setStatus x).dev = s.dev := rfl
@[simp] theorem State.setStatus_sched (s : State) (x : IssueStatus) : (s.setStatus x).sched = s.sched := rfl
@[simp] theorem State.setStatus_free (s : State) (x : IssueStatus) : (s.setStatus x).free = s.free := rfl
@[simp] theorem State.atWord_tile (s : State) (k : Nat) (w : Word) : (s.atWord k w).tile = s.tile := rfl
@[simp] theorem State.atWord_others (s : State) (k : Nat) (w : Word) : (s.atWord k w).others = s.others := rfl
@[simp] theorem State.atWord_src (s : State) (k : Nat) (w : Word) : (s.atWord k w).src = s.src := rfl
@[simp] theorem State.atWord_dev (s : State) (k : Nat) (w : Word) : (s.atWord k w).dev = s.dev := rfl
@[simp] theorem State.atWord_sched (s : State) (k : Nat) (w : Word) : (s.atWord k w).sched = s.sched := rfl
@[simp] theorem State.atWord_free (s : State) (k : Nat) (w : Word) : (s.atWord k w).free = s.free := rfl
@[simp] theorem State.jump_others (s : State) (a : BitVec 20) : (s.jump a).others = s.others := rfl
@[simp] theorem State.jump_src (s : State) (a : BitVec 20) : (s.jump a).src = s.src := rfl
@[simp] theorem State.jump_iss (s : State) (a : BitVec 20) : (s.jump a).iss = s.iss := rfl
@[simp] theorem State.jump_dev (s : State) (a : BitVec 20) : (s.jump a).dev = s.dev := rfl
@[simp] theorem State.jump_sched (s : State) (a : BitVec 20) : (s.jump a).sched = s.sched := rfl
@[simp] theorem State.jump_free (s : State) (a : BitVec 20) : (s.jump a).free = s.free := rfl
@[simp] theorem State.branch_others (s : State) (a : BitVec 20) : (s.branch a).others = s.others := rfl
@[simp] theorem State.branch_src (s : State) (a : BitVec 20) : (s.branch a).src = s.src := rfl
@[simp] theorem State.branch_iss (s : State) (a : BitVec 20) : (s.branch a).iss = s.iss := rfl
@[simp] theorem State.branch_dev (s : State) (a : BitVec 20) : (s.branch a).dev = s.dev := rfl
@[simp] theorem State.branch_sched (s : State) (a : BitVec 20) : (s.branch a).sched = s.sched := rfl
@[simp] theorem State.branch_free (s : State) (a : BitVec 20) : (s.branch a).free = s.free := rfl
@[simp] theorem State.modCtx_tile (s : State) (n : Nat) (f : Ctx → Ctx) : (s.modCtx n f).tile = s.tile := rfl
@[simp] theorem State.modCtx_others (s : State) (n : Nat) (f : Ctx → Ctx) : (s.modCtx n f).others = s.others := rfl
@[simp] theorem State.modCtx_src (s : State) (n : Nat) (f : Ctx → Ctx) : (s.modCtx n f).src = s.src := rfl
@[simp] theorem State.modCtx_iss (s : State) (n : Nat) (f : Ctx → Ctx) : (s.modCtx n f).iss = s.iss := rfl
@[simp] theorem State.modCtx_sched (s : State) (n : Nat) (f : Ctx → Ctx) : (s.modCtx n f).sched = s.sched := rfl
@[simp] theorem State.modCtx_free (s : State) (n : Nat) (f : Ctx → Ctx) : (s.modCtx n f).free = s.free := rfl
@[simp] theorem State.setSource_tile (s : State) (x : Source) : (s.setSource x).tile = s.tile := rfl
@[simp] theorem State.setSource_others (s : State) (x : Source) : (s.setSource x).others = s.others := rfl
@[simp] theorem State.setSource_src (s : State) (x : Source) : (s.setSource x).src = s.src := rfl
@[simp] theorem State.setSource_iss (s : State) (x : Source) : (s.setSource x).iss = s.iss := rfl
@[simp] theorem State.setSource_sched (s : State) (x : Source) : (s.setSource x).sched = s.sched := rfl
@[simp] theorem State.setSource_free (s : State) (x : Source) : (s.setSource x).free = s.free := rfl
@[simp] theorem State.hold_tile (s : State) (h : Held) : (s.hold h).tile = s.tile.landOutputs.enqueue h := rfl
@[simp] theorem State.hold_others (s : State) (h : Held) : (s.hold h).others = s.others := by unfold State.hold; rfl
@[simp] theorem State.hold_src (s : State) (h : Held) : (s.hold h).src = s.src := by unfold State.hold; rfl
@[simp] theorem State.hold_iss (s : State) (h : Held) : (s.hold h).iss = s.iss := by unfold State.hold; rfl
@[simp] theorem State.hold_dev (s : State) (h : Held) : (s.hold h).dev = s.dev := by unfold State.hold; rfl
@[simp] theorem State.hold_sched (s : State) (h : Held) : (s.hold h).sched = s.sched := by unfold State.hold; rfl
@[simp] theorem State.hold_free (s : State) (h : Held) : (s.hold h).free = s.free := by unfold State.hold; rfl
@[simp] theorem State.setFst_others (s : State) (w : Word) : (s.setFst w).others = s.others := rfl
@[simp] theorem State.setFst_src (s : State) (w : Word) : (s.setFst w).src = s.src := rfl
@[simp] theorem State.setFst_iss (s : State) (w : Word) : (s.setFst w).iss = s.iss := rfl
@[simp] theorem State.setFst_dev (s : State) (w : Word) : (s.setFst w).dev = s.dev := rfl
@[simp] theorem State.setFst_sched (s : State) (w : Word) : (s.setFst w).sched = s.sched := rfl
@[simp] theorem State.setFst_free (s : State) (w : Word) : (s.setFst w).free = s.free := rfl
@[simp] theorem State.writeCr_others (s : State) (n : Nat) (v : Word) : (s.writeCr n v).others = s.others := rfl
@[simp] theorem State.writeCr_src (s : State) (n : Nat) (v : Word) : (s.writeCr n v).src = s.src := rfl
@[simp] theorem State.writeCr_iss (s : State) (n : Nat) (v : Word) : (s.writeCr n v).iss = s.iss := rfl
@[simp] theorem State.writeCr_dev (s : State) (n : Nat) (v : Word) : (s.writeCr n v).dev = s.dev.writeCr n v := rfl
@[simp] theorem State.writeCr_sched (s : State) (n : Nat) (v : Word) : (s.writeCr n v).sched = s.sched := rfl
@[simp] theorem State.writeCr_free (s : State) (n : Nat) (v : Word) : (s.writeCr n v).free = s.free := rfl
@[simp] theorem State.setLaunch_tile (s : State) (l : Launch) : (s.setLaunch l).tile = s.tile := rfl
@[simp] theorem State.setLaunch_others (s : State) (l : Launch) : (s.setLaunch l).others = s.others := rfl
@[simp] theorem State.setLaunch_src (s : State) (l : Launch) : (s.setLaunch l).src = s.src := rfl
@[simp] theorem State.setLaunch_iss (s : State) (l : Launch) : (s.setLaunch l).iss = s.iss := rfl
@[simp] theorem State.setLaunch_sched (s : State) (l : Launch) : (s.setLaunch l).sched = s.sched := rfl
@[simp] theorem State.setLaunch_free (s : State) (l : Launch) : (s.setLaunch l).free = s.free := rfl
@[simp] theorem State.setPair_tile (s : State) (p : Pair) : (s.setPair p).tile = s.tile := rfl
@[simp] theorem State.setPair_others (s : State) (p : Pair) : (s.setPair p).others = s.others := rfl
@[simp] theorem State.setPair_src (s : State) (p : Pair) : (s.setPair p).src = s.src := rfl
@[simp] theorem State.setPair_iss (s : State) (p : Pair) : (s.setPair p).iss = s.iss := rfl
@[simp] theorem State.setPair_sched (s : State) (p : Pair) : (s.setPair p).sched = s.sched := rfl
@[simp] theorem State.setPair_free (s : State) (p : Pair) : (s.setPair p).free = s.free := rfl
@[simp] theorem State.setLport_tile (s : State) (p : LPort) : (s.setLport p).tile = s.tile := rfl
@[simp] theorem State.setLport_others (s : State) (p : LPort) : (s.setLport p).others = s.others := rfl
@[simp] theorem State.setLport_src (s : State) (p : LPort) : (s.setLport p).src = s.src := rfl
@[simp] theorem State.setLport_iss (s : State) (p : LPort) : (s.setLport p).iss = s.iss := rfl
@[simp] theorem State.setLport_sched (s : State) (p : LPort) : (s.setLport p).sched = s.sched := rfl
@[simp] theorem State.setLport_free (s : State) (p : LPort) : (s.setLport p).free = s.free := rfl
@[simp] theorem State.setTree_tile (s : State) (x : Tree) : (s.setTree x).tile = s.tile := rfl
@[simp] theorem State.setTree_others (s : State) (x : Tree) : (s.setTree x).others = s.others := rfl
@[simp] theorem State.setTree_src (s : State) (x : Tree) : (s.setTree x).src = s.src := rfl
@[simp] theorem State.setTree_iss (s : State) (x : Tree) : (s.setTree x).iss = s.iss := rfl
@[simp] theorem State.setTree_sched (s : State) (x : Tree) : (s.setTree x).sched = s.sched := rfl
@[simp] theorem State.setTree_free (s : State) (x : Tree) : (s.setTree x).free = s.free := rfl
@[simp] theorem State.setMachine_tile (s : State) (x : Machine) : (s.setMachine x).tile = s.tile := rfl
@[simp] theorem State.setMachine_others (s : State) (x : Machine) : (s.setMachine x).others = s.others := rfl
@[simp] theorem State.setMachine_src (s : State) (x : Machine) : (s.setMachine x).src = s.src := rfl
@[simp] theorem State.setMachine_iss (s : State) (x : Machine) : (s.setMachine x).iss = s.iss := rfl
@[simp] theorem State.setMachine_sched (s : State) (x : Machine) : (s.setMachine x).sched = s.sched := rfl
@[simp] theorem State.setMachine_free (s : State) (x : Machine) : (s.setMachine x).free = s.free := rfl
@[simp] theorem State.modHost_tile (s : State) (f : HostRegs → HostRegs) : (s.modHost f).tile = s.tile := rfl
@[simp] theorem State.modHost_others (s : State) (f : HostRegs → HostRegs) : (s.modHost f).others = s.others := rfl
@[simp] theorem State.modHost_src (s : State) (f : HostRegs → HostRegs) : (s.modHost f).src = s.src := rfl
@[simp] theorem State.modHost_iss (s : State) (f : HostRegs → HostRegs) : (s.modHost f).iss = s.iss := rfl
@[simp] theorem State.modHost_sched (s : State) (f : HostRegs → HostRegs) : (s.modHost f).sched = s.sched := rfl
@[simp] theorem State.modHost_free (s : State) (f : HostRegs → HostRegs) : (s.modHost f).free = s.free := rfl
@[simp] theorem State.saveTile_tile (s : State) (n k : Nat) : (s.saveTile n k).tile = s.tile.saveUnits (tregBase n) k := rfl
@[simp] theorem State.saveTile_others (s : State) (n k : Nat) : (s.saveTile n k).others = s.others := rfl
@[simp] theorem State.saveTile_src (s : State) (n k : Nat) : (s.saveTile n k).src = s.src := rfl
@[simp] theorem State.saveTile_iss (s : State) (n k : Nat) : (s.saveTile n k).iss = s.iss := rfl
@[simp] theorem State.saveTile_dev (s : State) (n k : Nat) : (s.saveTile n k).dev = s.dev := rfl
@[simp] theorem State.saveTile_sched (s : State) (n k : Nat) : (s.saveTile n k).sched = s.sched := rfl
@[simp] theorem State.saveTile_free (s : State) (n k : Nat) : (s.saveTile n k).free = s.free := rfl
@[simp] theorem State.waitLayer_others (s : State) (o l : Nat) : (s.waitLayer o l).others = s.others := rfl
@[simp] theorem State.waitLayer_src (s : State) (o l : Nat) : (s.waitLayer o l).src = s.src := rfl
@[simp] theorem State.waitLayer_iss (s : State) (o l : Nat) : (s.waitLayer o l).iss = s.iss := rfl
@[simp] theorem State.waitLayer_dev (s : State) (o l : Nat) : (s.waitLayer o l).dev = s.dev := rfl
@[simp] theorem State.waitLayer_sched (s : State) (o l : Nat) : (s.waitLayer o l).sched = s.sched := rfl
@[simp] theorem State.waitLayer_free (s : State) (o l : Nat) : (s.waitLayer o l).free = s.free := rfl
@[simp] theorem State.failWaits_src (s : State) (o l : Nat) : (s.failWaits o l).src = s.src := rfl
@[simp] theorem State.failWaits_iss (s : State) (o l : Nat) : (s.failWaits o l).iss = s.iss := rfl
@[simp] theorem State.failWaits_dev (s : State) (o l : Nat) : (s.failWaits o l).dev = s.dev := rfl
@[simp] theorem State.failWaits_sched (s : State) (o l : Nat) : (s.failWaits o l).sched = s.sched := rfl
@[simp] theorem State.failWaits_free (s : State) (o l : Nat) : (s.failWaits o l).free = s.free := rfl
@[simp] theorem State.modClock_tile (s : State) (p : Nat) (f : Ribbon → Ribbon) : (s.modClock p f).tile = s.tile := rfl
@[simp] theorem State.modClock_others (s : State) (p : Nat) (f : Ribbon → Ribbon) : (s.modClock p f).others = s.others := rfl
@[simp] theorem State.modClock_src (s : State) (p : Nat) (f : Ribbon → Ribbon) : (s.modClock p f).src = s.src := rfl
@[simp] theorem State.modClock_iss (s : State) (p : Nat) (f : Ribbon → Ribbon) : (s.modClock p f).iss = s.iss := rfl
@[simp] theorem State.modClock_sched (s : State) (p : Nat) (f : Ribbon → Ribbon) : (s.modClock p f).sched = s.sched := rfl
@[simp] theorem State.modClock_free (s : State) (p : Nat) (f : Ribbon → Ribbon) : (s.modClock p f).free = s.free := rfl
@[simp] theorem State.atIssue_tile (s : State) : (s.atIssue).tile = s.src := rfl
@[simp] theorem State.atIssue_others (s : State) : (s.atIssue).others = s.others := rfl
@[simp] theorem State.atIssue_src (s : State) : (s.atIssue).src = s.src := rfl
@[simp] theorem State.atIssue_iss (s : State) : (s.atIssue).iss = s.iss := rfl
@[simp] theorem State.atIssue_sched (s : State) : (s.atIssue).sched = s.sched := rfl
@[simp] theorem State.atIssue_free (s : State) : (s.atIssue).free = s.free := rfl
@[simp] theorem State.discard_tile (s : State) : (s.discard).tile = s.tile := rfl
@[simp] theorem State.discard_others (s : State) : (s.discard).others = s.others := rfl
@[simp] theorem State.discard_src (s : State) : (s.discard).src = s.src := rfl
@[simp] theorem State.discard_iss (s : State) : (s.discard).iss = s.iss := rfl
@[simp] theorem State.discard_sched (s : State) : (s.discard).sched = s.sched := rfl
@[simp] theorem State.discard_free (s : State) : (s.discard).free = s.free := rfl
@[simp] theorem Tile.orFlags_phys (t : Tile) (f : Word) : (t.orFlags f).phys = t.phys := rfl
@[simp] theorem Tile.orFlags_stat (t : Tile) (f : Word) : (t.orFlags f).stat = t.stat := rfl
@[simp] theorem Tile.orFlags_ctx (t : Tile) (f : Word) : (t.orFlags f).ctx = t.ctx := rfl
@[simp] theorem Tile.orFlags_ltile (t : Tile) (f : Word) : (t.orFlags f).ltile = t.ltile := rfl
@[simp] theorem Tile.orFlags_ntile (t : Tile) (f : Word) : (t.orFlags f).ntile = t.ntile := rfl
@[simp] theorem Tile.orFlags_ctxn (t : Tile) (f : Word) : (t.orFlags f).ctxn = t.ctxn := rfl
@[simp] theorem Tile.orFlags_pasid (t : Tile) (f : Word) : (t.orFlags f).pasid = t.pasid := rfl
@[simp] theorem Tile.orFlags_tvec (t : Tile) (f : Word) : (t.orFlags f).tvec = t.tvec := rfl
@[simp] theorem Tile.orFlags_task (t : Tile) (f : Word) : (t.orFlags f).task = t.task := rfl
@[simp] theorem Tile.orFlags_core (t : Tile) (f : Word) : (t.orFlags f).core = t.core.orFlags f := rfl
@[simp] theorem Tile.orFlags_ck (t : Tile) (f : Word) : (t.orFlags f).ck = t.ck := rfl
@[simp] theorem Tile.orFlags_cyc (t : Tile) (f : Word) : (t.orFlags f).cyc = t.cyc := rfl
@[simp] theorem Tile.orFlags_cych (t : Tile) (f : Word) : (t.orFlags f).cych = t.cych := rfl
@[simp] theorem Tile.orFlags_win (t : Tile) (f : Word) : (t.orFlags f).win = t.win := rfl
@[simp] theorem Tile.orFlags_shadow (t : Tile) (f : Word) : (t.orFlags f).shadow = t.shadow := rfl
@[simp] theorem Tile.orFlags_wb0 (t : Tile) (f : Word) : (t.orFlags f).wb0 = t.wb0 := rfl
@[simp] theorem Tile.orFlags_wb1 (t : Tile) (f : Word) : (t.orFlags f).wb1 = t.wb1 := rfl
@[simp] theorem Tile.orFlags_ckWb0 (t : Tile) (f : Word) : (t.orFlags f).ckWb0 = t.ckWb0 := rfl
@[simp] theorem Tile.orFlags_ckWb1 (t : Tile) (f : Word) : (t.orFlags f).ckWb1 = t.ckWb1 := rfl
@[simp] theorem Tile.orFlags_latBad (t : Tile) (f : Word) : (t.orFlags f).latBad = t.latBad := rfl
@[simp] theorem Tile.orFlags_pend (t : Tile) (f : Word) : (t.orFlags f).pend = t.pend := rfl
@[simp] theorem Tile.orFlags_loads (t : Tile) (f : Word) : (t.orFlags f).loads = t.loads := rfl
@[simp] theorem Tile.orFlags_jobs (t : Tile) (f : Word) : (t.orFlags f).jobs = t.jobs := rfl
@[simp] theorem Tile.orFlags_jobSq (t : Tile) (f : Word) : (t.orFlags f).jobSq = t.jobSq := rfl
@[simp] theorem Tile.orFlags_jobFails (t : Tile) (f : Word) : (t.orFlags f).jobFails = t.jobFails := rfl
@[simp] theorem Tile.orFlags_cq (t : Tile) (f : Word) : (t.orFlags f).cq = t.cq := rfl
@[simp] theorem Tile.orFlags_released (t : Tile) (f : Word) : (t.orFlags f).released = t.released := rfl
@[simp] theorem Tile.orFlags_rb (t : Tile) (f : Word) : (t.orFlags f).rb = t.rb := rfl
@[simp] theorem Tile.orFlags_loadBuf (t : Tile) (f : Word) : (t.orFlags f).loadBuf = t.loadBuf := rfl
@[simp] theorem Tile.orFlags_mq (t : Tile) (f : Word) : (t.orFlags f).mq = t.mq := rfl
@[simp] theorem Tile.orFlags_tstId (t : Tile) (f : Word) : (t.orFlags f).tstId = t.tstId := rfl
@[simp] theorem Tile.orFlags_poison (t : Tile) (f : Word) : (t.orFlags f).poison = t.poison := rfl
@[simp] theorem Tile.orFlags_ckPoison (t : Tile) (f : Word) : (t.orFlags f).ckPoison = t.ckPoison := rfl
@[simp] theorem Tile.orFlags_unpins (t : Tile) (f : Word) : (t.orFlags f).unpins = t.unpins := rfl
@[simp] theorem Tile.orFlags_notes (t : Tile) (f : Word) : (t.orFlags f).notes = t.notes := rfl
@[simp] theorem Tile.orFlags_recov (t : Tile) (f : Word) : (t.orFlags f).recov = t.recov := rfl
@[simp] theorem Tile.orFlags_ckFresh (t : Tile) (f : Word) : (t.orFlags f).ckFresh = t.ckFresh := rfl
@[simp] theorem Tile.orFlags_ckDue (t : Tile) (f : Word) : (t.orFlags f).ckDue = t.ckDue := rfl
@[simp] theorem Tile.orFlags_haltDue (t : Tile) (f : Word) : (t.orFlags f).haltDue = t.haltDue := rfl
@[simp] theorem Tile.orFlags_lwCount (t : Tile) (f : Word) : (t.orFlags f).lwCount = t.lwCount := rfl
@[simp] theorem Tile.orFlags_lwOn (t : Tile) (f : Word) : (t.orFlags f).lwOn = t.lwOn := rfl
@[simp] theorem Tile.orFlags_freshPins (t : Tile) (f : Word) : (t.orFlags f).freshPins = t.freshPins := rfl
@[simp] theorem Tile.orFlags_issued (t : Tile) (f : Word) : (t.orFlags f).issued = t.issued := rfl
@[simp] theorem Tile.orFlags_tlb (t : Tile) (f : Word) : (t.orFlags f).tlb = t.tlb := rfl
@[simp] theorem Tile.orFlags_doomed (t : Tile) (f : Word) : (t.orFlags f).doomed = t.doomed := rfl
@[simp] theorem Tile.orFlags_extWr (t : Tile) (f : Word) : (t.orFlags f).extWr = t.extWr := rfl
@[simp] theorem Tile.orFlags_flintBad (t : Tile) (f : Word) : (t.orFlags f).flintBad = t.flintBad := rfl
@[simp] theorem Tile.enqueue_phys (t : Tile) (h : Held) : (t.enqueue h).phys = t.phys := rfl
@[simp] theorem Tile.enqueue_stat (t : Tile) (h : Held) : (t.enqueue h).stat = t.stat := rfl
@[simp] theorem Tile.enqueue_ctx (t : Tile) (h : Held) : (t.enqueue h).ctx = t.ctx := rfl
@[simp] theorem Tile.enqueue_ltile (t : Tile) (h : Held) : (t.enqueue h).ltile = t.ltile := rfl
@[simp] theorem Tile.enqueue_ntile (t : Tile) (h : Held) : (t.enqueue h).ntile = t.ntile := rfl
@[simp] theorem Tile.enqueue_ctxn (t : Tile) (h : Held) : (t.enqueue h).ctxn = t.ctxn := rfl
@[simp] theorem Tile.enqueue_pasid (t : Tile) (h : Held) : (t.enqueue h).pasid = t.pasid := rfl
@[simp] theorem Tile.enqueue_tvec (t : Tile) (h : Held) : (t.enqueue h).tvec = t.tvec := rfl
@[simp] theorem Tile.enqueue_task (t : Tile) (h : Held) : (t.enqueue h).task = t.task := rfl
@[simp] theorem Tile.enqueue_core (t : Tile) (h : Held) : (t.enqueue h).core = t.core := rfl
@[simp] theorem Tile.enqueue_ck (t : Tile) (h : Held) : (t.enqueue h).ck = t.ck := rfl
@[simp] theorem Tile.enqueue_cyc (t : Tile) (h : Held) : (t.enqueue h).cyc = t.cyc := rfl
@[simp] theorem Tile.enqueue_cych (t : Tile) (h : Held) : (t.enqueue h).cych = t.cych := rfl
@[simp] theorem Tile.enqueue_win (t : Tile) (h : Held) : (t.enqueue h).win = t.win := rfl
@[simp] theorem Tile.enqueue_shadow (t : Tile) (h : Held) : (t.enqueue h).shadow = t.shadow := rfl
@[simp] theorem Tile.enqueue_wb0 (t : Tile) (h : Held) : (t.enqueue h).wb0 = t.wb0 := rfl
@[simp] theorem Tile.enqueue_wb1 (t : Tile) (h : Held) : (t.enqueue h).wb1 = t.wb1 := rfl
@[simp] theorem Tile.enqueue_ckWb0 (t : Tile) (h : Held) : (t.enqueue h).ckWb0 = t.ckWb0 := rfl
@[simp] theorem Tile.enqueue_ckWb1 (t : Tile) (h : Held) : (t.enqueue h).ckWb1 = t.ckWb1 := rfl
@[simp] theorem Tile.enqueue_latBad (t : Tile) (h : Held) : (t.enqueue h).latBad = t.latBad := rfl
@[simp] theorem Tile.enqueue_pend (t : Tile) (h : Held) : (t.enqueue h).pend = t.pend := rfl
@[simp] theorem Tile.enqueue_loads (t : Tile) (h : Held) : (t.enqueue h).loads = t.loads := rfl
@[simp] theorem Tile.enqueue_jobs (t : Tile) (h : Held) : (t.enqueue h).jobs = t.jobs := rfl
@[simp] theorem Tile.enqueue_jobSq (t : Tile) (h : Held) : (t.enqueue h).jobSq = t.jobSq := rfl
@[simp] theorem Tile.enqueue_jobFails (t : Tile) (h : Held) : (t.enqueue h).jobFails = t.jobFails := rfl
@[simp] theorem Tile.enqueue_cq (t : Tile) (h : Held) : (t.enqueue h).cq = t.cq ++ [h] := rfl
@[simp] theorem Tile.enqueue_released (t : Tile) (h : Held) : (t.enqueue h).released = t.released := rfl
@[simp] theorem Tile.enqueue_rb (t : Tile) (h : Held) : (t.enqueue h).rb = t.rb := rfl
@[simp] theorem Tile.enqueue_loadBuf (t : Tile) (h : Held) : (t.enqueue h).loadBuf = t.loadBuf := rfl
@[simp] theorem Tile.enqueue_mq (t : Tile) (h : Held) : (t.enqueue h).mq = t.mq := rfl
@[simp] theorem Tile.enqueue_tstId (t : Tile) (h : Held) : (t.enqueue h).tstId = t.tstId := rfl
@[simp] theorem Tile.enqueue_poison (t : Tile) (h : Held) : (t.enqueue h).poison = t.poison := rfl
@[simp] theorem Tile.enqueue_ckPoison (t : Tile) (h : Held) : (t.enqueue h).ckPoison = t.ckPoison := rfl
@[simp] theorem Tile.enqueue_unpins (t : Tile) (h : Held) : (t.enqueue h).unpins = t.unpins := rfl
@[simp] theorem Tile.enqueue_notes (t : Tile) (h : Held) : (t.enqueue h).notes = t.notes := rfl
@[simp] theorem Tile.enqueue_recov (t : Tile) (h : Held) : (t.enqueue h).recov = t.recov := rfl
@[simp] theorem Tile.enqueue_ckFresh (t : Tile) (h : Held) : (t.enqueue h).ckFresh = t.ckFresh := rfl
@[simp] theorem Tile.enqueue_ckDue (t : Tile) (h : Held) : (t.enqueue h).ckDue = t.ckDue := rfl
@[simp] theorem Tile.enqueue_haltDue (t : Tile) (h : Held) : (t.enqueue h).haltDue = t.haltDue := rfl
@[simp] theorem Tile.enqueue_lwCount (t : Tile) (h : Held) : (t.enqueue h).lwCount = t.lwCount := rfl
@[simp] theorem Tile.enqueue_lwOn (t : Tile) (h : Held) : (t.enqueue h).lwOn = t.lwOn := rfl
@[simp] theorem Tile.enqueue_freshPins (t : Tile) (h : Held) : (t.enqueue h).freshPins = t.freshPins := rfl
@[simp] theorem Tile.enqueue_issued (t : Tile) (h : Held) : (t.enqueue h).issued = t.issued := rfl
@[simp] theorem Tile.enqueue_tlb (t : Tile) (h : Held) : (t.enqueue h).tlb = t.tlb := rfl
@[simp] theorem Tile.enqueue_doomed (t : Tile) (h : Held) : (t.enqueue h).doomed = t.doomed := rfl
@[simp] theorem Tile.enqueue_extWr (t : Tile) (h : Held) : (t.enqueue h).extWr = t.extWr := rfl
@[simp] theorem Tile.enqueue_flintBad (t : Tile) (h : Held) : (t.enqueue h).flintBad = t.flintBad := rfl
@[simp] theorem Tile.kill_phys (t : Tile) (l : List Dst) : (t.kill l).phys = t.phys := rfl
@[simp] theorem Tile.kill_stat (t : Tile) (l : List Dst) : (t.kill l).stat = t.stat := rfl
@[simp] theorem Tile.kill_ctx (t : Tile) (l : List Dst) : (t.kill l).ctx = t.ctx := rfl
@[simp] theorem Tile.kill_ltile (t : Tile) (l : List Dst) : (t.kill l).ltile = t.ltile := rfl
@[simp] theorem Tile.kill_ntile (t : Tile) (l : List Dst) : (t.kill l).ntile = t.ntile := rfl
@[simp] theorem Tile.kill_ctxn (t : Tile) (l : List Dst) : (t.kill l).ctxn = t.ctxn := rfl
@[simp] theorem Tile.kill_pasid (t : Tile) (l : List Dst) : (t.kill l).pasid = t.pasid := rfl
@[simp] theorem Tile.kill_tvec (t : Tile) (l : List Dst) : (t.kill l).tvec = t.tvec := rfl
@[simp] theorem Tile.kill_task (t : Tile) (l : List Dst) : (t.kill l).task = t.task := rfl
@[simp] theorem Tile.kill_ck (t : Tile) (l : List Dst) : (t.kill l).ck = t.ck := rfl
@[simp] theorem Tile.kill_cyc (t : Tile) (l : List Dst) : (t.kill l).cyc = t.cyc := rfl
@[simp] theorem Tile.kill_cych (t : Tile) (l : List Dst) : (t.kill l).cych = t.cych := rfl
@[simp] theorem Tile.kill_win (t : Tile) (l : List Dst) : (t.kill l).win = t.win := rfl
@[simp] theorem Tile.kill_shadow (t : Tile) (l : List Dst) : (t.kill l).shadow = t.shadow := rfl
@[simp] theorem Tile.kill_wb0 (t : Tile) (l : List Dst) : (t.kill l).wb0 = t.wb0 := rfl
@[simp] theorem Tile.kill_wb1 (t : Tile) (l : List Dst) : (t.kill l).wb1 = t.wb1 := rfl
@[simp] theorem Tile.kill_ckWb0 (t : Tile) (l : List Dst) : (t.kill l).ckWb0 = t.ckWb0 := rfl
@[simp] theorem Tile.kill_ckWb1 (t : Tile) (l : List Dst) : (t.kill l).ckWb1 = t.ckWb1 := rfl
@[simp] theorem Tile.kill_latBad (t : Tile) (l : List Dst) : (t.kill l).latBad = t.latBad := rfl
@[simp] theorem Tile.kill_pend (t : Tile) (l : List Dst) : (t.kill l).pend = t.pend.map (Pending.kill l) := rfl
@[simp] theorem Tile.kill_loads (t : Tile) (l : List Dst) : (t.kill l).loads = t.loads.map fun x => { x with dst := x.dst.kill l } := rfl
@[simp] theorem Tile.kill_jobs (t : Tile) (l : List Dst) : (t.kill l).jobs = t.jobs := rfl
@[simp] theorem Tile.kill_jobSq (t : Tile) (l : List Dst) : (t.kill l).jobSq = t.jobSq := rfl
@[simp] theorem Tile.kill_jobFails (t : Tile) (l : List Dst) : (t.kill l).jobFails = t.jobFails := rfl
@[simp] theorem Tile.kill_cq (t : Tile) (l : List Dst) : (t.kill l).cq = t.cq := rfl
@[simp] theorem Tile.kill_released (t : Tile) (l : List Dst) : (t.kill l).released = t.released := rfl
@[simp] theorem Tile.kill_rb (t : Tile) (l : List Dst) : (t.kill l).rb = t.rb := rfl
@[simp] theorem Tile.kill_loadBuf (t : Tile) (l : List Dst) : (t.kill l).loadBuf = t.loadBuf := rfl
@[simp] theorem Tile.kill_mq (t : Tile) (l : List Dst) : (t.kill l).mq = t.mq.map (XOp.kill l) := rfl
@[simp] theorem Tile.kill_tstId (t : Tile) (l : List Dst) : (t.kill l).tstId = t.tstId := rfl
@[simp] theorem Tile.kill_poison (t : Tile) (l : List Dst) : (t.kill l).poison = t.poison := rfl
@[simp] theorem Tile.kill_ckPoison (t : Tile) (l : List Dst) : (t.kill l).ckPoison = t.ckPoison := rfl
@[simp] theorem Tile.kill_unpins (t : Tile) (l : List Dst) : (t.kill l).unpins = t.unpins := rfl
@[simp] theorem Tile.kill_notes (t : Tile) (l : List Dst) : (t.kill l).notes = t.notes := rfl
@[simp] theorem Tile.kill_recov (t : Tile) (l : List Dst) : (t.kill l).recov = t.recov := rfl
@[simp] theorem Tile.kill_ckFresh (t : Tile) (l : List Dst) : (t.kill l).ckFresh = t.ckFresh := rfl
@[simp] theorem Tile.kill_ckDue (t : Tile) (l : List Dst) : (t.kill l).ckDue = t.ckDue := rfl
@[simp] theorem Tile.kill_haltDue (t : Tile) (l : List Dst) : (t.kill l).haltDue = t.haltDue := rfl
@[simp] theorem Tile.kill_lwCount (t : Tile) (l : List Dst) : (t.kill l).lwCount = t.lwCount := rfl
@[simp] theorem Tile.kill_lwOn (t : Tile) (l : List Dst) : (t.kill l).lwOn = t.lwOn := rfl
@[simp] theorem Tile.kill_freshPins (t : Tile) (l : List Dst) : (t.kill l).freshPins = t.freshPins := rfl
@[simp] theorem Tile.kill_issued (t : Tile) (l : List Dst) : (t.kill l).issued = t.issued := rfl
@[simp] theorem Tile.kill_tlb (t : Tile) (l : List Dst) : (t.kill l).tlb = t.tlb := rfl
@[simp] theorem Tile.kill_doomed (t : Tile) (l : List Dst) : (t.kill l).doomed = t.doomed := rfl
@[simp] theorem Tile.kill_extWr (t : Tile) (l : List Dst) : (t.kill l).extWr = t.extWr := rfl
@[simp] theorem Tile.kill_flintBad (t : Tile) (l : List Dst) : (t.kill l).flintBad = t.flintBad := rfl
@[simp] theorem Tile.putAll_phys (t : Tile) (l : List (Dst × Word)) : (t.putAll l).phys = t.phys := rfl
@[simp] theorem Tile.putAll_stat (t : Tile) (l : List (Dst × Word)) : (t.putAll l).stat = t.stat := rfl
@[simp] theorem Tile.putAll_ctx (t : Tile) (l : List (Dst × Word)) : (t.putAll l).ctx = t.ctx := rfl
@[simp] theorem Tile.putAll_ltile (t : Tile) (l : List (Dst × Word)) : (t.putAll l).ltile = t.ltile := rfl
@[simp] theorem Tile.putAll_ntile (t : Tile) (l : List (Dst × Word)) : (t.putAll l).ntile = t.ntile := rfl
@[simp] theorem Tile.putAll_ctxn (t : Tile) (l : List (Dst × Word)) : (t.putAll l).ctxn = t.ctxn := rfl
@[simp] theorem Tile.putAll_pasid (t : Tile) (l : List (Dst × Word)) : (t.putAll l).pasid = t.pasid := rfl
@[simp] theorem Tile.putAll_tvec (t : Tile) (l : List (Dst × Word)) : (t.putAll l).tvec = t.tvec := rfl
@[simp] theorem Tile.putAll_task (t : Tile) (l : List (Dst × Word)) : (t.putAll l).task = t.task := rfl
@[simp] theorem Tile.putAll_core (t : Tile) (l : List (Dst × Word)) : (t.putAll l).core = t.core.putAll l := rfl
@[simp] theorem Tile.putAll_ck (t : Tile) (l : List (Dst × Word)) : (t.putAll l).ck = t.ck := rfl
@[simp] theorem Tile.putAll_cyc (t : Tile) (l : List (Dst × Word)) : (t.putAll l).cyc = t.cyc := rfl
@[simp] theorem Tile.putAll_cych (t : Tile) (l : List (Dst × Word)) : (t.putAll l).cych = t.cych := rfl
@[simp] theorem Tile.putAll_win (t : Tile) (l : List (Dst × Word)) : (t.putAll l).win = t.win := rfl
@[simp] theorem Tile.putAll_shadow (t : Tile) (l : List (Dst × Word)) : (t.putAll l).shadow = t.shadow := rfl
@[simp] theorem Tile.putAll_wb0 (t : Tile) (l : List (Dst × Word)) : (t.putAll l).wb0 = t.wb0 := rfl
@[simp] theorem Tile.putAll_wb1 (t : Tile) (l : List (Dst × Word)) : (t.putAll l).wb1 = t.wb1 := rfl
@[simp] theorem Tile.putAll_ckWb0 (t : Tile) (l : List (Dst × Word)) : (t.putAll l).ckWb0 = t.ckWb0 := rfl
@[simp] theorem Tile.putAll_ckWb1 (t : Tile) (l : List (Dst × Word)) : (t.putAll l).ckWb1 = t.ckWb1 := rfl
@[simp] theorem Tile.putAll_pend (t : Tile) (l : List (Dst × Word)) : (t.putAll l).pend = t.pend := rfl
@[simp] theorem Tile.putAll_loads (t : Tile) (l : List (Dst × Word)) : (t.putAll l).loads = t.loads := rfl
@[simp] theorem Tile.putAll_jobs (t : Tile) (l : List (Dst × Word)) : (t.putAll l).jobs = t.jobs := rfl
@[simp] theorem Tile.putAll_jobSq (t : Tile) (l : List (Dst × Word)) : (t.putAll l).jobSq = t.jobSq := rfl
@[simp] theorem Tile.putAll_jobFails (t : Tile) (l : List (Dst × Word)) : (t.putAll l).jobFails = t.jobFails := rfl
@[simp] theorem Tile.putAll_cq (t : Tile) (l : List (Dst × Word)) : (t.putAll l).cq = t.cq := rfl
@[simp] theorem Tile.putAll_released (t : Tile) (l : List (Dst × Word)) : (t.putAll l).released = t.released := rfl
@[simp] theorem Tile.putAll_rb (t : Tile) (l : List (Dst × Word)) : (t.putAll l).rb = t.rb := rfl
@[simp] theorem Tile.putAll_loadBuf (t : Tile) (l : List (Dst × Word)) : (t.putAll l).loadBuf = t.loadBuf := rfl
@[simp] theorem Tile.putAll_mq (t : Tile) (l : List (Dst × Word)) : (t.putAll l).mq = t.mq := rfl
@[simp] theorem Tile.putAll_tstId (t : Tile) (l : List (Dst × Word)) : (t.putAll l).tstId = t.tstId := rfl
@[simp] theorem Tile.putAll_poison (t : Tile) (l : List (Dst × Word)) : (t.putAll l).poison = t.poison := rfl
@[simp] theorem Tile.putAll_ckPoison (t : Tile) (l : List (Dst × Word)) : (t.putAll l).ckPoison = t.ckPoison := rfl
@[simp] theorem Tile.putAll_unpins (t : Tile) (l : List (Dst × Word)) : (t.putAll l).unpins = t.unpins := rfl
@[simp] theorem Tile.putAll_notes (t : Tile) (l : List (Dst × Word)) : (t.putAll l).notes = t.notes := rfl
@[simp] theorem Tile.putAll_recov (t : Tile) (l : List (Dst × Word)) : (t.putAll l).recov = t.recov := rfl
@[simp] theorem Tile.putAll_ckFresh (t : Tile) (l : List (Dst × Word)) : (t.putAll l).ckFresh = t.ckFresh := rfl
@[simp] theorem Tile.putAll_ckDue (t : Tile) (l : List (Dst × Word)) : (t.putAll l).ckDue = t.ckDue := rfl
@[simp] theorem Tile.putAll_haltDue (t : Tile) (l : List (Dst × Word)) : (t.putAll l).haltDue = t.haltDue := rfl
@[simp] theorem Tile.putAll_lwCount (t : Tile) (l : List (Dst × Word)) : (t.putAll l).lwCount = t.lwCount := rfl
@[simp] theorem Tile.putAll_lwOn (t : Tile) (l : List (Dst × Word)) : (t.putAll l).lwOn = t.lwOn := rfl
@[simp] theorem Tile.putAll_freshPins (t : Tile) (l : List (Dst × Word)) : (t.putAll l).freshPins = t.freshPins := rfl
@[simp] theorem Tile.putAll_issued (t : Tile) (l : List (Dst × Word)) : (t.putAll l).issued = t.issued := rfl
@[simp] theorem Tile.putAll_tlb (t : Tile) (l : List (Dst × Word)) : (t.putAll l).tlb = t.tlb := rfl
@[simp] theorem Tile.putAll_doomed (t : Tile) (l : List (Dst × Word)) : (t.putAll l).doomed = t.doomed := rfl
@[simp] theorem Tile.putAll_extWr (t : Tile) (l : List (Dst × Word)) : (t.putAll l).extWr = t.extWr := rfl
@[simp] theorem Tile.putAll_flintBad (t : Tile) (l : List (Dst × Word)) : (t.putAll l).flintBad = t.flintBad := rfl
@[simp] theorem Tile.dataError_phys (t : Tile) : (t.dataError).phys = t.phys := rfl
@[simp] theorem Tile.dataError_stat (t : Tile) : (t.dataError).stat = t.stat := rfl
@[simp] theorem Tile.dataError_ctx (t : Tile) : (t.dataError).ctx = t.ctx := rfl
@[simp] theorem Tile.dataError_ltile (t : Tile) : (t.dataError).ltile = t.ltile := rfl
@[simp] theorem Tile.dataError_ntile (t : Tile) : (t.dataError).ntile = t.ntile := rfl
@[simp] theorem Tile.dataError_ctxn (t : Tile) : (t.dataError).ctxn = t.ctxn := rfl
@[simp] theorem Tile.dataError_pasid (t : Tile) : (t.dataError).pasid = t.pasid := rfl
@[simp] theorem Tile.dataError_tvec (t : Tile) : (t.dataError).tvec = t.tvec := rfl
@[simp] theorem Tile.dataError_task (t : Tile) : (t.dataError).task = t.task := rfl
@[simp] theorem Tile.dataError_core (t : Tile) : (t.dataError).core = t.core := rfl
@[simp] theorem Tile.dataError_ck (t : Tile) : (t.dataError).ck = t.ck := rfl
@[simp] theorem Tile.dataError_cyc (t : Tile) : (t.dataError).cyc = t.cyc := rfl
@[simp] theorem Tile.dataError_cych (t : Tile) : (t.dataError).cych = t.cych := rfl
@[simp] theorem Tile.dataError_win (t : Tile) : (t.dataError).win = t.win := rfl
@[simp] theorem Tile.dataError_shadow (t : Tile) : (t.dataError).shadow = t.shadow := rfl
@[simp] theorem Tile.dataError_wb0 (t : Tile) : (t.dataError).wb0 = t.wb0 := rfl
@[simp] theorem Tile.dataError_wb1 (t : Tile) : (t.dataError).wb1 = t.wb1 := rfl
@[simp] theorem Tile.dataError_ckWb0 (t : Tile) : (t.dataError).ckWb0 = t.ckWb0 := rfl
@[simp] theorem Tile.dataError_ckWb1 (t : Tile) : (t.dataError).ckWb1 = t.ckWb1 := rfl
@[simp] theorem Tile.dataError_latBad (t : Tile) : (t.dataError).latBad = t.latBad := rfl
@[simp] theorem Tile.dataError_pend (t : Tile) : (t.dataError).pend = t.pend := rfl
@[simp] theorem Tile.dataError_loads (t : Tile) : (t.dataError).loads = t.loads := rfl
@[simp] theorem Tile.dataError_jobs (t : Tile) : (t.dataError).jobs = t.jobs := rfl
@[simp] theorem Tile.dataError_jobSq (t : Tile) : (t.dataError).jobSq = t.jobSq := rfl
@[simp] theorem Tile.dataError_jobFails (t : Tile) : (t.dataError).jobFails = t.jobFails := rfl
@[simp] theorem Tile.dataError_cq (t : Tile) : (t.dataError).cq = t.cq := rfl
@[simp] theorem Tile.dataError_released (t : Tile) : (t.dataError).released = t.released := rfl
@[simp] theorem Tile.dataError_rb (t : Tile) : (t.dataError).rb = t.rb := rfl
@[simp] theorem Tile.dataError_loadBuf (t : Tile) : (t.dataError).loadBuf = t.loadBuf := rfl
@[simp] theorem Tile.dataError_mq (t : Tile) : (t.dataError).mq = t.mq := rfl
@[simp] theorem Tile.dataError_tstId (t : Tile) : (t.dataError).tstId = t.tstId := rfl
@[simp] theorem Tile.dataError_poison (t : Tile) : (t.dataError).poison = t.poison := rfl
@[simp] theorem Tile.dataError_ckPoison (t : Tile) : (t.dataError).ckPoison = t.ckPoison := rfl
@[simp] theorem Tile.dataError_unpins (t : Tile) : (t.dataError).unpins = t.unpins := rfl
@[simp] theorem Tile.dataError_notes (t : Tile) : (t.dataError).notes = t.notes := rfl
@[simp] theorem Tile.dataError_recov (t : Tile) : (t.dataError).recov = t.recov.detect := rfl
@[simp] theorem Tile.dataError_ckFresh (t : Tile) : (t.dataError).ckFresh = t.ckFresh := rfl
@[simp] theorem Tile.dataError_ckDue (t : Tile) : (t.dataError).ckDue = t.ckDue := rfl
@[simp] theorem Tile.dataError_haltDue (t : Tile) : (t.dataError).haltDue = t.haltDue := rfl
@[simp] theorem Tile.dataError_lwCount (t : Tile) : (t.dataError).lwCount = t.lwCount := rfl
@[simp] theorem Tile.dataError_lwOn (t : Tile) : (t.dataError).lwOn = t.lwOn := rfl
@[simp] theorem Tile.dataError_freshPins (t : Tile) : (t.dataError).freshPins = t.freshPins := rfl
@[simp] theorem Tile.dataError_issued (t : Tile) : (t.dataError).issued = t.issued := rfl
@[simp] theorem Tile.dataError_tlb (t : Tile) : (t.dataError).tlb = t.tlb := rfl
@[simp] theorem Tile.dataError_doomed (t : Tile) : (t.dataError).doomed = t.doomed := rfl
@[simp] theorem Tile.dataError_extWr (t : Tile) : (t.dataError).extWr = t.extWr := rfl
@[simp] theorem Tile.dataError_flintBad (t : Tile) : (t.dataError).flintBad = t.flintBad := rfl
@[simp] theorem Tile.commit_phys (t : Tile) : (t.commit).phys = t.phys := rfl
@[simp] theorem Tile.commit_stat (t : Tile) : (t.commit).stat = t.stat := rfl
@[simp] theorem Tile.commit_ctx (t : Tile) : (t.commit).ctx = t.ctx := rfl
@[simp] theorem Tile.commit_ltile (t : Tile) : (t.commit).ltile = t.ltile := rfl
@[simp] theorem Tile.commit_ntile (t : Tile) : (t.commit).ntile = t.ntile := rfl
@[simp] theorem Tile.commit_ctxn (t : Tile) : (t.commit).ctxn = t.ctxn := rfl
@[simp] theorem Tile.commit_pasid (t : Tile) : (t.commit).pasid = t.pasid := rfl
@[simp] theorem Tile.commit_tvec (t : Tile) : (t.commit).tvec = t.tvec := rfl
@[simp] theorem Tile.commit_task (t : Tile) : (t.commit).task = t.task := rfl
@[simp] theorem Tile.commit_core (t : Tile) : (t.commit).core = t.core := rfl
@[simp] theorem Tile.commit_ck (t : Tile) : (t.commit).ck = t.core := rfl
@[simp] theorem Tile.commit_cyc (t : Tile) : (t.commit).cyc = t.cyc := rfl
@[simp] theorem Tile.commit_cych (t : Tile) : (t.commit).cych = t.cych := rfl
@[simp] theorem Tile.commit_win (t : Tile) : (t.commit).win = t.win := rfl
@[simp] theorem Tile.commit_shadow (t : Tile) : (t.commit).shadow = t.accImage := rfl
@[simp] theorem Tile.commit_wb0 (t : Tile) : (t.commit).wb0 = t.wb0 := rfl
@[simp] theorem Tile.commit_wb1 (t : Tile) : (t.commit).wb1 = t.wb1 := rfl
@[simp] theorem Tile.commit_ckWb0 (t : Tile) : (t.commit).ckWb0 = t.wb0 := rfl
@[simp] theorem Tile.commit_ckWb1 (t : Tile) : (t.commit).ckWb1 = t.wb1 := rfl
@[simp] theorem Tile.commit_latBad (t : Tile) : (t.commit).latBad = t.latBad := rfl
@[simp] theorem Tile.commit_pend (t : Tile) : (t.commit).pend = t.pend := rfl
@[simp] theorem Tile.commit_loads (t : Tile) : (t.commit).loads = t.loads := rfl
@[simp] theorem Tile.commit_jobs (t : Tile) : (t.commit).jobs = t.jobs := rfl
@[simp] theorem Tile.commit_jobSq (t : Tile) : (t.commit).jobSq = t.jobSq := rfl
@[simp] theorem Tile.commit_jobFails (t : Tile) : (t.commit).jobFails = t.jobFails := rfl
@[simp] theorem Tile.commit_cq (t : Tile) : (t.commit).cq = [] := rfl
@[simp] theorem Tile.commit_released (t : Tile) : (t.commit).released = t.released := rfl
@[simp] theorem Tile.commit_rb (t : Tile) : (t.commit).rb = [] := rfl
@[simp] theorem Tile.commit_loadBuf (t : Tile) : (t.commit).loadBuf = [] := rfl
@[simp] theorem Tile.commit_mq (t : Tile) : (t.commit).mq = t.mq := rfl
@[simp] theorem Tile.commit_tstId (t : Tile) : (t.commit).tstId = t.tstId := rfl
@[simp] theorem Tile.commit_poison (t : Tile) : (t.commit).poison = t.poison := rfl
@[simp] theorem Tile.commit_ckPoison (t : Tile) : (t.commit).ckPoison = t.poison := rfl
@[simp] theorem Tile.commit_unpins (t : Tile) : (t.commit).unpins = [] := rfl
@[simp] theorem Tile.commit_notes (t : Tile) : (t.commit).notes = t.notes := rfl
@[simp] theorem Tile.commit_ckFresh (t : Tile) : (t.commit).ckFresh = true := rfl
@[simp] theorem Tile.commit_ckDue (t : Tile) : (t.commit).ckDue = false := rfl
@[simp] theorem Tile.commit_haltDue (t : Tile) : (t.commit).haltDue = false := rfl
@[simp] theorem Tile.commit_lwCount (t : Tile) : (t.commit).lwCount = t.lwCount := rfl
@[simp] theorem Tile.commit_lwOn (t : Tile) : (t.commit).lwOn = t.lwOn := rfl
@[simp] theorem Tile.commit_freshPins (t : Tile) :
    (t.commit).freshPins = if t.recov.kept.isEmpty then [] else t.freshPins := rfl
@[simp] theorem Tile.commit_issued (t : Tile) : (t.commit).issued = t.issued := rfl
@[simp] theorem Tile.commit_tlb (t : Tile) : (t.commit).tlb = t.tlb := rfl
@[simp] theorem Tile.commit_doomed (t : Tile) : (t.commit).doomed = t.doomed := rfl
@[simp] theorem Tile.commit_extWr (t : Tile) : (t.commit).extWr = [] := rfl
@[simp] theorem Tile.commit_flintBad (t : Tile) : (t.commit).flintBad = t.flintBad := rfl
@[simp] theorem Tile.enter_phys (t : Tile) (a : BitVec 20) (x y : Word) : (t.enter a x y).phys = t.phys := rfl
@[simp] theorem Tile.enter_stat (t : Tile) (a : BitVec 20) (x y : Word) : (t.enter a x y).stat = t.stat := rfl
@[simp] theorem Tile.enter_ctx (t : Tile) (a : BitVec 20) (x y : Word) : (t.enter a x y).ctx = t.ctx := rfl
@[simp] theorem Tile.enter_ltile (t : Tile) (a : BitVec 20) (x y : Word) : (t.enter a x y).ltile = t.ltile := rfl
@[simp] theorem Tile.enter_ntile (t : Tile) (a : BitVec 20) (x y : Word) : (t.enter a x y).ntile = t.ntile := rfl
@[simp] theorem Tile.enter_ctxn (t : Tile) (a : BitVec 20) (x y : Word) : (t.enter a x y).ctxn = t.ctxn := rfl
@[simp] theorem Tile.enter_pasid (t : Tile) (a : BitVec 20) (x y : Word) : (t.enter a x y).pasid = t.pasid := rfl
@[simp] theorem Tile.enter_tvec (t : Tile) (a : BitVec 20) (x y : Word) : (t.enter a x y).tvec = t.tvec := rfl
@[simp] theorem Tile.enter_task (t : Tile) (a : BitVec 20) (x y : Word) : (t.enter a x y).task = t.task := rfl
@[simp] theorem Tile.enter_ck (t : Tile) (a : BitVec 20) (x y : Word) : (t.enter a x y).ck = t.ck := rfl
@[simp] theorem Tile.enter_cyc (t : Tile) (a : BitVec 20) (x y : Word) : (t.enter a x y).cyc = t.cyc := rfl
@[simp] theorem Tile.enter_cych (t : Tile) (a : BitVec 20) (x y : Word) : (t.enter a x y).cych = t.cych := rfl
@[simp] theorem Tile.enter_win (t : Tile) (a : BitVec 20) (x y : Word) : (t.enter a x y).win = t.win := rfl
@[simp] theorem Tile.enter_shadow (t : Tile) (a : BitVec 20) (x y : Word) : (t.enter a x y).shadow = t.shadow := rfl
@[simp] theorem Tile.enter_wb0 (t : Tile) (a : BitVec 20) (x y : Word) : (t.enter a x y).wb0 = t.wb0 := rfl
@[simp] theorem Tile.enter_wb1 (t : Tile) (a : BitVec 20) (x y : Word) : (t.enter a x y).wb1 = t.wb1 := rfl
@[simp] theorem Tile.enter_ckWb0 (t : Tile) (a : BitVec 20) (x y : Word) : (t.enter a x y).ckWb0 = t.ckWb0 := rfl
@[simp] theorem Tile.enter_ckWb1 (t : Tile) (a : BitVec 20) (x y : Word) : (t.enter a x y).ckWb1 = t.ckWb1 := rfl
@[simp] theorem Tile.enter_latBad (t : Tile) (a : BitVec 20) (x y : Word) : (t.enter a x y).latBad = t.latBad := rfl
@[simp] theorem Tile.enter_pend (t : Tile) (a : BitVec 20) (x y : Word) : (t.enter a x y).pend = t.pend := rfl
@[simp] theorem Tile.enter_loads (t : Tile) (a : BitVec 20) (x y : Word) : (t.enter a x y).loads = t.loads := rfl
@[simp] theorem Tile.enter_jobs (t : Tile) (a : BitVec 20) (x y : Word) : (t.enter a x y).jobs = t.jobs := rfl
@[simp] theorem Tile.enter_jobSq (t : Tile) (a : BitVec 20) (x y : Word) : (t.enter a x y).jobSq = t.jobSq := rfl
@[simp] theorem Tile.enter_jobFails (t : Tile) (a : BitVec 20) (x y : Word) : (t.enter a x y).jobFails = t.jobFails := rfl
@[simp] theorem Tile.enter_cq (t : Tile) (a : BitVec 20) (x y : Word) : (t.enter a x y).cq = t.cq := rfl
@[simp] theorem Tile.enter_released (t : Tile) (a : BitVec 20) (x y : Word) : (t.enter a x y).released = t.released := rfl
@[simp] theorem Tile.enter_rb (t : Tile) (a : BitVec 20) (x y : Word) : (t.enter a x y).rb = t.rb := rfl
@[simp] theorem Tile.enter_loadBuf (t : Tile) (a : BitVec 20) (x y : Word) : (t.enter a x y).loadBuf = t.loadBuf := rfl
@[simp] theorem Tile.enter_mq (t : Tile) (a : BitVec 20) (x y : Word) : (t.enter a x y).mq = t.mq := rfl
@[simp] theorem Tile.enter_tstId (t : Tile) (a : BitVec 20) (x y : Word) : (t.enter a x y).tstId = t.tstId := rfl
@[simp] theorem Tile.enter_poison (t : Tile) (a : BitVec 20) (x y : Word) : (t.enter a x y).poison = t.poison := rfl
@[simp] theorem Tile.enter_ckPoison (t : Tile) (a : BitVec 20) (x y : Word) : (t.enter a x y).ckPoison = t.ckPoison := rfl
@[simp] theorem Tile.enter_unpins (t : Tile) (a : BitVec 20) (x y : Word) : (t.enter a x y).unpins = t.unpins := rfl
@[simp] theorem Tile.enter_notes (t : Tile) (a : BitVec 20) (x y : Word) : (t.enter a x y).notes = t.notes := rfl
@[simp] theorem Tile.enter_recov (t : Tile) (a : BitVec 20) (x y : Word) : (t.enter a x y).recov = t.keepLog := rfl
@[simp] theorem Tile.enter_ckFresh (t : Tile) (a : BitVec 20) (x y : Word) : (t.enter a x y).ckFresh = t.ckFresh := rfl
@[simp] theorem Tile.enter_ckDue (t : Tile) (a : BitVec 20) (x y : Word) : (t.enter a x y).ckDue = t.ckDue := rfl
@[simp] theorem Tile.enter_haltDue (t : Tile) (a : BitVec 20) (x y : Word) : (t.enter a x y).haltDue = t.haltDue := rfl
@[simp] theorem Tile.enter_lwCount (t : Tile) (a : BitVec 20) (x y : Word) : (t.enter a x y).lwCount = 0 := rfl
@[simp] theorem Tile.enter_lwOn (t : Tile) (a : BitVec 20) (x y : Word) : (t.enter a x y).lwOn = none := rfl
@[simp] theorem Tile.enter_freshPins (t : Tile) (a : BitVec 20) (x y : Word) : (t.enter a x y).freshPins = t.freshPins := rfl
@[simp] theorem Tile.enter_issued (t : Tile) (a : BitVec 20) (x y : Word) : (t.enter a x y).issued = t.issued := rfl
@[simp] theorem Tile.enter_tlb (t : Tile) (a : BitVec 20) (x y : Word) : (t.enter a x y).tlb = t.tlb := rfl
@[simp] theorem Tile.enter_doomed (t : Tile) (a : BitVec 20) (x y : Word) : (t.enter a x y).doomed = t.doomed := rfl
@[simp] theorem Tile.enter_extWr (t : Tile) (a : BitVec 20) (x y : Word) : (t.enter a x y).extWr = t.extWr := rfl
@[simp] theorem Tile.enter_flintBad (t : Tile) (a : BitVec 20) (x y : Word) : (t.enter a x y).flintBad = t.flintBad := rfl
@[simp] theorem Tile.clearFlint_phys (t : Tile) (l : List Nat) : (t.clearFlint l).phys = t.phys := rfl
@[simp] theorem Tile.clearFlint_stat (t : Tile) (l : List Nat) : (t.clearFlint l).stat = t.stat := rfl
@[simp] theorem Tile.clearFlint_ctx (t : Tile) (l : List Nat) : (t.clearFlint l).ctx = t.ctx := rfl
@[simp] theorem Tile.clearFlint_ltile (t : Tile) (l : List Nat) : (t.clearFlint l).ltile = t.ltile := rfl
@[simp] theorem Tile.clearFlint_ntile (t : Tile) (l : List Nat) : (t.clearFlint l).ntile = t.ntile := rfl
@[simp] theorem Tile.clearFlint_ctxn (t : Tile) (l : List Nat) : (t.clearFlint l).ctxn = t.ctxn := rfl
@[simp] theorem Tile.clearFlint_pasid (t : Tile) (l : List Nat) : (t.clearFlint l).pasid = t.pasid := rfl
@[simp] theorem Tile.clearFlint_tvec (t : Tile) (l : List Nat) : (t.clearFlint l).tvec = t.tvec := rfl
@[simp] theorem Tile.clearFlint_task (t : Tile) (l : List Nat) : (t.clearFlint l).task = t.task := rfl
@[simp] theorem Tile.clearFlint_core (t : Tile) (l : List Nat) : (t.clearFlint l).core = t.core := rfl
@[simp] theorem Tile.clearFlint_ck (t : Tile) (l : List Nat) : (t.clearFlint l).ck = t.ck := rfl
@[simp] theorem Tile.clearFlint_cyc (t : Tile) (l : List Nat) : (t.clearFlint l).cyc = t.cyc := rfl
@[simp] theorem Tile.clearFlint_cych (t : Tile) (l : List Nat) : (t.clearFlint l).cych = t.cych := rfl
@[simp] theorem Tile.clearFlint_win (t : Tile) (l : List Nat) : (t.clearFlint l).win = t.win := rfl
@[simp] theorem Tile.clearFlint_shadow (t : Tile) (l : List Nat) : (t.clearFlint l).shadow = t.shadow := rfl
@[simp] theorem Tile.clearFlint_wb0 (t : Tile) (l : List Nat) : (t.clearFlint l).wb0 = t.wb0 := rfl
@[simp] theorem Tile.clearFlint_wb1 (t : Tile) (l : List Nat) : (t.clearFlint l).wb1 = t.wb1 := rfl
@[simp] theorem Tile.clearFlint_ckWb0 (t : Tile) (l : List Nat) : (t.clearFlint l).ckWb0 = t.ckWb0 := rfl
@[simp] theorem Tile.clearFlint_ckWb1 (t : Tile) (l : List Nat) : (t.clearFlint l).ckWb1 = t.ckWb1 := rfl
@[simp] theorem Tile.clearFlint_latBad (t : Tile) (l : List Nat) : (t.clearFlint l).latBad = t.latBad := rfl
@[simp] theorem Tile.clearFlint_pend (t : Tile) (l : List Nat) : (t.clearFlint l).pend = t.pend := rfl
@[simp] theorem Tile.clearFlint_loads (t : Tile) (l : List Nat) : (t.clearFlint l).loads = t.loads := rfl
@[simp] theorem Tile.clearFlint_jobs (t : Tile) (l : List Nat) : (t.clearFlint l).jobs = t.jobs := rfl
@[simp] theorem Tile.clearFlint_jobSq (t : Tile) (l : List Nat) : (t.clearFlint l).jobSq = t.jobSq := rfl
@[simp] theorem Tile.clearFlint_jobFails (t : Tile) (l : List Nat) : (t.clearFlint l).jobFails = t.jobFails := rfl
@[simp] theorem Tile.clearFlint_cq (t : Tile) (l : List Nat) : (t.clearFlint l).cq = t.cq := rfl
@[simp] theorem Tile.clearFlint_released (t : Tile) (l : List Nat) : (t.clearFlint l).released = t.released := rfl
@[simp] theorem Tile.clearFlint_rb (t : Tile) (l : List Nat) : (t.clearFlint l).rb = t.rb := rfl
@[simp] theorem Tile.clearFlint_loadBuf (t : Tile) (l : List Nat) : (t.clearFlint l).loadBuf = t.loadBuf := rfl
@[simp] theorem Tile.clearFlint_mq (t : Tile) (l : List Nat) : (t.clearFlint l).mq = t.mq := rfl
@[simp] theorem Tile.clearFlint_tstId (t : Tile) (l : List Nat) : (t.clearFlint l).tstId = t.tstId := rfl
@[simp] theorem Tile.clearFlint_poison (t : Tile) (l : List Nat) : (t.clearFlint l).poison = t.poison := rfl
@[simp] theorem Tile.clearFlint_ckPoison (t : Tile) (l : List Nat) : (t.clearFlint l).ckPoison = t.ckPoison := rfl
@[simp] theorem Tile.clearFlint_unpins (t : Tile) (l : List Nat) : (t.clearFlint l).unpins = t.unpins := rfl
@[simp] theorem Tile.clearFlint_notes (t : Tile) (l : List Nat) : (t.clearFlint l).notes = t.notes := rfl
@[simp] theorem Tile.clearFlint_recov (t : Tile) (l : List Nat) : (t.clearFlint l).recov = t.recov := rfl
@[simp] theorem Tile.clearFlint_ckFresh (t : Tile) (l : List Nat) : (t.clearFlint l).ckFresh = t.ckFresh := rfl
@[simp] theorem Tile.clearFlint_ckDue (t : Tile) (l : List Nat) : (t.clearFlint l).ckDue = t.ckDue := rfl
@[simp] theorem Tile.clearFlint_haltDue (t : Tile) (l : List Nat) : (t.clearFlint l).haltDue = t.haltDue := rfl
@[simp] theorem Tile.clearFlint_lwCount (t : Tile) (l : List Nat) : (t.clearFlint l).lwCount = t.lwCount := rfl
@[simp] theorem Tile.clearFlint_lwOn (t : Tile) (l : List Nat) : (t.clearFlint l).lwOn = t.lwOn := rfl
@[simp] theorem Tile.clearFlint_freshPins (t : Tile) (l : List Nat) : (t.clearFlint l).freshPins = t.freshPins := rfl
@[simp] theorem Tile.clearFlint_issued (t : Tile) (l : List Nat) : (t.clearFlint l).issued = t.issued := rfl
@[simp] theorem Tile.clearFlint_tlb (t : Tile) (l : List Nat) : (t.clearFlint l).tlb = t.tlb := rfl
@[simp] theorem Tile.clearFlint_doomed (t : Tile) (l : List Nat) : (t.clearFlint l).doomed = t.doomed := rfl
@[simp] theorem Tile.clearFlint_extWr (t : Tile) (l : List Nat) : (t.clearFlint l).extWr = t.extWr := rfl
@[simp] theorem Tile.wroteFlint_phys (t : Tile) (o n : Nat) : (t.wroteFlint o n).phys = t.phys := rfl
@[simp] theorem Tile.wroteFlint_stat (t : Tile) (o n : Nat) : (t.wroteFlint o n).stat = t.stat := rfl
@[simp] theorem Tile.wroteFlint_ctx (t : Tile) (o n : Nat) : (t.wroteFlint o n).ctx = t.ctx := rfl
@[simp] theorem Tile.wroteFlint_ltile (t : Tile) (o n : Nat) : (t.wroteFlint o n).ltile = t.ltile := rfl
@[simp] theorem Tile.wroteFlint_ntile (t : Tile) (o n : Nat) : (t.wroteFlint o n).ntile = t.ntile := rfl
@[simp] theorem Tile.wroteFlint_ctxn (t : Tile) (o n : Nat) : (t.wroteFlint o n).ctxn = t.ctxn := rfl
@[simp] theorem Tile.wroteFlint_pasid (t : Tile) (o n : Nat) : (t.wroteFlint o n).pasid = t.pasid := rfl
@[simp] theorem Tile.wroteFlint_tvec (t : Tile) (o n : Nat) : (t.wroteFlint o n).tvec = t.tvec := rfl
@[simp] theorem Tile.wroteFlint_task (t : Tile) (o n : Nat) : (t.wroteFlint o n).task = t.task := rfl
@[simp] theorem Tile.wroteFlint_core (t : Tile) (o n : Nat) : (t.wroteFlint o n).core = t.core := rfl
@[simp] theorem Tile.wroteFlint_ck (t : Tile) (o n : Nat) : (t.wroteFlint o n).ck = t.ck := rfl
@[simp] theorem Tile.wroteFlint_cyc (t : Tile) (o n : Nat) : (t.wroteFlint o n).cyc = t.cyc := rfl
@[simp] theorem Tile.wroteFlint_cych (t : Tile) (o n : Nat) : (t.wroteFlint o n).cych = t.cych := rfl
@[simp] theorem Tile.wroteFlint_win (t : Tile) (o n : Nat) : (t.wroteFlint o n).win = t.win := rfl
@[simp] theorem Tile.wroteFlint_shadow (t : Tile) (o n : Nat) : (t.wroteFlint o n).shadow = t.shadow := rfl
@[simp] theorem Tile.wroteFlint_wb0 (t : Tile) (o n : Nat) : (t.wroteFlint o n).wb0 = t.wb0 := rfl
@[simp] theorem Tile.wroteFlint_wb1 (t : Tile) (o n : Nat) : (t.wroteFlint o n).wb1 = t.wb1 := rfl
@[simp] theorem Tile.wroteFlint_ckWb0 (t : Tile) (o n : Nat) : (t.wroteFlint o n).ckWb0 = t.ckWb0 := rfl
@[simp] theorem Tile.wroteFlint_ckWb1 (t : Tile) (o n : Nat) : (t.wroteFlint o n).ckWb1 = t.ckWb1 := rfl
@[simp] theorem Tile.wroteFlint_latBad (t : Tile) (o n : Nat) : (t.wroteFlint o n).latBad = t.latBad := rfl
@[simp] theorem Tile.wroteFlint_pend (t : Tile) (o n : Nat) : (t.wroteFlint o n).pend = t.pend := rfl
@[simp] theorem Tile.wroteFlint_loads (t : Tile) (o n : Nat) : (t.wroteFlint o n).loads = t.loads := rfl
@[simp] theorem Tile.wroteFlint_jobs (t : Tile) (o n : Nat) : (t.wroteFlint o n).jobs = t.jobs := rfl
@[simp] theorem Tile.wroteFlint_jobSq (t : Tile) (o n : Nat) : (t.wroteFlint o n).jobSq = t.jobSq := rfl
@[simp] theorem Tile.wroteFlint_jobFails (t : Tile) (o n : Nat) : (t.wroteFlint o n).jobFails = t.jobFails := rfl
@[simp] theorem Tile.wroteFlint_cq (t : Tile) (o n : Nat) : (t.wroteFlint o n).cq = t.cq := rfl
@[simp] theorem Tile.wroteFlint_released (t : Tile) (o n : Nat) : (t.wroteFlint o n).released = t.released := rfl
@[simp] theorem Tile.wroteFlint_rb (t : Tile) (o n : Nat) : (t.wroteFlint o n).rb = t.rb := rfl
@[simp] theorem Tile.wroteFlint_loadBuf (t : Tile) (o n : Nat) : (t.wroteFlint o n).loadBuf = t.loadBuf := rfl
@[simp] theorem Tile.wroteFlint_mq (t : Tile) (o n : Nat) : (t.wroteFlint o n).mq = t.mq := rfl
@[simp] theorem Tile.wroteFlint_tstId (t : Tile) (o n : Nat) : (t.wroteFlint o n).tstId = t.tstId := rfl
@[simp] theorem Tile.wroteFlint_poison (t : Tile) (o n : Nat) : (t.wroteFlint o n).poison = t.poison := rfl
@[simp] theorem Tile.wroteFlint_ckPoison (t : Tile) (o n : Nat) : (t.wroteFlint o n).ckPoison = t.ckPoison := rfl
@[simp] theorem Tile.wroteFlint_unpins (t : Tile) (o n : Nat) : (t.wroteFlint o n).unpins = t.unpins := rfl
@[simp] theorem Tile.wroteFlint_notes (t : Tile) (o n : Nat) : (t.wroteFlint o n).notes = t.notes := rfl
@[simp] theorem Tile.wroteFlint_recov (t : Tile) (o n : Nat) : (t.wroteFlint o n).recov = t.recov := rfl
@[simp] theorem Tile.wroteFlint_ckFresh (t : Tile) (o n : Nat) : (t.wroteFlint o n).ckFresh = t.ckFresh := rfl
@[simp] theorem Tile.wroteFlint_ckDue (t : Tile) (o n : Nat) : (t.wroteFlint o n).ckDue = t.ckDue := rfl
@[simp] theorem Tile.wroteFlint_haltDue (t : Tile) (o n : Nat) : (t.wroteFlint o n).haltDue = t.haltDue := rfl
@[simp] theorem Tile.wroteFlint_lwCount (t : Tile) (o n : Nat) : (t.wroteFlint o n).lwCount = t.lwCount := rfl
@[simp] theorem Tile.wroteFlint_lwOn (t : Tile) (o n : Nat) : (t.wroteFlint o n).lwOn = t.lwOn := rfl
@[simp] theorem Tile.wroteFlint_freshPins (t : Tile) (o n : Nat) : (t.wroteFlint o n).freshPins = t.freshPins := rfl
@[simp] theorem Tile.wroteFlint_issued (t : Tile) (o n : Nat) : (t.wroteFlint o n).issued = t.issued := rfl
@[simp] theorem Tile.wroteFlint_tlb (t : Tile) (o n : Nat) : (t.wroteFlint o n).tlb = t.tlb := rfl
@[simp] theorem Tile.wroteFlint_doomed (t : Tile) (o n : Nat) : (t.wroteFlint o n).doomed = t.doomed := rfl
@[simp] theorem Tile.wroteFlint_extWr (t : Tile) (o n : Nat) : (t.wroteFlint o n).extWr = t.extWr := rfl
@[simp] theorem Tile.await_phys (t : Tile) (b : Bool) : (t.await b).phys = t.phys := rfl
@[simp] theorem Tile.await_stat (t : Tile) (b : Bool) : (t.await b).stat = t.stat := rfl
@[simp] theorem Tile.await_ctx (t : Tile) (b : Bool) : (t.await b).ctx = t.ctx := rfl
@[simp] theorem Tile.await_ltile (t : Tile) (b : Bool) : (t.await b).ltile = t.ltile := rfl
@[simp] theorem Tile.await_ntile (t : Tile) (b : Bool) : (t.await b).ntile = t.ntile := rfl
@[simp] theorem Tile.await_ctxn (t : Tile) (b : Bool) : (t.await b).ctxn = t.ctxn := rfl
@[simp] theorem Tile.await_pasid (t : Tile) (b : Bool) : (t.await b).pasid = t.pasid := rfl
@[simp] theorem Tile.await_tvec (t : Tile) (b : Bool) : (t.await b).tvec = t.tvec := rfl
@[simp] theorem Tile.await_task (t : Tile) (b : Bool) : (t.await b).task = t.task := rfl
@[simp] theorem Tile.await_core (t : Tile) (b : Bool) : (t.await b).core = t.core := rfl
@[simp] theorem Tile.await_ck (t : Tile) (b : Bool) : (t.await b).ck = t.ck := rfl
@[simp] theorem Tile.await_cyc (t : Tile) (b : Bool) : (t.await b).cyc = t.cyc := rfl
@[simp] theorem Tile.await_cych (t : Tile) (b : Bool) : (t.await b).cych = t.cych := rfl
@[simp] theorem Tile.await_win (t : Tile) (b : Bool) : (t.await b).win = t.win := rfl
@[simp] theorem Tile.await_shadow (t : Tile) (b : Bool) : (t.await b).shadow = t.shadow := rfl
@[simp] theorem Tile.await_wb0 (t : Tile) (b : Bool) : (t.await b).wb0 = t.wb0 := rfl
@[simp] theorem Tile.await_wb1 (t : Tile) (b : Bool) : (t.await b).wb1 = t.wb1 := rfl
@[simp] theorem Tile.await_ckWb0 (t : Tile) (b : Bool) : (t.await b).ckWb0 = t.ckWb0 := rfl
@[simp] theorem Tile.await_ckWb1 (t : Tile) (b : Bool) : (t.await b).ckWb1 = t.ckWb1 := rfl
@[simp] theorem Tile.await_latBad (t : Tile) (b : Bool) : (t.await b).latBad = t.latBad := rfl
@[simp] theorem Tile.await_pend (t : Tile) (b : Bool) : (t.await b).pend = t.pend := rfl
@[simp] theorem Tile.await_loads (t : Tile) (b : Bool) : (t.await b).loads = t.loads := rfl
@[simp] theorem Tile.await_jobs (t : Tile) (b : Bool) : (t.await b).jobs = t.jobs := rfl
@[simp] theorem Tile.await_jobSq (t : Tile) (b : Bool) : (t.await b).jobSq = t.jobSq := rfl
@[simp] theorem Tile.await_jobFails (t : Tile) (b : Bool) : (t.await b).jobFails = t.jobFails := rfl
@[simp] theorem Tile.await_cq (t : Tile) (b : Bool) : (t.await b).cq = t.cq := rfl
@[simp] theorem Tile.await_released (t : Tile) (b : Bool) : (t.await b).released = t.released := rfl
@[simp] theorem Tile.await_rb (t : Tile) (b : Bool) : (t.await b).rb = t.rb := rfl
@[simp] theorem Tile.await_loadBuf (t : Tile) (b : Bool) : (t.await b).loadBuf = t.loadBuf := rfl
@[simp] theorem Tile.await_mq (t : Tile) (b : Bool) : (t.await b).mq = t.mq := rfl
@[simp] theorem Tile.await_tstId (t : Tile) (b : Bool) : (t.await b).tstId = t.tstId := rfl
@[simp] theorem Tile.await_poison (t : Tile) (b : Bool) : (t.await b).poison = t.poison := rfl
@[simp] theorem Tile.await_ckPoison (t : Tile) (b : Bool) : (t.await b).ckPoison = t.ckPoison := rfl
@[simp] theorem Tile.await_unpins (t : Tile) (b : Bool) : (t.await b).unpins = t.unpins := rfl
@[simp] theorem Tile.await_ckFresh (t : Tile) (b : Bool) : (t.await b).ckFresh = t.ckFresh := rfl
@[simp] theorem Tile.await_ckDue (t : Tile) (b : Bool) : (t.await b).ckDue = t.ckDue := rfl
@[simp] theorem Tile.await_haltDue (t : Tile) (b : Bool) : (t.await b).haltDue = t.haltDue := rfl
@[simp] theorem Tile.await_lwCount (t : Tile) (b : Bool) : (t.await b).lwCount = t.lwCount := rfl
@[simp] theorem Tile.await_lwOn (t : Tile) (b : Bool) : (t.await b).lwOn = t.lwOn := rfl
@[simp] theorem Tile.await_freshPins (t : Tile) (b : Bool) : (t.await b).freshPins = t.freshPins := rfl
@[simp] theorem Tile.await_issued (t : Tile) (b : Bool) : (t.await b).issued = t.issued := rfl
@[simp] theorem Tile.await_tlb (t : Tile) (b : Bool) : (t.await b).tlb = t.tlb := rfl
@[simp] theorem Tile.await_extWr (t : Tile) (b : Bool) : (t.await b).extWr = t.extWr := rfl
@[simp] theorem Tile.await_flintBad (t : Tile) (b : Bool) : (t.await b).flintBad = t.flintBad := rfl
@[simp] theorem Tile.setJob_phys (t : Tile) (j : Job) : (t.setJob j).phys = t.phys := rfl
@[simp] theorem Tile.setJob_stat (t : Tile) (j : Job) : (t.setJob j).stat = t.stat := rfl
@[simp] theorem Tile.setJob_ctx (t : Tile) (j : Job) : (t.setJob j).ctx = t.ctx := rfl
@[simp] theorem Tile.setJob_ltile (t : Tile) (j : Job) : (t.setJob j).ltile = t.ltile := rfl
@[simp] theorem Tile.setJob_ntile (t : Tile) (j : Job) : (t.setJob j).ntile = t.ntile := rfl
@[simp] theorem Tile.setJob_ctxn (t : Tile) (j : Job) : (t.setJob j).ctxn = t.ctxn := rfl
@[simp] theorem Tile.setJob_pasid (t : Tile) (j : Job) : (t.setJob j).pasid = t.pasid := rfl
@[simp] theorem Tile.setJob_tvec (t : Tile) (j : Job) : (t.setJob j).tvec = t.tvec := rfl
@[simp] theorem Tile.setJob_task (t : Tile) (j : Job) : (t.setJob j).task = t.task := rfl
@[simp] theorem Tile.setJob_core (t : Tile) (j : Job) : (t.setJob j).core = t.core := rfl
@[simp] theorem Tile.setJob_ck (t : Tile) (j : Job) : (t.setJob j).ck = t.ck := rfl
@[simp] theorem Tile.setJob_cyc (t : Tile) (j : Job) : (t.setJob j).cyc = t.cyc := rfl
@[simp] theorem Tile.setJob_cych (t : Tile) (j : Job) : (t.setJob j).cych = t.cych := rfl
@[simp] theorem Tile.setJob_win (t : Tile) (j : Job) : (t.setJob j).win = t.win := rfl
@[simp] theorem Tile.setJob_shadow (t : Tile) (j : Job) : (t.setJob j).shadow = t.shadow := rfl
@[simp] theorem Tile.setJob_wb0 (t : Tile) (j : Job) : (t.setJob j).wb0 = t.wb0 := rfl
@[simp] theorem Tile.setJob_wb1 (t : Tile) (j : Job) : (t.setJob j).wb1 = t.wb1 := rfl
@[simp] theorem Tile.setJob_ckWb0 (t : Tile) (j : Job) : (t.setJob j).ckWb0 = t.ckWb0 := rfl
@[simp] theorem Tile.setJob_ckWb1 (t : Tile) (j : Job) : (t.setJob j).ckWb1 = t.ckWb1 := rfl
@[simp] theorem Tile.setJob_latBad (t : Tile) (j : Job) : (t.setJob j).latBad = t.latBad := rfl
@[simp] theorem Tile.setJob_pend (t : Tile) (j : Job) : (t.setJob j).pend = t.pend := rfl
@[simp] theorem Tile.setJob_loads (t : Tile) (j : Job) : (t.setJob j).loads = t.loads := rfl
@[simp] theorem Tile.setJob_jobSq (t : Tile) (j : Job) : (t.setJob j).jobSq = t.jobSq := rfl
@[simp] theorem Tile.setJob_jobFails (t : Tile) (j : Job) : (t.setJob j).jobFails = t.jobFails := rfl
@[simp] theorem Tile.setJob_cq (t : Tile) (j : Job) : (t.setJob j).cq = t.cq := rfl
@[simp] theorem Tile.setJob_released (t : Tile) (j : Job) : (t.setJob j).released = t.released := rfl
@[simp] theorem Tile.setJob_rb (t : Tile) (j : Job) : (t.setJob j).rb = t.rb := rfl
@[simp] theorem Tile.setJob_loadBuf (t : Tile) (j : Job) : (t.setJob j).loadBuf = t.loadBuf := rfl
@[simp] theorem Tile.setJob_mq (t : Tile) (j : Job) : (t.setJob j).mq = t.mq := rfl
@[simp] theorem Tile.setJob_tstId (t : Tile) (j : Job) : (t.setJob j).tstId = t.tstId := rfl
@[simp] theorem Tile.setJob_poison (t : Tile) (j : Job) : (t.setJob j).poison = t.poison := rfl
@[simp] theorem Tile.setJob_ckPoison (t : Tile) (j : Job) : (t.setJob j).ckPoison = t.ckPoison := rfl
@[simp] theorem Tile.setJob_unpins (t : Tile) (j : Job) : (t.setJob j).unpins = t.unpins := rfl
@[simp] theorem Tile.setJob_notes (t : Tile) (j : Job) : (t.setJob j).notes = t.notes := rfl
@[simp] theorem Tile.setJob_recov (t : Tile) (j : Job) : (t.setJob j).recov = t.recov := rfl
@[simp] theorem Tile.setJob_ckFresh (t : Tile) (j : Job) : (t.setJob j).ckFresh = t.ckFresh := rfl
@[simp] theorem Tile.setJob_ckDue (t : Tile) (j : Job) : (t.setJob j).ckDue = t.ckDue := rfl
@[simp] theorem Tile.setJob_haltDue (t : Tile) (j : Job) : (t.setJob j).haltDue = t.haltDue := rfl
@[simp] theorem Tile.setJob_lwCount (t : Tile) (j : Job) : (t.setJob j).lwCount = t.lwCount := rfl
@[simp] theorem Tile.setJob_lwOn (t : Tile) (j : Job) : (t.setJob j).lwOn = t.lwOn := rfl
@[simp] theorem Tile.setJob_freshPins (t : Tile) (j : Job) : (t.setJob j).freshPins = t.freshPins := rfl
@[simp] theorem Tile.setJob_issued (t : Tile) (j : Job) : (t.setJob j).issued = t.issued := rfl
@[simp] theorem Tile.setJob_tlb (t : Tile) (j : Job) : (t.setJob j).tlb = t.tlb := rfl
@[simp] theorem Tile.setJob_doomed (t : Tile) (j : Job) : (t.setJob j).doomed = t.doomed := rfl
@[simp] theorem Tile.setJob_extWr (t : Tile) (j : Job) : (t.setJob j).extWr = t.extWr := rfl
@[simp] theorem Tile.setJob_flintBad (t : Tile) (j : Job) : (t.setJob j).flintBad = t.flintBad := rfl
@[simp] theorem Tile.addReleased_phys (t : Tile) (h : Held) : (t.addReleased h).phys = t.phys := rfl
@[simp] theorem Tile.addReleased_stat (t : Tile) (h : Held) : (t.addReleased h).stat = t.stat := rfl
@[simp] theorem Tile.addReleased_ctx (t : Tile) (h : Held) : (t.addReleased h).ctx = t.ctx := rfl
@[simp] theorem Tile.addReleased_ltile (t : Tile) (h : Held) : (t.addReleased h).ltile = t.ltile := rfl
@[simp] theorem Tile.addReleased_ntile (t : Tile) (h : Held) : (t.addReleased h).ntile = t.ntile := rfl
@[simp] theorem Tile.addReleased_ctxn (t : Tile) (h : Held) : (t.addReleased h).ctxn = t.ctxn := rfl
@[simp] theorem Tile.addReleased_pasid (t : Tile) (h : Held) : (t.addReleased h).pasid = t.pasid := rfl
@[simp] theorem Tile.addReleased_tvec (t : Tile) (h : Held) : (t.addReleased h).tvec = t.tvec := rfl
@[simp] theorem Tile.addReleased_task (t : Tile) (h : Held) : (t.addReleased h).task = t.task := rfl
@[simp] theorem Tile.addReleased_core (t : Tile) (h : Held) : (t.addReleased h).core = t.core := rfl
@[simp] theorem Tile.addReleased_ck (t : Tile) (h : Held) : (t.addReleased h).ck = t.ck := rfl
@[simp] theorem Tile.addReleased_cyc (t : Tile) (h : Held) : (t.addReleased h).cyc = t.cyc := rfl
@[simp] theorem Tile.addReleased_cych (t : Tile) (h : Held) : (t.addReleased h).cych = t.cych := rfl
@[simp] theorem Tile.addReleased_win (t : Tile) (h : Held) : (t.addReleased h).win = t.win := rfl
@[simp] theorem Tile.addReleased_shadow (t : Tile) (h : Held) : (t.addReleased h).shadow = t.shadow := rfl
@[simp] theorem Tile.addReleased_wb0 (t : Tile) (h : Held) : (t.addReleased h).wb0 = t.wb0 := rfl
@[simp] theorem Tile.addReleased_wb1 (t : Tile) (h : Held) : (t.addReleased h).wb1 = t.wb1 := rfl
@[simp] theorem Tile.addReleased_ckWb0 (t : Tile) (h : Held) : (t.addReleased h).ckWb0 = t.ckWb0 := rfl
@[simp] theorem Tile.addReleased_ckWb1 (t : Tile) (h : Held) : (t.addReleased h).ckWb1 = t.ckWb1 := rfl
@[simp] theorem Tile.addReleased_latBad (t : Tile) (h : Held) : (t.addReleased h).latBad = t.latBad := rfl
@[simp] theorem Tile.addReleased_pend (t : Tile) (h : Held) : (t.addReleased h).pend = t.pend := rfl
@[simp] theorem Tile.addReleased_loads (t : Tile) (h : Held) : (t.addReleased h).loads = t.loads := rfl
@[simp] theorem Tile.addReleased_jobs (t : Tile) (h : Held) : (t.addReleased h).jobs = t.jobs := rfl
@[simp] theorem Tile.addReleased_jobSq (t : Tile) (h : Held) : (t.addReleased h).jobSq = t.jobSq := rfl
@[simp] theorem Tile.addReleased_jobFails (t : Tile) (h : Held) : (t.addReleased h).jobFails = t.jobFails := rfl
@[simp] theorem Tile.addReleased_cq (t : Tile) (h : Held) : (t.addReleased h).cq = t.cq := rfl
@[simp] theorem Tile.addReleased_released (t : Tile) (h : Held) : (t.addReleased h).released = t.released ++ [h] := rfl
@[simp] theorem Tile.addReleased_rb (t : Tile) (h : Held) : (t.addReleased h).rb = t.rb := rfl
@[simp] theorem Tile.addReleased_loadBuf (t : Tile) (h : Held) : (t.addReleased h).loadBuf = t.loadBuf := rfl
@[simp] theorem Tile.addReleased_mq (t : Tile) (h : Held) : (t.addReleased h).mq = t.mq := rfl
@[simp] theorem Tile.addReleased_tstId (t : Tile) (h : Held) : (t.addReleased h).tstId = t.tstId := rfl
@[simp] theorem Tile.addReleased_poison (t : Tile) (h : Held) : (t.addReleased h).poison = t.poison := rfl
@[simp] theorem Tile.addReleased_ckPoison (t : Tile) (h : Held) : (t.addReleased h).ckPoison = t.ckPoison := rfl
@[simp] theorem Tile.addReleased_unpins (t : Tile) (h : Held) : (t.addReleased h).unpins = t.unpins := rfl
@[simp] theorem Tile.addReleased_notes (t : Tile) (h : Held) : (t.addReleased h).notes = t.notes := rfl
@[simp] theorem Tile.addReleased_recov (t : Tile) (h : Held) : (t.addReleased h).recov = t.recov := rfl
@[simp] theorem Tile.addReleased_ckFresh (t : Tile) (h : Held) : (t.addReleased h).ckFresh = t.ckFresh := rfl
@[simp] theorem Tile.addReleased_ckDue (t : Tile) (h : Held) : (t.addReleased h).ckDue = t.ckDue := rfl
@[simp] theorem Tile.addReleased_haltDue (t : Tile) (h : Held) : (t.addReleased h).haltDue = t.haltDue := rfl
@[simp] theorem Tile.addReleased_lwCount (t : Tile) (h : Held) : (t.addReleased h).lwCount = t.lwCount := rfl
@[simp] theorem Tile.addReleased_lwOn (t : Tile) (h : Held) : (t.addReleased h).lwOn = t.lwOn := rfl
@[simp] theorem Tile.addReleased_freshPins (t : Tile) (h : Held) : (t.addReleased h).freshPins = t.freshPins := rfl
@[simp] theorem Tile.addReleased_issued (t : Tile) (h : Held) : (t.addReleased h).issued = t.issued := rfl
@[simp] theorem Tile.addReleased_tlb (t : Tile) (h : Held) : (t.addReleased h).tlb = t.tlb := rfl
@[simp] theorem Tile.addReleased_doomed (t : Tile) (h : Held) : (t.addReleased h).doomed = t.doomed := rfl
@[simp] theorem Tile.addReleased_extWr (t : Tile) (h : Held) : (t.addReleased h).extWr = t.extWr := rfl
@[simp] theorem Tile.addReleased_flintBad (t : Tile) (h : Held) : (t.addReleased h).flintBad = t.flintBad := rfl
@[simp] theorem Tile.dropReleased_phys (t : Tile) (i : Nat) : (t.dropReleased i).phys = t.phys := rfl
@[simp] theorem Tile.dropReleased_stat (t : Tile) (i : Nat) : (t.dropReleased i).stat = t.stat := rfl
@[simp] theorem Tile.dropReleased_ctx (t : Tile) (i : Nat) : (t.dropReleased i).ctx = t.ctx := rfl
@[simp] theorem Tile.dropReleased_ltile (t : Tile) (i : Nat) : (t.dropReleased i).ltile = t.ltile := rfl
@[simp] theorem Tile.dropReleased_ntile (t : Tile) (i : Nat) : (t.dropReleased i).ntile = t.ntile := rfl
@[simp] theorem Tile.dropReleased_ctxn (t : Tile) (i : Nat) : (t.dropReleased i).ctxn = t.ctxn := rfl
@[simp] theorem Tile.dropReleased_pasid (t : Tile) (i : Nat) : (t.dropReleased i).pasid = t.pasid := rfl
@[simp] theorem Tile.dropReleased_tvec (t : Tile) (i : Nat) : (t.dropReleased i).tvec = t.tvec := rfl
@[simp] theorem Tile.dropReleased_task (t : Tile) (i : Nat) : (t.dropReleased i).task = t.task := rfl
@[simp] theorem Tile.dropReleased_core (t : Tile) (i : Nat) : (t.dropReleased i).core = t.core := rfl
@[simp] theorem Tile.dropReleased_ck (t : Tile) (i : Nat) : (t.dropReleased i).ck = t.ck := rfl
@[simp] theorem Tile.dropReleased_cyc (t : Tile) (i : Nat) : (t.dropReleased i).cyc = t.cyc := rfl
@[simp] theorem Tile.dropReleased_cych (t : Tile) (i : Nat) : (t.dropReleased i).cych = t.cych := rfl
@[simp] theorem Tile.dropReleased_win (t : Tile) (i : Nat) : (t.dropReleased i).win = t.win := rfl
@[simp] theorem Tile.dropReleased_shadow (t : Tile) (i : Nat) : (t.dropReleased i).shadow = t.shadow := rfl
@[simp] theorem Tile.dropReleased_wb0 (t : Tile) (i : Nat) : (t.dropReleased i).wb0 = t.wb0 := rfl
@[simp] theorem Tile.dropReleased_wb1 (t : Tile) (i : Nat) : (t.dropReleased i).wb1 = t.wb1 := rfl
@[simp] theorem Tile.dropReleased_ckWb0 (t : Tile) (i : Nat) : (t.dropReleased i).ckWb0 = t.ckWb0 := rfl
@[simp] theorem Tile.dropReleased_ckWb1 (t : Tile) (i : Nat) : (t.dropReleased i).ckWb1 = t.ckWb1 := rfl
@[simp] theorem Tile.dropReleased_latBad (t : Tile) (i : Nat) : (t.dropReleased i).latBad = t.latBad := rfl
@[simp] theorem Tile.dropReleased_pend (t : Tile) (i : Nat) : (t.dropReleased i).pend = t.pend := rfl
@[simp] theorem Tile.dropReleased_loads (t : Tile) (i : Nat) : (t.dropReleased i).loads = t.loads := rfl
@[simp] theorem Tile.dropReleased_jobs (t : Tile) (i : Nat) : (t.dropReleased i).jobs = t.jobs := rfl
@[simp] theorem Tile.dropReleased_jobSq (t : Tile) (i : Nat) : (t.dropReleased i).jobSq = t.jobSq := rfl
@[simp] theorem Tile.dropReleased_jobFails (t : Tile) (i : Nat) : (t.dropReleased i).jobFails = t.jobFails := rfl
@[simp] theorem Tile.dropReleased_cq (t : Tile) (i : Nat) : (t.dropReleased i).cq = t.cq := rfl
@[simp] theorem Tile.dropReleased_released (t : Tile) (i : Nat) : (t.dropReleased i).released = t.released.eraseIdx i := rfl
@[simp] theorem Tile.dropReleased_rb (t : Tile) (i : Nat) : (t.dropReleased i).rb = t.rb := rfl
@[simp] theorem Tile.dropReleased_loadBuf (t : Tile) (i : Nat) : (t.dropReleased i).loadBuf = t.loadBuf := rfl
@[simp] theorem Tile.dropReleased_mq (t : Tile) (i : Nat) : (t.dropReleased i).mq = t.mq := rfl
@[simp] theorem Tile.dropReleased_tstId (t : Tile) (i : Nat) : (t.dropReleased i).tstId = t.tstId := rfl
@[simp] theorem Tile.dropReleased_poison (t : Tile) (i : Nat) : (t.dropReleased i).poison = t.poison := rfl
@[simp] theorem Tile.dropReleased_ckPoison (t : Tile) (i : Nat) : (t.dropReleased i).ckPoison = t.ckPoison := rfl
@[simp] theorem Tile.dropReleased_unpins (t : Tile) (i : Nat) : (t.dropReleased i).unpins = t.unpins := rfl
@[simp] theorem Tile.dropReleased_notes (t : Tile) (i : Nat) : (t.dropReleased i).notes = t.notes := rfl
@[simp] theorem Tile.dropReleased_recov (t : Tile) (i : Nat) : (t.dropReleased i).recov = t.recov := rfl
@[simp] theorem Tile.dropReleased_ckFresh (t : Tile) (i : Nat) : (t.dropReleased i).ckFresh = t.ckFresh := rfl
@[simp] theorem Tile.dropReleased_ckDue (t : Tile) (i : Nat) : (t.dropReleased i).ckDue = t.ckDue := rfl
@[simp] theorem Tile.dropReleased_haltDue (t : Tile) (i : Nat) : (t.dropReleased i).haltDue = t.haltDue := rfl
@[simp] theorem Tile.dropReleased_lwCount (t : Tile) (i : Nat) : (t.dropReleased i).lwCount = t.lwCount := rfl
@[simp] theorem Tile.dropReleased_lwOn (t : Tile) (i : Nat) : (t.dropReleased i).lwOn = t.lwOn := rfl
@[simp] theorem Tile.dropReleased_freshPins (t : Tile) (i : Nat) : (t.dropReleased i).freshPins = t.freshPins := rfl
@[simp] theorem Tile.dropReleased_issued (t : Tile) (i : Nat) : (t.dropReleased i).issued = t.issued := rfl
@[simp] theorem Tile.dropReleased_tlb (t : Tile) (i : Nat) : (t.dropReleased i).tlb = t.tlb := rfl
@[simp] theorem Tile.dropReleased_doomed (t : Tile) (i : Nat) : (t.dropReleased i).doomed = t.doomed := rfl
@[simp] theorem Tile.dropReleased_extWr (t : Tile) (i : Nat) : (t.dropReleased i).extWr = t.extWr := rfl
@[simp] theorem Tile.dropReleased_flintBad (t : Tile) (i : Nat) : (t.dropReleased i).flintBad = t.flintBad := rfl
@[simp] theorem Tile.clearBad_phys (t : Tile) (o n : Nat) : (t.clearBad o n).phys = t.phys := rfl
@[simp] theorem Tile.clearBad_stat (t : Tile) (o n : Nat) : (t.clearBad o n).stat = t.stat := rfl
@[simp] theorem Tile.clearBad_ctx (t : Tile) (o n : Nat) : (t.clearBad o n).ctx = t.ctx := rfl
@[simp] theorem Tile.clearBad_ltile (t : Tile) (o n : Nat) : (t.clearBad o n).ltile = t.ltile := rfl
@[simp] theorem Tile.clearBad_ntile (t : Tile) (o n : Nat) : (t.clearBad o n).ntile = t.ntile := rfl
@[simp] theorem Tile.clearBad_ctxn (t : Tile) (o n : Nat) : (t.clearBad o n).ctxn = t.ctxn := rfl
@[simp] theorem Tile.clearBad_pasid (t : Tile) (o n : Nat) : (t.clearBad o n).pasid = t.pasid := rfl
@[simp] theorem Tile.clearBad_tvec (t : Tile) (o n : Nat) : (t.clearBad o n).tvec = t.tvec := rfl
@[simp] theorem Tile.clearBad_task (t : Tile) (o n : Nat) : (t.clearBad o n).task = t.task := rfl
@[simp] theorem Tile.clearBad_core (t : Tile) (o n : Nat) : (t.clearBad o n).core = t.core := rfl
@[simp] theorem Tile.clearBad_ck (t : Tile) (o n : Nat) : (t.clearBad o n).ck = t.ck := rfl
@[simp] theorem Tile.clearBad_cyc (t : Tile) (o n : Nat) : (t.clearBad o n).cyc = t.cyc := rfl
@[simp] theorem Tile.clearBad_cych (t : Tile) (o n : Nat) : (t.clearBad o n).cych = t.cych := rfl
@[simp] theorem Tile.clearBad_shadow (t : Tile) (o n : Nat) : (t.clearBad o n).shadow = t.shadow := rfl
@[simp] theorem Tile.clearBad_wb0 (t : Tile) (o n : Nat) : (t.clearBad o n).wb0 = t.wb0 := rfl
@[simp] theorem Tile.clearBad_wb1 (t : Tile) (o n : Nat) : (t.clearBad o n).wb1 = t.wb1 := rfl
@[simp] theorem Tile.clearBad_ckWb0 (t : Tile) (o n : Nat) : (t.clearBad o n).ckWb0 = t.ckWb0 := rfl
@[simp] theorem Tile.clearBad_ckWb1 (t : Tile) (o n : Nat) : (t.clearBad o n).ckWb1 = t.ckWb1 := rfl
@[simp] theorem Tile.clearBad_pend (t : Tile) (o n : Nat) : (t.clearBad o n).pend = t.pend := rfl
@[simp] theorem Tile.clearBad_loads (t : Tile) (o n : Nat) : (t.clearBad o n).loads = t.loads := rfl
@[simp] theorem Tile.clearBad_jobs (t : Tile) (o n : Nat) : (t.clearBad o n).jobs = t.jobs := rfl
@[simp] theorem Tile.clearBad_jobSq (t : Tile) (o n : Nat) : (t.clearBad o n).jobSq = t.jobSq := rfl
@[simp] theorem Tile.clearBad_jobFails (t : Tile) (o n : Nat) : (t.clearBad o n).jobFails = t.jobFails := rfl
@[simp] theorem Tile.clearBad_cq (t : Tile) (o n : Nat) : (t.clearBad o n).cq = t.cq := rfl
@[simp] theorem Tile.clearBad_released (t : Tile) (o n : Nat) : (t.clearBad o n).released = t.released := rfl
@[simp] theorem Tile.clearBad_rb (t : Tile) (o n : Nat) : (t.clearBad o n).rb = t.rb := rfl
@[simp] theorem Tile.clearBad_loadBuf (t : Tile) (o n : Nat) : (t.clearBad o n).loadBuf = t.loadBuf := rfl
@[simp] theorem Tile.clearBad_mq (t : Tile) (o n : Nat) : (t.clearBad o n).mq = t.mq := rfl
@[simp] theorem Tile.clearBad_tstId (t : Tile) (o n : Nat) : (t.clearBad o n).tstId = t.tstId := rfl
@[simp] theorem Tile.clearBad_poison (t : Tile) (o n : Nat) : (t.clearBad o n).poison = t.poison := rfl
@[simp] theorem Tile.clearBad_ckPoison (t : Tile) (o n : Nat) : (t.clearBad o n).ckPoison = t.ckPoison := rfl
@[simp] theorem Tile.clearBad_unpins (t : Tile) (o n : Nat) : (t.clearBad o n).unpins = t.unpins := rfl
@[simp] theorem Tile.clearBad_notes (t : Tile) (o n : Nat) : (t.clearBad o n).notes = t.notes := rfl
@[simp] theorem Tile.clearBad_recov (t : Tile) (o n : Nat) : (t.clearBad o n).recov = t.recov := rfl
@[simp] theorem Tile.clearBad_ckFresh (t : Tile) (o n : Nat) : (t.clearBad o n).ckFresh = t.ckFresh := rfl
@[simp] theorem Tile.clearBad_ckDue (t : Tile) (o n : Nat) : (t.clearBad o n).ckDue = t.ckDue := rfl
@[simp] theorem Tile.clearBad_haltDue (t : Tile) (o n : Nat) : (t.clearBad o n).haltDue = t.haltDue := rfl
@[simp] theorem Tile.clearBad_lwCount (t : Tile) (o n : Nat) : (t.clearBad o n).lwCount = t.lwCount := rfl
@[simp] theorem Tile.clearBad_lwOn (t : Tile) (o n : Nat) : (t.clearBad o n).lwOn = t.lwOn := rfl
@[simp] theorem Tile.clearBad_freshPins (t : Tile) (o n : Nat) : (t.clearBad o n).freshPins = t.freshPins := rfl
@[simp] theorem Tile.clearBad_issued (t : Tile) (o n : Nat) : (t.clearBad o n).issued = t.issued := rfl
@[simp] theorem Tile.clearBad_tlb (t : Tile) (o n : Nat) : (t.clearBad o n).tlb = t.tlb := rfl
@[simp] theorem Tile.clearBad_doomed (t : Tile) (o n : Nat) : (t.clearBad o n).doomed = t.doomed := rfl
@[simp] theorem Tile.clearBad_extWr (t : Tile) (o n : Nat) : (t.clearBad o n).extWr = t.extWr := rfl
@[simp] theorem Tile.clearBad_flintBad (t : Tile) (o n : Nat) : (t.clearBad o n).flintBad = t.flintBad := rfl
@[simp] theorem Tile.issueDone_phys (t : Tile) : (t.issueDone).phys = t.phys := rfl
@[simp] theorem Tile.issueDone_stat (t : Tile) : (t.issueDone).stat = t.stat := rfl
@[simp] theorem Tile.issueDone_ctx (t : Tile) : (t.issueDone).ctx = t.ctx := rfl
@[simp] theorem Tile.issueDone_ltile (t : Tile) : (t.issueDone).ltile = t.ltile := rfl
@[simp] theorem Tile.issueDone_ntile (t : Tile) : (t.issueDone).ntile = t.ntile := rfl
@[simp] theorem Tile.issueDone_ctxn (t : Tile) : (t.issueDone).ctxn = t.ctxn := rfl
@[simp] theorem Tile.issueDone_pasid (t : Tile) : (t.issueDone).pasid = t.pasid := rfl
@[simp] theorem Tile.issueDone_tvec (t : Tile) : (t.issueDone).tvec = t.tvec := rfl
@[simp] theorem Tile.issueDone_task (t : Tile) : (t.issueDone).task = t.task := rfl
@[simp] theorem Tile.issueDone_core (t : Tile) : (t.issueDone).core = t.core := rfl
@[simp] theorem Tile.issueDone_ck (t : Tile) : (t.issueDone).ck = t.ck := rfl
@[simp] theorem Tile.issueDone_cyc (t : Tile) : (t.issueDone).cyc = t.cyc + 1 := rfl
@[simp] theorem Tile.issueDone_cych (t : Tile) : (t.issueDone).cych = t.cych := rfl
@[simp] theorem Tile.issueDone_win (t : Tile) : (t.issueDone).win = t.win := rfl
@[simp] theorem Tile.issueDone_shadow (t : Tile) : (t.issueDone).shadow = t.shadow := rfl
@[simp] theorem Tile.issueDone_wb0 (t : Tile) : (t.issueDone).wb0 = t.wb0 := rfl
@[simp] theorem Tile.issueDone_wb1 (t : Tile) : (t.issueDone).wb1 = t.wb1 := rfl
@[simp] theorem Tile.issueDone_ckWb0 (t : Tile) : (t.issueDone).ckWb0 = t.ckWb0 := rfl
@[simp] theorem Tile.issueDone_ckWb1 (t : Tile) : (t.issueDone).ckWb1 = t.ckWb1 := rfl
@[simp] theorem Tile.issueDone_latBad (t : Tile) : (t.issueDone).latBad = t.latBad := rfl
@[simp] theorem Tile.issueDone_pend (t : Tile) : (t.issueDone).pend = t.pend := rfl
@[simp] theorem Tile.issueDone_loads (t : Tile) : (t.issueDone).loads = t.loads := rfl
@[simp] theorem Tile.issueDone_jobs (t : Tile) : (t.issueDone).jobs = t.jobs := rfl
@[simp] theorem Tile.issueDone_jobSq (t : Tile) : (t.issueDone).jobSq = t.jobSq := rfl
@[simp] theorem Tile.issueDone_jobFails (t : Tile) : (t.issueDone).jobFails = t.jobFails := rfl
@[simp] theorem Tile.issueDone_cq (t : Tile) : (t.issueDone).cq = t.cq := rfl
@[simp] theorem Tile.issueDone_released (t : Tile) : (t.issueDone).released = t.released := rfl
@[simp] theorem Tile.issueDone_rb (t : Tile) : (t.issueDone).rb = t.rb := rfl
@[simp] theorem Tile.issueDone_loadBuf (t : Tile) : (t.issueDone).loadBuf = t.loadBuf := rfl
@[simp] theorem Tile.issueDone_mq (t : Tile) : (t.issueDone).mq = t.mq := rfl
@[simp] theorem Tile.issueDone_tstId (t : Tile) : (t.issueDone).tstId = t.tstId := rfl
@[simp] theorem Tile.issueDone_poison (t : Tile) : (t.issueDone).poison = t.poison := rfl
@[simp] theorem Tile.issueDone_ckPoison (t : Tile) : (t.issueDone).ckPoison = t.ckPoison := rfl
@[simp] theorem Tile.issueDone_unpins (t : Tile) : (t.issueDone).unpins = t.unpins := rfl
@[simp] theorem Tile.issueDone_notes (t : Tile) : (t.issueDone).notes = t.notes := rfl
@[simp] theorem Tile.issueDone_ckFresh (t : Tile) : (t.issueDone).ckFresh = t.ckFresh := rfl
@[simp] theorem Tile.issueDone_ckDue (t : Tile) : (t.issueDone).ckDue = t.ckDue := rfl
@[simp] theorem Tile.issueDone_haltDue (t : Tile) : (t.issueDone).haltDue = t.haltDue := rfl
@[simp] theorem Tile.issueDone_lwCount (t : Tile) : (t.issueDone).lwCount = 0 := rfl
@[simp] theorem Tile.issueDone_lwOn (t : Tile) : (t.issueDone).lwOn = none := rfl
@[simp] theorem Tile.issueDone_freshPins (t : Tile) : (t.issueDone).freshPins = t.freshPins := rfl
@[simp] theorem Tile.issueDone_issued (t : Tile) : (t.issueDone).issued = t.issued + 1 := rfl
@[simp] theorem Tile.issueDone_tlb (t : Tile) : (t.issueDone).tlb = t.tlb := rfl
@[simp] theorem Tile.issueDone_doomed (t : Tile) : (t.issueDone).doomed = t.doomed := rfl
@[simp] theorem Tile.issueDone_extWr (t : Tile) : (t.issueDone).extWr = t.extWr := rfl
@[simp] theorem Tile.issueDone_flintBad (t : Tile) : (t.issueDone).flintBad = t.flintBad := rfl
@[simp] theorem Tile.prefetch_phys (t : Tile) (u w : Nat) (bs : List (Nat × Option Byte)) : (t.prefetch u w bs).phys = t.phys := rfl
@[simp] theorem Tile.prefetch_stat (t : Tile) (u w : Nat) (bs : List (Nat × Option Byte)) : (t.prefetch u w bs).stat = t.stat := rfl
@[simp] theorem Tile.prefetch_ctx (t : Tile) (u w : Nat) (bs : List (Nat × Option Byte)) : (t.prefetch u w bs).ctx = t.ctx := rfl
@[simp] theorem Tile.prefetch_ltile (t : Tile) (u w : Nat) (bs : List (Nat × Option Byte)) : (t.prefetch u w bs).ltile = t.ltile := rfl
@[simp] theorem Tile.prefetch_ntile (t : Tile) (u w : Nat) (bs : List (Nat × Option Byte)) : (t.prefetch u w bs).ntile = t.ntile := rfl
@[simp] theorem Tile.prefetch_ctxn (t : Tile) (u w : Nat) (bs : List (Nat × Option Byte)) : (t.prefetch u w bs).ctxn = t.ctxn := rfl
@[simp] theorem Tile.prefetch_pasid (t : Tile) (u w : Nat) (bs : List (Nat × Option Byte)) : (t.prefetch u w bs).pasid = t.pasid := rfl
@[simp] theorem Tile.prefetch_tvec (t : Tile) (u w : Nat) (bs : List (Nat × Option Byte)) : (t.prefetch u w bs).tvec = t.tvec := rfl
@[simp] theorem Tile.prefetch_task (t : Tile) (u w : Nat) (bs : List (Nat × Option Byte)) : (t.prefetch u w bs).task = t.task := rfl
@[simp] theorem Tile.prefetch_core (t : Tile) (u w : Nat) (bs : List (Nat × Option Byte)) : (t.prefetch u w bs).core = t.core := rfl
@[simp] theorem Tile.prefetch_ck (t : Tile) (u w : Nat) (bs : List (Nat × Option Byte)) : (t.prefetch u w bs).ck = t.ck := rfl
@[simp] theorem Tile.prefetch_cyc (t : Tile) (u w : Nat) (bs : List (Nat × Option Byte)) : (t.prefetch u w bs).cyc = t.cyc := rfl
@[simp] theorem Tile.prefetch_cych (t : Tile) (u w : Nat) (bs : List (Nat × Option Byte)) : (t.prefetch u w bs).cych = t.cych := rfl
@[simp] theorem Tile.prefetch_win (t : Tile) (u w : Nat) (bs : List (Nat × Option Byte)) : (t.prefetch u w bs).win = t.win := rfl
@[simp] theorem Tile.prefetch_shadow (t : Tile) (u w : Nat) (bs : List (Nat × Option Byte)) : (t.prefetch u w bs).shadow = t.shadow := rfl
@[simp] theorem Tile.prefetch_wb0 (t : Tile) (u w : Nat) (bs : List (Nat × Option Byte)) : (t.prefetch u w bs).wb0 = t.wb0 := rfl
@[simp] theorem Tile.prefetch_wb1 (t : Tile) (u w : Nat) (bs : List (Nat × Option Byte)) : (t.prefetch u w bs).wb1 = t.wb1 := rfl
@[simp] theorem Tile.prefetch_ckWb0 (t : Tile) (u w : Nat) (bs : List (Nat × Option Byte)) : (t.prefetch u w bs).ckWb0 = t.ckWb0 := rfl
@[simp] theorem Tile.prefetch_ckWb1 (t : Tile) (u w : Nat) (bs : List (Nat × Option Byte)) : (t.prefetch u w bs).ckWb1 = t.ckWb1 := rfl
@[simp] theorem Tile.prefetch_latBad (t : Tile) (u w : Nat) (bs : List (Nat × Option Byte)) : (t.prefetch u w bs).latBad = t.latBad := rfl
@[simp] theorem Tile.prefetch_pend (t : Tile) (u w : Nat) (bs : List (Nat × Option Byte)) : (t.prefetch u w bs).pend = t.pend := rfl
@[simp] theorem Tile.prefetch_jobs (t : Tile) (u w : Nat) (bs : List (Nat × Option Byte)) : (t.prefetch u w bs).jobs = t.jobs := rfl
@[simp] theorem Tile.prefetch_jobSq (t : Tile) (u w : Nat) (bs : List (Nat × Option Byte)) : (t.prefetch u w bs).jobSq = t.jobSq := rfl
@[simp] theorem Tile.prefetch_jobFails (t : Tile) (u w : Nat) (bs : List (Nat × Option Byte)) : (t.prefetch u w bs).jobFails = t.jobFails := rfl
@[simp] theorem Tile.prefetch_cq (t : Tile) (u w : Nat) (bs : List (Nat × Option Byte)) : (t.prefetch u w bs).cq = t.cq := rfl
@[simp] theorem Tile.prefetch_released (t : Tile) (u w : Nat) (bs : List (Nat × Option Byte)) : (t.prefetch u w bs).released = t.released := rfl
@[simp] theorem Tile.prefetch_rb (t : Tile) (u w : Nat) (bs : List (Nat × Option Byte)) : (t.prefetch u w bs).rb = t.rb := rfl
@[simp] theorem Tile.prefetch_mq (t : Tile) (u w : Nat) (bs : List (Nat × Option Byte)) : (t.prefetch u w bs).mq = t.mq := rfl
@[simp] theorem Tile.prefetch_tstId (t : Tile) (u w : Nat) (bs : List (Nat × Option Byte)) : (t.prefetch u w bs).tstId = t.tstId := rfl
@[simp] theorem Tile.prefetch_poison (t : Tile) (u w : Nat) (bs : List (Nat × Option Byte)) : (t.prefetch u w bs).poison = t.poison := rfl
@[simp] theorem Tile.prefetch_ckPoison (t : Tile) (u w : Nat) (bs : List (Nat × Option Byte)) : (t.prefetch u w bs).ckPoison = t.ckPoison := rfl
@[simp] theorem Tile.prefetch_unpins (t : Tile) (u w : Nat) (bs : List (Nat × Option Byte)) : (t.prefetch u w bs).unpins = t.unpins := rfl
@[simp] theorem Tile.prefetch_notes (t : Tile) (u w : Nat) (bs : List (Nat × Option Byte)) : (t.prefetch u w bs).notes = t.notes := rfl
@[simp] theorem Tile.prefetch_recov (t : Tile) (u w : Nat) (bs : List (Nat × Option Byte)) : (t.prefetch u w bs).recov = t.recov := rfl
@[simp] theorem Tile.prefetch_ckFresh (t : Tile) (u w : Nat) (bs : List (Nat × Option Byte)) : (t.prefetch u w bs).ckFresh = t.ckFresh := rfl
@[simp] theorem Tile.prefetch_ckDue (t : Tile) (u w : Nat) (bs : List (Nat × Option Byte)) : (t.prefetch u w bs).ckDue = t.ckDue := rfl
@[simp] theorem Tile.prefetch_haltDue (t : Tile) (u w : Nat) (bs : List (Nat × Option Byte)) : (t.prefetch u w bs).haltDue = t.haltDue := rfl
@[simp] theorem Tile.prefetch_lwCount (t : Tile) (u w : Nat) (bs : List (Nat × Option Byte)) : (t.prefetch u w bs).lwCount = t.lwCount := rfl
@[simp] theorem Tile.prefetch_lwOn (t : Tile) (u w : Nat) (bs : List (Nat × Option Byte)) : (t.prefetch u w bs).lwOn = t.lwOn := rfl
@[simp] theorem Tile.prefetch_freshPins (t : Tile) (u w : Nat) (bs : List (Nat × Option Byte)) : (t.prefetch u w bs).freshPins = t.freshPins := rfl
@[simp] theorem Tile.prefetch_issued (t : Tile) (u w : Nat) (bs : List (Nat × Option Byte)) : (t.prefetch u w bs).issued = t.issued := rfl
@[simp] theorem Tile.prefetch_tlb (t : Tile) (u w : Nat) (bs : List (Nat × Option Byte)) : (t.prefetch u w bs).tlb = t.tlb := rfl
@[simp] theorem Tile.prefetch_doomed (t : Tile) (u w : Nat) (bs : List (Nat × Option Byte)) : (t.prefetch u w bs).doomed = t.doomed := rfl
@[simp] theorem Tile.prefetch_extWr (t : Tile) (u w : Nat) (bs : List (Nat × Option Byte)) : (t.prefetch u w bs).extWr = t.extWr := rfl
@[simp] theorem Tile.prefetch_flintBad (t : Tile) (u w : Nat) (bs : List (Nat × Option Byte)) : (t.prefetch u w bs).flintBad = t.flintBad := rfl
@[simp] theorem Core.orFlags_pc (c : Core) (f : Word) : (c.orFlags f).pc = c.pc := rfl
@[simp] theorem Core.orFlags_s (c : Core) (f : Word) : (c.orFlags f).s = c.s := rfl
@[simp] theorem Core.orFlags_p (c : Core) (f : Word) : (c.orFlags f).p = c.p := rfl
@[simp] theorem Core.orFlags_lat (c : Core) (f : Word) : (c.orFlags f).lat = c.lat := rfl
@[simp] theorem Core.orFlags_flags (c : Core) (f : Word) : (c.orFlags f).flags = c.flags ||| f := rfl
@[simp] theorem Core.orFlags_fpctl (c : Core) (f : Word) : (c.orFlags f).fpctl = c.fpctl := rfl
@[simp] theorem Core.orFlags_lwlim (c : Core) (f : Word) : (c.orFlags f).lwlim = c.lwlim := rfl
@[simp] theorem Core.orFlags_epc (c : Core) (f : Word) : (c.orFlags f).epc = c.epc := rfl
@[simp] theorem Core.orFlags_ecause (c : Core) (f : Word) : (c.orFlags f).ecause = c.ecause := rfl
@[simp] theorem Core.orFlags_einfo (c : Core) (f : Word) : (c.orFlags f).einfo = c.einfo := rfl
@[simp] theorem Core.orFlags_ss (c : Core) (f : Word) : (c.orFlags f).ss = c.ss := rfl
@[simp] theorem Core.orFlags_ntmask (c : Core) (f : Word) : (c.orFlags f).ntmask = c.ntmask := rfl
@[simp] theorem Core.orFlags_sup (c : Core) (f : Word) : (c.orFlags f).sup = c.sup := rfl
@[simp] theorem Core.orFlags_inHandler (c : Core) (f : Word) : (c.orFlags f).inHandler = c.inHandler := rfl
@[simp] theorem Core.orFlags_noteDue (c : Core) (f : Word) : (c.orFlags f).noteDue = c.noteDue := rfl
@[simp] theorem Core.orFlags_ports (c : Core) (f : Word) : (c.orFlags f).ports = c.ports := rfl
@[simp] theorem Core.orFlags_tokPend (c : Core) (f : Word) : (c.orFlags f).tokPend = c.tokPend := rfl
@[simp] theorem Core.orFlags_tokDone (c : Core) (f : Word) : (c.orFlags f).tokDone = c.tokDone := rfl
@[simp] theorem Core.orFlags_tcfg (c : Core) (f : Word) : (c.orFlags f).tcfg = c.tcfg := rfl
@[simp] theorem Core.orFlags_wbCfg0 (c : Core) (f : Word) : (c.orFlags f).wbCfg0 = c.wbCfg0 := rfl
@[simp] theorem Core.orFlags_wbCfg1 (c : Core) (f : Word) : (c.orFlags f).wbCfg1 = c.wbCfg1 := rfl
@[simp] theorem Core.orFlags_latBuf (c : Core) (f : Word) : (c.orFlags f).latBuf = c.latBuf := rfl
@[simp] theorem Core.orFlags_latValid (c : Core) (f : Word) : (c.orFlags f).latValid = c.latValid := rfl
@[simp] theorem Core.orFlags_flint (c : Core) (f : Word) : (c.orFlags f).flint = c.flint := rfl
@[simp] theorem Core.orFlags_pins (c : Core) (f : Word) : (c.orFlags f).pins = c.pins := rfl
@[simp] theorem Core.orFlags_bindings (c : Core) (f : Word) : (c.orFlags f).bindings = c.bindings := rfl
@[simp] theorem Core.setPort_pc (c : Core) (q : Nat) (p : Port) : (c.setPort q p).pc = c.pc := rfl
@[simp] theorem Core.setPort_s (c : Core) (q : Nat) (p : Port) : (c.setPort q p).s = c.s := rfl
@[simp] theorem Core.setPort_p (c : Core) (q : Nat) (p : Port) : (c.setPort q p).p = c.p := rfl
@[simp] theorem Core.setPort_lat (c : Core) (q : Nat) (p : Port) : (c.setPort q p).lat = c.lat := rfl
@[simp] theorem Core.setPort_flags (c : Core) (q : Nat) (p : Port) : (c.setPort q p).flags = c.flags := rfl
@[simp] theorem Core.setPort_fpctl (c : Core) (q : Nat) (p : Port) : (c.setPort q p).fpctl = c.fpctl := rfl
@[simp] theorem Core.setPort_lwlim (c : Core) (q : Nat) (p : Port) : (c.setPort q p).lwlim = c.lwlim := rfl
@[simp] theorem Core.setPort_epc (c : Core) (q : Nat) (p : Port) : (c.setPort q p).epc = c.epc := rfl
@[simp] theorem Core.setPort_ecause (c : Core) (q : Nat) (p : Port) : (c.setPort q p).ecause = c.ecause := rfl
@[simp] theorem Core.setPort_einfo (c : Core) (q : Nat) (p : Port) : (c.setPort q p).einfo = c.einfo := rfl
@[simp] theorem Core.setPort_ss (c : Core) (q : Nat) (p : Port) : (c.setPort q p).ss = c.ss := rfl
@[simp] theorem Core.setPort_ntmask (c : Core) (q : Nat) (p : Port) : (c.setPort q p).ntmask = c.ntmask := rfl
@[simp] theorem Core.setPort_sup (c : Core) (q : Nat) (p : Port) : (c.setPort q p).sup = c.sup := rfl
@[simp] theorem Core.setPort_inHandler (c : Core) (q : Nat) (p : Port) : (c.setPort q p).inHandler = c.inHandler := rfl
@[simp] theorem Core.setPort_noteDue (c : Core) (q : Nat) (p : Port) : (c.setPort q p).noteDue = c.noteDue := rfl
@[simp] theorem Core.setPort_ports (c : Core) (q : Nat) (p : Port) : (c.setPort q p).ports = c.ports.setIfInBounds q p := rfl
@[simp] theorem Core.setPort_tokPend (c : Core) (q : Nat) (p : Port) : (c.setPort q p).tokPend = c.tokPend := rfl
@[simp] theorem Core.setPort_tokDone (c : Core) (q : Nat) (p : Port) : (c.setPort q p).tokDone = c.tokDone := rfl
@[simp] theorem Core.setPort_tcfg (c : Core) (q : Nat) (p : Port) : (c.setPort q p).tcfg = c.tcfg := rfl
@[simp] theorem Core.setPort_wbCfg0 (c : Core) (q : Nat) (p : Port) : (c.setPort q p).wbCfg0 = c.wbCfg0 := rfl
@[simp] theorem Core.setPort_wbCfg1 (c : Core) (q : Nat) (p : Port) : (c.setPort q p).wbCfg1 = c.wbCfg1 := rfl
@[simp] theorem Core.setPort_latBuf (c : Core) (q : Nat) (p : Port) : (c.setPort q p).latBuf = c.latBuf := rfl
@[simp] theorem Core.setPort_latValid (c : Core) (q : Nat) (p : Port) : (c.setPort q p).latValid = c.latValid := rfl
@[simp] theorem Core.setPort_flint (c : Core) (q : Nat) (p : Port) : (c.setPort q p).flint = c.flint := rfl
@[simp] theorem Core.setPort_pins (c : Core) (q : Nat) (p : Port) : (c.setPort q p).pins = c.pins := rfl
@[simp] theorem Core.setPort_bindings (c : Core) (q : Nat) (p : Port) : (c.setPort q p).bindings = c.bindings := rfl
@[simp] theorem Tile.kill_core_pc (t : Tile) (l : List Dst) : (t.kill l).core.pc = t.core.pc := rfl
@[simp] theorem Tile.kill_core_s (t : Tile) (l : List Dst) : (t.kill l).core.s = t.core.s := rfl
@[simp] theorem Tile.kill_core_p (t : Tile) (l : List Dst) : (t.kill l).core.p = t.core.p := rfl
@[simp] theorem Tile.kill_core_lat (t : Tile) (l : List Dst) : (t.kill l).core.lat = t.core.lat := rfl
@[simp] theorem Tile.kill_core_flags (t : Tile) (l : List Dst) : (t.kill l).core.flags = t.core.flags := rfl
@[simp] theorem Tile.kill_core_fpctl (t : Tile) (l : List Dst) : (t.kill l).core.fpctl = t.core.fpctl := rfl
@[simp] theorem Tile.kill_core_lwlim (t : Tile) (l : List Dst) : (t.kill l).core.lwlim = t.core.lwlim := rfl
@[simp] theorem Tile.kill_core_epc (t : Tile) (l : List Dst) : (t.kill l).core.epc = t.core.epc := rfl
@[simp] theorem Tile.kill_core_ecause (t : Tile) (l : List Dst) : (t.kill l).core.ecause = t.core.ecause := rfl
@[simp] theorem Tile.kill_core_einfo (t : Tile) (l : List Dst) : (t.kill l).core.einfo = t.core.einfo := rfl
@[simp] theorem Tile.kill_core_ss (t : Tile) (l : List Dst) : (t.kill l).core.ss = t.core.ss := rfl
@[simp] theorem Tile.kill_core_ntmask (t : Tile) (l : List Dst) : (t.kill l).core.ntmask = t.core.ntmask := rfl
@[simp] theorem Tile.kill_core_sup (t : Tile) (l : List Dst) : (t.kill l).core.sup = t.core.sup := rfl
@[simp] theorem Tile.kill_core_inHandler (t : Tile) (l : List Dst) : (t.kill l).core.inHandler = t.core.inHandler := rfl
@[simp] theorem Tile.kill_core_noteDue (t : Tile) (l : List Dst) : (t.kill l).core.noteDue = t.core.noteDue := rfl
@[simp] theorem Tile.kill_core_ports (t : Tile) (l : List Dst) : (t.kill l).core.ports = t.core.ports := rfl
@[simp] theorem Tile.kill_core_tokPend (t : Tile) (l : List Dst) : (t.kill l).core.tokPend = t.core.tokPend.filter fun k => !l.contains (.sreg k.reg) := rfl
@[simp] theorem Tile.kill_core_tokDone (t : Tile) (l : List Dst) : (t.kill l).core.tokDone = t.core.tokDone.filter fun r => !l.contains (.sreg r) := rfl
@[simp] theorem Tile.kill_core_tcfg (t : Tile) (l : List Dst) : (t.kill l).core.tcfg = t.core.tcfg := rfl
@[simp] theorem Tile.kill_core_wbCfg0 (t : Tile) (l : List Dst) : (t.kill l).core.wbCfg0 = t.core.wbCfg0 := rfl
@[simp] theorem Tile.kill_core_wbCfg1 (t : Tile) (l : List Dst) : (t.kill l).core.wbCfg1 = t.core.wbCfg1 := rfl
@[simp] theorem Tile.kill_core_latBuf (t : Tile) (l : List Dst) : (t.kill l).core.latBuf = t.core.latBuf := rfl
@[simp] theorem Tile.kill_core_latValid (t : Tile) (l : List Dst) : (t.kill l).core.latValid = t.core.latValid := rfl
@[simp] theorem Tile.kill_core_flint (t : Tile) (l : List Dst) : (t.kill l).core.flint = t.core.flint := rfl
@[simp] theorem Tile.kill_core_pins (t : Tile) (l : List Dst) : (t.kill l).core.pins = t.core.pins := rfl
@[simp] theorem Tile.kill_core_bindings (t : Tile) (l : List Dst) : (t.kill l).core.bindings = t.core.bindings := rfl
@[simp] theorem Tile.enter_core_pc (t : Tile) (a : BitVec 20) (x y : Word) : (t.enter a x y).core.pc = t.tvec := rfl
@[simp] theorem Tile.enter_core_s (t : Tile) (a : BitVec 20) (x y : Word) : (t.enter a x y).core.s = t.core.s := rfl
@[simp] theorem Tile.enter_core_p (t : Tile) (a : BitVec 20) (x y : Word) : (t.enter a x y).core.p = t.core.p := rfl
@[simp] theorem Tile.enter_core_lat (t : Tile) (a : BitVec 20) (x y : Word) : (t.enter a x y).core.lat = t.core.lat := rfl
@[simp] theorem Tile.enter_core_flags (t : Tile) (a : BitVec 20) (x y : Word) : (t.enter a x y).core.flags = t.core.flags := rfl
@[simp] theorem Tile.enter_core_fpctl (t : Tile) (a : BitVec 20) (x y : Word) : (t.enter a x y).core.fpctl = t.core.fpctl := rfl
@[simp] theorem Tile.enter_core_lwlim (t : Tile) (a : BitVec 20) (x y : Word) : (t.enter a x y).core.lwlim = t.core.lwlim := rfl
@[simp] theorem Tile.enter_core_epc (t : Tile) (a : BitVec 20) (x y : Word) : (t.enter a x y).core.epc = a := rfl
@[simp] theorem Tile.enter_core_ecause (t : Tile) (a : BitVec 20) (x y : Word) : (t.enter a x y).core.ecause = x := rfl
@[simp] theorem Tile.enter_core_einfo (t : Tile) (a : BitVec 20) (x y : Word) : (t.enter a x y).core.einfo = y := rfl
@[simp] theorem Tile.enter_core_ss (t : Tile) (a : BitVec 20) (x y : Word) : (t.enter a x y).core.ss = t.core.ss := rfl
@[simp] theorem Tile.enter_core_ntmask (t : Tile) (a : BitVec 20) (x y : Word) : (t.enter a x y).core.ntmask = t.core.ntmask := rfl
@[simp] theorem Tile.enter_core_sup (t : Tile) (a : BitVec 20) (x y : Word) : (t.enter a x y).core.sup = true := rfl
@[simp] theorem Tile.enter_core_inHandler (t : Tile) (a : BitVec 20) (x y : Word) : (t.enter a x y).core.inHandler = true := rfl
@[simp] theorem Tile.enter_core_noteDue (t : Tile) (a : BitVec 20) (x y : Word) : (t.enter a x y).core.noteDue = 0 := rfl
@[simp] theorem Tile.enter_core_ports (t : Tile) (a : BitVec 20) (x y : Word) : (t.enter a x y).core.ports = t.core.ports := rfl
@[simp] theorem Tile.enter_core_tokPend (t : Tile) (a : BitVec 20) (x y : Word) : (t.enter a x y).core.tokPend = t.core.tokPend := rfl
@[simp] theorem Tile.enter_core_tokDone (t : Tile) (a : BitVec 20) (x y : Word) : (t.enter a x y).core.tokDone = t.core.tokDone := rfl
@[simp] theorem Tile.enter_core_tcfg (t : Tile) (a : BitVec 20) (x y : Word) : (t.enter a x y).core.tcfg = t.core.tcfg := rfl
@[simp] theorem Tile.enter_core_wbCfg0 (t : Tile) (a : BitVec 20) (x y : Word) : (t.enter a x y).core.wbCfg0 = t.core.wbCfg0 := rfl
@[simp] theorem Tile.enter_core_wbCfg1 (t : Tile) (a : BitVec 20) (x y : Word) : (t.enter a x y).core.wbCfg1 = t.core.wbCfg1 := rfl
@[simp] theorem Tile.enter_core_latBuf (t : Tile) (a : BitVec 20) (x y : Word) : (t.enter a x y).core.latBuf = t.core.latBuf := rfl
@[simp] theorem Tile.enter_core_latValid (t : Tile) (a : BitVec 20) (x y : Word) : (t.enter a x y).core.latValid = t.core.latValid := rfl
@[simp] theorem Tile.enter_core_flint (t : Tile) (a : BitVec 20) (x y : Word) : (t.enter a x y).core.flint = t.core.flint := rfl
@[simp] theorem Tile.enter_core_pins (t : Tile) (a : BitVec 20) (x y : Word) : (t.enter a x y).core.pins = t.core.pins := rfl
@[simp] theorem Tile.enter_core_bindings (t : Tile) (a : BitVec 20) (x y : Word) : (t.enter a x y).core.bindings = t.core.bindings := rfl
@[simp] theorem State.jump_core_pc (s : State) (a : BitVec 20) : (s.jump a).tile.core.pc = a := rfl
@[simp] theorem State.jump_core_s (s : State) (a : BitVec 20) : (s.jump a).tile.core.s = s.tile.core.s := rfl
@[simp] theorem State.jump_core_p (s : State) (a : BitVec 20) : (s.jump a).tile.core.p = s.tile.core.p := rfl
@[simp] theorem State.jump_core_lat (s : State) (a : BitVec 20) : (s.jump a).tile.core.lat = s.tile.core.lat := rfl
@[simp] theorem State.jump_core_flags (s : State) (a : BitVec 20) : (s.jump a).tile.core.flags = s.tile.core.flags := rfl
@[simp] theorem State.jump_core_fpctl (s : State) (a : BitVec 20) : (s.jump a).tile.core.fpctl = s.tile.core.fpctl := rfl
@[simp] theorem State.jump_core_lwlim (s : State) (a : BitVec 20) : (s.jump a).tile.core.lwlim = s.tile.core.lwlim := rfl
@[simp] theorem State.jump_core_epc (s : State) (a : BitVec 20) : (s.jump a).tile.core.epc = s.tile.core.epc := rfl
@[simp] theorem State.jump_core_ecause (s : State) (a : BitVec 20) : (s.jump a).tile.core.ecause = s.tile.core.ecause := rfl
@[simp] theorem State.jump_core_einfo (s : State) (a : BitVec 20) : (s.jump a).tile.core.einfo = s.tile.core.einfo := rfl
@[simp] theorem State.jump_core_ss (s : State) (a : BitVec 20) : (s.jump a).tile.core.ss = s.tile.core.ss := rfl
@[simp] theorem State.jump_core_ntmask (s : State) (a : BitVec 20) : (s.jump a).tile.core.ntmask = s.tile.core.ntmask := rfl
@[simp] theorem State.jump_core_sup (s : State) (a : BitVec 20) : (s.jump a).tile.core.sup = s.tile.core.sup := rfl
@[simp] theorem State.jump_core_inHandler (s : State) (a : BitVec 20) : (s.jump a).tile.core.inHandler = s.tile.core.inHandler := rfl
@[simp] theorem State.jump_core_noteDue (s : State) (a : BitVec 20) : (s.jump a).tile.core.noteDue = s.tile.core.noteDue := rfl
@[simp] theorem State.jump_core_ports (s : State) (a : BitVec 20) : (s.jump a).tile.core.ports = s.tile.core.ports := rfl
@[simp] theorem State.jump_core_tokPend (s : State) (a : BitVec 20) : (s.jump a).tile.core.tokPend = s.tile.core.tokPend := rfl
@[simp] theorem State.jump_core_tokDone (s : State) (a : BitVec 20) : (s.jump a).tile.core.tokDone = s.tile.core.tokDone := rfl
@[simp] theorem State.jump_core_tcfg (s : State) (a : BitVec 20) : (s.jump a).tile.core.tcfg = s.tile.core.tcfg := rfl
@[simp] theorem State.jump_core_wbCfg0 (s : State) (a : BitVec 20) : (s.jump a).tile.core.wbCfg0 = s.tile.core.wbCfg0 := rfl
@[simp] theorem State.jump_core_wbCfg1 (s : State) (a : BitVec 20) : (s.jump a).tile.core.wbCfg1 = s.tile.core.wbCfg1 := rfl
@[simp] theorem State.jump_core_latBuf (s : State) (a : BitVec 20) : (s.jump a).tile.core.latBuf = s.tile.core.latBuf := rfl
@[simp] theorem State.jump_core_latValid (s : State) (a : BitVec 20) : (s.jump a).tile.core.latValid = s.tile.core.latValid := rfl
@[simp] theorem State.jump_core_flint (s : State) (a : BitVec 20) : (s.jump a).tile.core.flint = s.tile.core.flint := rfl
@[simp] theorem State.jump_core_pins (s : State) (a : BitVec 20) : (s.jump a).tile.core.pins = s.tile.core.pins := rfl
@[simp] theorem State.jump_core_bindings (s : State) (a : BitVec 20) : (s.jump a).tile.core.bindings = s.tile.core.bindings := rfl
@[simp] theorem State.branch_core_pc (s : State) (a : BitVec 20) : (s.branch a).tile.core.pc = a := rfl
@[simp] theorem State.branch_core_s (s : State) (a : BitVec 20) : (s.branch a).tile.core.s = s.tile.core.s := rfl
@[simp] theorem State.branch_core_p (s : State) (a : BitVec 20) : (s.branch a).tile.core.p = s.tile.core.p := rfl
@[simp] theorem State.branch_core_lat (s : State) (a : BitVec 20) : (s.branch a).tile.core.lat = s.tile.core.lat := rfl
@[simp] theorem State.branch_core_flags (s : State) (a : BitVec 20) : (s.branch a).tile.core.flags = s.tile.core.flags := rfl
@[simp] theorem State.branch_core_fpctl (s : State) (a : BitVec 20) : (s.branch a).tile.core.fpctl = s.tile.core.fpctl := rfl
@[simp] theorem State.branch_core_lwlim (s : State) (a : BitVec 20) : (s.branch a).tile.core.lwlim = s.tile.core.lwlim := rfl
@[simp] theorem State.branch_core_epc (s : State) (a : BitVec 20) : (s.branch a).tile.core.epc = s.tile.core.epc := rfl
@[simp] theorem State.branch_core_ecause (s : State) (a : BitVec 20) : (s.branch a).tile.core.ecause = s.tile.core.ecause := rfl
@[simp] theorem State.branch_core_einfo (s : State) (a : BitVec 20) : (s.branch a).tile.core.einfo = s.tile.core.einfo := rfl
@[simp] theorem State.branch_core_ss (s : State) (a : BitVec 20) : (s.branch a).tile.core.ss = s.tile.core.ss := rfl
@[simp] theorem State.branch_core_ntmask (s : State) (a : BitVec 20) : (s.branch a).tile.core.ntmask = s.tile.core.ntmask := rfl
@[simp] theorem State.branch_core_sup (s : State) (a : BitVec 20) : (s.branch a).tile.core.sup = s.tile.core.sup := rfl
@[simp] theorem State.branch_core_inHandler (s : State) (a : BitVec 20) : (s.branch a).tile.core.inHandler = s.tile.core.inHandler := rfl
@[simp] theorem State.branch_core_noteDue (s : State) (a : BitVec 20) : (s.branch a).tile.core.noteDue = s.tile.core.noteDue := rfl
@[simp] theorem State.branch_core_ports (s : State) (a : BitVec 20) : (s.branch a).tile.core.ports = s.tile.core.ports := rfl
@[simp] theorem State.branch_core_tokPend (s : State) (a : BitVec 20) : (s.branch a).tile.core.tokPend = s.tile.core.tokPend := rfl
@[simp] theorem State.branch_core_tokDone (s : State) (a : BitVec 20) : (s.branch a).tile.core.tokDone = s.tile.core.tokDone := rfl
@[simp] theorem State.branch_core_tcfg (s : State) (a : BitVec 20) : (s.branch a).tile.core.tcfg = s.tile.core.tcfg := rfl
@[simp] theorem State.branch_core_wbCfg0 (s : State) (a : BitVec 20) : (s.branch a).tile.core.wbCfg0 = s.tile.core.wbCfg0 := rfl
@[simp] theorem State.branch_core_wbCfg1 (s : State) (a : BitVec 20) : (s.branch a).tile.core.wbCfg1 = s.tile.core.wbCfg1 := rfl
@[simp] theorem State.branch_core_latBuf (s : State) (a : BitVec 20) : (s.branch a).tile.core.latBuf = s.tile.core.latBuf := rfl
@[simp] theorem State.branch_core_latValid (s : State) (a : BitVec 20) : (s.branch a).tile.core.latValid = s.tile.core.latValid := rfl
@[simp] theorem State.branch_core_flint (s : State) (a : BitVec 20) : (s.branch a).tile.core.flint = s.tile.core.flint := rfl
@[simp] theorem State.branch_core_pins (s : State) (a : BitVec 20) : (s.branch a).tile.core.pins = s.tile.core.pins := rfl
@[simp] theorem State.branch_core_bindings (s : State) (a : BitVec 20) : (s.branch a).tile.core.bindings = s.tile.core.bindings := rfl
@[simp] theorem State.jump_tile_phys (s : State) (a : BitVec 20) : (s.jump a).tile.phys = s.tile.phys := rfl
@[simp] theorem State.jump_tile_stat (s : State) (a : BitVec 20) : (s.jump a).tile.stat = s.tile.stat := rfl
@[simp] theorem State.jump_tile_ctx (s : State) (a : BitVec 20) : (s.jump a).tile.ctx = s.tile.ctx := rfl
@[simp] theorem State.jump_tile_ltile (s : State) (a : BitVec 20) : (s.jump a).tile.ltile = s.tile.ltile := rfl
@[simp] theorem State.jump_tile_ntile (s : State) (a : BitVec 20) : (s.jump a).tile.ntile = s.tile.ntile := rfl
@[simp] theorem State.jump_tile_ctxn (s : State) (a : BitVec 20) : (s.jump a).tile.ctxn = s.tile.ctxn := rfl
@[simp] theorem State.jump_tile_pasid (s : State) (a : BitVec 20) : (s.jump a).tile.pasid = s.tile.pasid := rfl
@[simp] theorem State.jump_tile_tvec (s : State) (a : BitVec 20) : (s.jump a).tile.tvec = s.tile.tvec := rfl
@[simp] theorem State.jump_tile_task (s : State) (a : BitVec 20) : (s.jump a).tile.task = s.tile.task := rfl
@[simp] theorem State.jump_tile_ck (s : State) (a : BitVec 20) : (s.jump a).tile.ck = s.tile.ck := rfl
@[simp] theorem State.jump_tile_cyc (s : State) (a : BitVec 20) : (s.jump a).tile.cyc = s.tile.cyc := rfl
@[simp] theorem State.jump_tile_cych (s : State) (a : BitVec 20) : (s.jump a).tile.cych = s.tile.cych := rfl
@[simp] theorem State.jump_tile_win (s : State) (a : BitVec 20) : (s.jump a).tile.win = s.tile.win := rfl
@[simp] theorem State.jump_tile_shadow (s : State) (a : BitVec 20) : (s.jump a).tile.shadow = s.tile.shadow := rfl
@[simp] theorem State.jump_tile_wb0 (s : State) (a : BitVec 20) : (s.jump a).tile.wb0 = s.tile.wb0 := rfl
@[simp] theorem State.jump_tile_wb1 (s : State) (a : BitVec 20) : (s.jump a).tile.wb1 = s.tile.wb1 := rfl
@[simp] theorem State.jump_tile_ckWb0 (s : State) (a : BitVec 20) : (s.jump a).tile.ckWb0 = s.tile.ckWb0 := rfl
@[simp] theorem State.jump_tile_ckWb1 (s : State) (a : BitVec 20) : (s.jump a).tile.ckWb1 = s.tile.ckWb1 := rfl
@[simp] theorem State.jump_tile_latBad (s : State) (a : BitVec 20) : (s.jump a).tile.latBad = s.tile.latBad := rfl
@[simp] theorem State.jump_tile_pend (s : State) (a : BitVec 20) : (s.jump a).tile.pend = s.tile.pend := rfl
@[simp] theorem State.jump_tile_loads (s : State) (a : BitVec 20) : (s.jump a).tile.loads = s.tile.loads := rfl
@[simp] theorem State.jump_tile_jobs (s : State) (a : BitVec 20) : (s.jump a).tile.jobs = s.tile.jobs := rfl
@[simp] theorem State.jump_tile_jobSq (s : State) (a : BitVec 20) : (s.jump a).tile.jobSq = s.tile.jobSq := rfl
@[simp] theorem State.jump_tile_jobFails (s : State) (a : BitVec 20) : (s.jump a).tile.jobFails = s.tile.jobFails := rfl
@[simp] theorem State.jump_tile_cq (s : State) (a : BitVec 20) : (s.jump a).tile.cq = s.tile.cq := rfl
@[simp] theorem State.jump_tile_released (s : State) (a : BitVec 20) : (s.jump a).tile.released = s.tile.released := rfl
@[simp] theorem State.jump_tile_rb (s : State) (a : BitVec 20) : (s.jump a).tile.rb = s.tile.rb := rfl
@[simp] theorem State.jump_tile_loadBuf (s : State) (a : BitVec 20) : (s.jump a).tile.loadBuf = s.tile.loadBuf := rfl
@[simp] theorem State.jump_tile_mq (s : State) (a : BitVec 20) : (s.jump a).tile.mq = s.tile.mq := rfl
@[simp] theorem State.jump_tile_tstId (s : State) (a : BitVec 20) : (s.jump a).tile.tstId = s.tile.tstId := rfl
@[simp] theorem State.jump_tile_poison (s : State) (a : BitVec 20) : (s.jump a).tile.poison = s.tile.poison := rfl
@[simp] theorem State.jump_tile_ckPoison (s : State) (a : BitVec 20) : (s.jump a).tile.ckPoison = s.tile.ckPoison := rfl
@[simp] theorem State.jump_tile_unpins (s : State) (a : BitVec 20) : (s.jump a).tile.unpins = s.tile.unpins := rfl
@[simp] theorem State.jump_tile_notes (s : State) (a : BitVec 20) : (s.jump a).tile.notes = s.tile.notes := rfl
@[simp] theorem State.jump_tile_recov (s : State) (a : BitVec 20) : (s.jump a).tile.recov = s.tile.recov := rfl
@[simp] theorem State.jump_tile_ckFresh (s : State) (a : BitVec 20) : (s.jump a).tile.ckFresh = s.tile.ckFresh := rfl
@[simp] theorem State.jump_tile_ckDue (s : State) (a : BitVec 20) : (s.jump a).tile.ckDue = s.tile.ckDue := rfl
@[simp] theorem State.jump_tile_haltDue (s : State) (a : BitVec 20) : (s.jump a).tile.haltDue = s.tile.haltDue := rfl
@[simp] theorem State.jump_tile_lwCount (s : State) (a : BitVec 20) : (s.jump a).tile.lwCount = s.tile.lwCount := rfl
@[simp] theorem State.jump_tile_lwOn (s : State) (a : BitVec 20) : (s.jump a).tile.lwOn = s.tile.lwOn := rfl
@[simp] theorem State.jump_tile_freshPins (s : State) (a : BitVec 20) : (s.jump a).tile.freshPins = s.tile.freshPins := rfl
@[simp] theorem State.jump_tile_issued (s : State) (a : BitVec 20) : (s.jump a).tile.issued = s.tile.issued := rfl
@[simp] theorem State.jump_tile_tlb (s : State) (a : BitVec 20) : (s.jump a).tile.tlb = s.tile.tlb := rfl
@[simp] theorem State.jump_tile_doomed (s : State) (a : BitVec 20) : (s.jump a).tile.doomed = s.tile.doomed := rfl
@[simp] theorem State.jump_tile_extWr (s : State) (a : BitVec 20) : (s.jump a).tile.extWr = s.tile.extWr := rfl
@[simp] theorem State.jump_tile_flintBad (s : State) (a : BitVec 20) : (s.jump a).tile.flintBad = s.tile.flintBad := rfl
@[simp] theorem State.branch_tile_phys (s : State) (a : BitVec 20) : (s.branch a).tile.phys = s.tile.phys := rfl
@[simp] theorem State.branch_tile_stat (s : State) (a : BitVec 20) : (s.branch a).tile.stat = s.tile.stat := rfl
@[simp] theorem State.branch_tile_ctx (s : State) (a : BitVec 20) : (s.branch a).tile.ctx = s.tile.ctx := rfl
@[simp] theorem State.branch_tile_ltile (s : State) (a : BitVec 20) : (s.branch a).tile.ltile = s.tile.ltile := rfl
@[simp] theorem State.branch_tile_ntile (s : State) (a : BitVec 20) : (s.branch a).tile.ntile = s.tile.ntile := rfl
@[simp] theorem State.branch_tile_ctxn (s : State) (a : BitVec 20) : (s.branch a).tile.ctxn = s.tile.ctxn := rfl
@[simp] theorem State.branch_tile_pasid (s : State) (a : BitVec 20) : (s.branch a).tile.pasid = s.tile.pasid := rfl
@[simp] theorem State.branch_tile_tvec (s : State) (a : BitVec 20) : (s.branch a).tile.tvec = s.tile.tvec := rfl
@[simp] theorem State.branch_tile_task (s : State) (a : BitVec 20) : (s.branch a).tile.task = s.tile.task := rfl
@[simp] theorem State.branch_tile_ck (s : State) (a : BitVec 20) : (s.branch a).tile.ck = s.tile.ck := rfl
@[simp] theorem State.branch_tile_cyc (s : State) (a : BitVec 20) : (s.branch a).tile.cyc = s.tile.cyc + 1 := rfl
@[simp] theorem State.branch_tile_cych (s : State) (a : BitVec 20) : (s.branch a).tile.cych = s.tile.cych := rfl
@[simp] theorem State.branch_tile_win (s : State) (a : BitVec 20) : (s.branch a).tile.win = s.tile.win := rfl
@[simp] theorem State.branch_tile_shadow (s : State) (a : BitVec 20) : (s.branch a).tile.shadow = s.tile.shadow := rfl
@[simp] theorem State.branch_tile_wb0 (s : State) (a : BitVec 20) : (s.branch a).tile.wb0 = s.tile.wb0 := rfl
@[simp] theorem State.branch_tile_wb1 (s : State) (a : BitVec 20) : (s.branch a).tile.wb1 = s.tile.wb1 := rfl
@[simp] theorem State.branch_tile_ckWb0 (s : State) (a : BitVec 20) : (s.branch a).tile.ckWb0 = s.tile.ckWb0 := rfl
@[simp] theorem State.branch_tile_ckWb1 (s : State) (a : BitVec 20) : (s.branch a).tile.ckWb1 = s.tile.ckWb1 := rfl
@[simp] theorem State.branch_tile_latBad (s : State) (a : BitVec 20) : (s.branch a).tile.latBad = s.tile.latBad := rfl
@[simp] theorem State.branch_tile_pend (s : State) (a : BitVec 20) : (s.branch a).tile.pend = s.tile.pend := rfl
@[simp] theorem State.branch_tile_loads (s : State) (a : BitVec 20) : (s.branch a).tile.loads = s.tile.loads := rfl
@[simp] theorem State.branch_tile_jobs (s : State) (a : BitVec 20) : (s.branch a).tile.jobs = s.tile.jobs := rfl
@[simp] theorem State.branch_tile_jobSq (s : State) (a : BitVec 20) : (s.branch a).tile.jobSq = s.tile.jobSq := rfl
@[simp] theorem State.branch_tile_jobFails (s : State) (a : BitVec 20) : (s.branch a).tile.jobFails = s.tile.jobFails := rfl
@[simp] theorem State.branch_tile_cq (s : State) (a : BitVec 20) : (s.branch a).tile.cq = s.tile.cq := rfl
@[simp] theorem State.branch_tile_released (s : State) (a : BitVec 20) : (s.branch a).tile.released = s.tile.released := rfl
@[simp] theorem State.branch_tile_rb (s : State) (a : BitVec 20) : (s.branch a).tile.rb = s.tile.rb := rfl
@[simp] theorem State.branch_tile_loadBuf (s : State) (a : BitVec 20) : (s.branch a).tile.loadBuf = s.tile.loadBuf := rfl
@[simp] theorem State.branch_tile_mq (s : State) (a : BitVec 20) : (s.branch a).tile.mq = s.tile.mq := rfl
@[simp] theorem State.branch_tile_tstId (s : State) (a : BitVec 20) : (s.branch a).tile.tstId = s.tile.tstId := rfl
@[simp] theorem State.branch_tile_poison (s : State) (a : BitVec 20) : (s.branch a).tile.poison = s.tile.poison := rfl
@[simp] theorem State.branch_tile_ckPoison (s : State) (a : BitVec 20) : (s.branch a).tile.ckPoison = s.tile.ckPoison := rfl
@[simp] theorem State.branch_tile_unpins (s : State) (a : BitVec 20) : (s.branch a).tile.unpins = s.tile.unpins := rfl
@[simp] theorem State.branch_tile_notes (s : State) (a : BitVec 20) : (s.branch a).tile.notes = s.tile.notes := rfl
@[simp] theorem State.branch_tile_recov (s : State) (a : BitVec 20) : (s.branch a).tile.recov = s.tile.recov := rfl
@[simp] theorem State.branch_tile_ckFresh (s : State) (a : BitVec 20) : (s.branch a).tile.ckFresh = s.tile.ckFresh := rfl
@[simp] theorem State.branch_tile_ckDue (s : State) (a : BitVec 20) : (s.branch a).tile.ckDue = s.tile.ckDue := rfl
@[simp] theorem State.branch_tile_haltDue (s : State) (a : BitVec 20) : (s.branch a).tile.haltDue = s.tile.haltDue := rfl
@[simp] theorem State.branch_tile_lwCount (s : State) (a : BitVec 20) : (s.branch a).tile.lwCount = s.tile.lwCount := rfl
@[simp] theorem State.branch_tile_lwOn (s : State) (a : BitVec 20) : (s.branch a).tile.lwOn = s.tile.lwOn := rfl
@[simp] theorem State.branch_tile_freshPins (s : State) (a : BitVec 20) : (s.branch a).tile.freshPins = s.tile.freshPins := rfl
@[simp] theorem State.branch_tile_issued (s : State) (a : BitVec 20) : (s.branch a).tile.issued = s.tile.issued := rfl
@[simp] theorem State.branch_tile_tlb (s : State) (a : BitVec 20) : (s.branch a).tile.tlb = s.tile.tlb := rfl
@[simp] theorem State.branch_tile_doomed (s : State) (a : BitVec 20) : (s.branch a).tile.doomed = s.tile.doomed := rfl
@[simp] theorem State.branch_tile_extWr (s : State) (a : BitVec 20) : (s.branch a).tile.extWr = s.tile.extWr := rfl
@[simp] theorem State.branch_tile_flintBad (s : State) (a : BitVec 20) : (s.branch a).tile.flintBad = s.tile.flintBad := rfl
@[simp] theorem State.setStatus_status (s : State) (x : IssueStatus) : (s.setStatus x).iss.status = x := rfl
@[simp] theorem State.modCtx_ctxs (s : State) (n : Nat) (f : Ctx → Ctx) : (s.modCtx n f).dev.ctxs = s.dev.ctxs.map fun c => if c.num = n then f c else c := rfl
@[simp] theorem Tile.setJob_jobs (t : Tile) (j : Job) : (t.setJob j).jobs = t.jobs.map fun x => if x.slot = j.slot then j else x := rfl
@[simp] theorem Tile.putAll_latBad (t : Tile) (l : List (Dst × Word)) : (t.putAll l).latBad = t.latBad.filter fun e => !(l.any fun d => decide (d.1 = .lat e)) := rfl
@[simp] theorem Core.setReg_pc (c : Core) (r : Reg) (v : Word) : (c.setReg r v).pc = c.pc := by unfold Core.setReg; split <;> rfl
@[simp] theorem Core.setPred_pc (c : Core) (i : BitVec 3) (v : Bool) : (c.setPred i v).pc = c.pc := by unfold Core.setPred; split <;> rfl
@[simp] theorem Core.put_pc (c : Core) (d : Dst × Word) : (c.put d).pc = c.pc := by unfold Core.put; split <;> simp
@[simp] theorem Core.putAll_pc (c : Core) (l : List (Dst × Word)) : (c.putAll l).pc = c.pc := by unfold Core.putAll; induction l generalizing c <;> simp_all
@[simp] theorem Core.setPred_s (c : Core) (i : BitVec 3) (v : Bool) : (c.setPred i v).s = c.s := by unfold Core.setPred; split <;> rfl
@[simp] theorem Core.setReg_p (c : Core) (r : Reg) (v : Word) : (c.setReg r v).p = c.p := by unfold Core.setReg; split <;> rfl
@[simp] theorem Core.put_p (c : Core) (d : Dst × Word) : (c.put d).p = c.p := by unfold Core.put; split <;> simp
@[simp] theorem Core.putAll_p (c : Core) (l : List (Dst × Word)) : (c.putAll l).p = c.p := by unfold Core.putAll; induction l generalizing c <;> simp_all
@[simp] theorem Core.setReg_lat (c : Core) (r : Reg) (v : Word) : (c.setReg r v).lat = c.lat := by unfold Core.setReg; split <;> rfl
@[simp] theorem Core.setPred_lat (c : Core) (i : BitVec 3) (v : Bool) : (c.setPred i v).lat = c.lat := by unfold Core.setPred; split <;> rfl
@[simp] theorem Core.setReg_flags (c : Core) (r : Reg) (v : Word) : (c.setReg r v).flags = c.flags := by unfold Core.setReg; split <;> rfl
@[simp] theorem Core.setPred_flags (c : Core) (i : BitVec 3) (v : Bool) : (c.setPred i v).flags = c.flags := by unfold Core.setPred; split <;> rfl
@[simp] theorem Core.put_flags (c : Core) (d : Dst × Word) : (c.put d).flags = c.flags := by unfold Core.put; split <;> simp
@[simp] theorem Core.putAll_flags (c : Core) (l : List (Dst × Word)) : (c.putAll l).flags = c.flags := by unfold Core.putAll; induction l generalizing c <;> simp_all
@[simp] theorem Core.setReg_fpctl (c : Core) (r : Reg) (v : Word) : (c.setReg r v).fpctl = c.fpctl := by unfold Core.setReg; split <;> rfl
@[simp] theorem Core.setPred_fpctl (c : Core) (i : BitVec 3) (v : Bool) : (c.setPred i v).fpctl = c.fpctl := by unfold Core.setPred; split <;> rfl
@[simp] theorem Core.put_fpctl (c : Core) (d : Dst × Word) : (c.put d).fpctl = c.fpctl := by unfold Core.put; split <;> simp
@[simp] theorem Core.putAll_fpctl (c : Core) (l : List (Dst × Word)) : (c.putAll l).fpctl = c.fpctl := by unfold Core.putAll; induction l generalizing c <;> simp_all
@[simp] theorem Core.setReg_lwlim (c : Core) (r : Reg) (v : Word) : (c.setReg r v).lwlim = c.lwlim := by unfold Core.setReg; split <;> rfl
@[simp] theorem Core.setPred_lwlim (c : Core) (i : BitVec 3) (v : Bool) : (c.setPred i v).lwlim = c.lwlim := by unfold Core.setPred; split <;> rfl
@[simp] theorem Core.put_lwlim (c : Core) (d : Dst × Word) : (c.put d).lwlim = c.lwlim := by unfold Core.put; split <;> simp
@[simp] theorem Core.putAll_lwlim (c : Core) (l : List (Dst × Word)) : (c.putAll l).lwlim = c.lwlim := by unfold Core.putAll; induction l generalizing c <;> simp_all
@[simp] theorem Core.setReg_epc (c : Core) (r : Reg) (v : Word) : (c.setReg r v).epc = c.epc := by unfold Core.setReg; split <;> rfl
@[simp] theorem Core.setPred_epc (c : Core) (i : BitVec 3) (v : Bool) : (c.setPred i v).epc = c.epc := by unfold Core.setPred; split <;> rfl
@[simp] theorem Core.put_epc (c : Core) (d : Dst × Word) : (c.put d).epc = c.epc := by unfold Core.put; split <;> simp
@[simp] theorem Core.putAll_epc (c : Core) (l : List (Dst × Word)) : (c.putAll l).epc = c.epc := by unfold Core.putAll; induction l generalizing c <;> simp_all
@[simp] theorem Core.setReg_ecause (c : Core) (r : Reg) (v : Word) : (c.setReg r v).ecause = c.ecause := by unfold Core.setReg; split <;> rfl
@[simp] theorem Core.setPred_ecause (c : Core) (i : BitVec 3) (v : Bool) : (c.setPred i v).ecause = c.ecause := by unfold Core.setPred; split <;> rfl
@[simp] theorem Core.put_ecause (c : Core) (d : Dst × Word) : (c.put d).ecause = c.ecause := by unfold Core.put; split <;> simp
@[simp] theorem Core.putAll_ecause (c : Core) (l : List (Dst × Word)) : (c.putAll l).ecause = c.ecause := by unfold Core.putAll; induction l generalizing c <;> simp_all
@[simp] theorem Core.setReg_einfo (c : Core) (r : Reg) (v : Word) : (c.setReg r v).einfo = c.einfo := by unfold Core.setReg; split <;> rfl
@[simp] theorem Core.setPred_einfo (c : Core) (i : BitVec 3) (v : Bool) : (c.setPred i v).einfo = c.einfo := by unfold Core.setPred; split <;> rfl
@[simp] theorem Core.put_einfo (c : Core) (d : Dst × Word) : (c.put d).einfo = c.einfo := by unfold Core.put; split <;> simp
@[simp] theorem Core.putAll_einfo (c : Core) (l : List (Dst × Word)) : (c.putAll l).einfo = c.einfo := by unfold Core.putAll; induction l generalizing c <;> simp_all
@[simp] theorem Core.setReg_ss (c : Core) (r : Reg) (v : Word) : (c.setReg r v).ss = c.ss := by unfold Core.setReg; split <;> rfl
@[simp] theorem Core.setPred_ss (c : Core) (i : BitVec 3) (v : Bool) : (c.setPred i v).ss = c.ss := by unfold Core.setPred; split <;> rfl
@[simp] theorem Core.put_ss (c : Core) (d : Dst × Word) : (c.put d).ss = c.ss := by unfold Core.put; split <;> simp
@[simp] theorem Core.putAll_ss (c : Core) (l : List (Dst × Word)) : (c.putAll l).ss = c.ss := by unfold Core.putAll; induction l generalizing c <;> simp_all
@[simp] theorem Core.setReg_ntmask (c : Core) (r : Reg) (v : Word) : (c.setReg r v).ntmask = c.ntmask := by unfold Core.setReg; split <;> rfl
@[simp] theorem Core.setPred_ntmask (c : Core) (i : BitVec 3) (v : Bool) : (c.setPred i v).ntmask = c.ntmask := by unfold Core.setPred; split <;> rfl
@[simp] theorem Core.put_ntmask (c : Core) (d : Dst × Word) : (c.put d).ntmask = c.ntmask := by unfold Core.put; split <;> simp
@[simp] theorem Core.putAll_ntmask (c : Core) (l : List (Dst × Word)) : (c.putAll l).ntmask = c.ntmask := by unfold Core.putAll; induction l generalizing c <;> simp_all
@[simp] theorem Core.setReg_sup (c : Core) (r : Reg) (v : Word) : (c.setReg r v).sup = c.sup := by unfold Core.setReg; split <;> rfl
@[simp] theorem Core.setPred_sup (c : Core) (i : BitVec 3) (v : Bool) : (c.setPred i v).sup = c.sup := by unfold Core.setPred; split <;> rfl
@[simp] theorem Core.put_sup (c : Core) (d : Dst × Word) : (c.put d).sup = c.sup := by unfold Core.put; split <;> simp
@[simp] theorem Core.putAll_sup (c : Core) (l : List (Dst × Word)) : (c.putAll l).sup = c.sup := by unfold Core.putAll; induction l generalizing c <;> simp_all
@[simp] theorem Core.setReg_inHandler (c : Core) (r : Reg) (v : Word) : (c.setReg r v).inHandler = c.inHandler := by unfold Core.setReg; split <;> rfl
@[simp] theorem Core.setPred_inHandler (c : Core) (i : BitVec 3) (v : Bool) : (c.setPred i v).inHandler = c.inHandler := by unfold Core.setPred; split <;> rfl
@[simp] theorem Core.put_inHandler (c : Core) (d : Dst × Word) : (c.put d).inHandler = c.inHandler := by unfold Core.put; split <;> simp
@[simp] theorem Core.putAll_inHandler (c : Core) (l : List (Dst × Word)) : (c.putAll l).inHandler = c.inHandler := by unfold Core.putAll; induction l generalizing c <;> simp_all
@[simp] theorem Core.setReg_noteDue (c : Core) (r : Reg) (v : Word) : (c.setReg r v).noteDue = c.noteDue := by unfold Core.setReg; split <;> rfl
@[simp] theorem Core.setPred_noteDue (c : Core) (i : BitVec 3) (v : Bool) : (c.setPred i v).noteDue = c.noteDue := by unfold Core.setPred; split <;> rfl
@[simp] theorem Core.put_noteDue (c : Core) (d : Dst × Word) : (c.put d).noteDue = c.noteDue := by unfold Core.put; split <;> simp
@[simp] theorem Core.putAll_noteDue (c : Core) (l : List (Dst × Word)) : (c.putAll l).noteDue = c.noteDue := by unfold Core.putAll; induction l generalizing c <;> simp_all
@[simp] theorem Core.setReg_ports (c : Core) (r : Reg) (v : Word) : (c.setReg r v).ports = c.ports := by unfold Core.setReg; split <;> rfl
@[simp] theorem Core.setPred_ports (c : Core) (i : BitVec 3) (v : Bool) : (c.setPred i v).ports = c.ports := by unfold Core.setPred; split <;> rfl
@[simp] theorem Core.put_ports (c : Core) (d : Dst × Word) : (c.put d).ports = c.ports := by unfold Core.put; split <;> simp
@[simp] theorem Core.putAll_ports (c : Core) (l : List (Dst × Word)) : (c.putAll l).ports = c.ports := by unfold Core.putAll; induction l generalizing c <;> simp_all
@[simp] theorem Core.setReg_tokPend (c : Core) (r : Reg) (v : Word) : (c.setReg r v).tokPend = c.tokPend := by unfold Core.setReg; split <;> rfl
@[simp] theorem Core.setPred_tokPend (c : Core) (i : BitVec 3) (v : Bool) : (c.setPred i v).tokPend = c.tokPend := by unfold Core.setPred; split <;> rfl
@[simp] theorem Core.put_tokPend (c : Core) (d : Dst × Word) : (c.put d).tokPend = c.tokPend := by unfold Core.put; split <;> simp
@[simp] theorem Core.putAll_tokPend (c : Core) (l : List (Dst × Word)) : (c.putAll l).tokPend = c.tokPend := by unfold Core.putAll; induction l generalizing c <;> simp_all
@[simp] theorem Core.setReg_tokDone (c : Core) (r : Reg) (v : Word) : (c.setReg r v).tokDone = c.tokDone := by unfold Core.setReg; split <;> rfl
@[simp] theorem Core.setPred_tokDone (c : Core) (i : BitVec 3) (v : Bool) : (c.setPred i v).tokDone = c.tokDone := by unfold Core.setPred; split <;> rfl
@[simp] theorem Core.put_tokDone (c : Core) (d : Dst × Word) : (c.put d).tokDone = c.tokDone := by unfold Core.put; split <;> simp
@[simp] theorem Core.putAll_tokDone (c : Core) (l : List (Dst × Word)) : (c.putAll l).tokDone = c.tokDone := by unfold Core.putAll; induction l generalizing c <;> simp_all
@[simp] theorem Core.setReg_tcfg (c : Core) (r : Reg) (v : Word) : (c.setReg r v).tcfg = c.tcfg := by unfold Core.setReg; split <;> rfl
@[simp] theorem Core.setPred_tcfg (c : Core) (i : BitVec 3) (v : Bool) : (c.setPred i v).tcfg = c.tcfg := by unfold Core.setPred; split <;> rfl
@[simp] theorem Core.put_tcfg (c : Core) (d : Dst × Word) : (c.put d).tcfg = c.tcfg := by unfold Core.put; split <;> simp
@[simp] theorem Core.putAll_tcfg (c : Core) (l : List (Dst × Word)) : (c.putAll l).tcfg = c.tcfg := by unfold Core.putAll; induction l generalizing c <;> simp_all
@[simp] theorem Core.setReg_wbCfg0 (c : Core) (r : Reg) (v : Word) : (c.setReg r v).wbCfg0 = c.wbCfg0 := by unfold Core.setReg; split <;> rfl
@[simp] theorem Core.setPred_wbCfg0 (c : Core) (i : BitVec 3) (v : Bool) : (c.setPred i v).wbCfg0 = c.wbCfg0 := by unfold Core.setPred; split <;> rfl
@[simp] theorem Core.put_wbCfg0 (c : Core) (d : Dst × Word) : (c.put d).wbCfg0 = c.wbCfg0 := by unfold Core.put; split <;> simp
@[simp] theorem Core.putAll_wbCfg0 (c : Core) (l : List (Dst × Word)) : (c.putAll l).wbCfg0 = c.wbCfg0 := by unfold Core.putAll; induction l generalizing c <;> simp_all
@[simp] theorem Core.setReg_wbCfg1 (c : Core) (r : Reg) (v : Word) : (c.setReg r v).wbCfg1 = c.wbCfg1 := by unfold Core.setReg; split <;> rfl
@[simp] theorem Core.setPred_wbCfg1 (c : Core) (i : BitVec 3) (v : Bool) : (c.setPred i v).wbCfg1 = c.wbCfg1 := by unfold Core.setPred; split <;> rfl
@[simp] theorem Core.put_wbCfg1 (c : Core) (d : Dst × Word) : (c.put d).wbCfg1 = c.wbCfg1 := by unfold Core.put; split <;> simp
@[simp] theorem Core.putAll_wbCfg1 (c : Core) (l : List (Dst × Word)) : (c.putAll l).wbCfg1 = c.wbCfg1 := by unfold Core.putAll; induction l generalizing c <;> simp_all
@[simp] theorem Core.setReg_latBuf (c : Core) (r : Reg) (v : Word) : (c.setReg r v).latBuf = c.latBuf := by unfold Core.setReg; split <;> rfl
@[simp] theorem Core.setPred_latBuf (c : Core) (i : BitVec 3) (v : Bool) : (c.setPred i v).latBuf = c.latBuf := by unfold Core.setPred; split <;> rfl
@[simp] theorem Core.put_latBuf (c : Core) (d : Dst × Word) : (c.put d).latBuf = c.latBuf := by unfold Core.put; split <;> simp
@[simp] theorem Core.putAll_latBuf (c : Core) (l : List (Dst × Word)) : (c.putAll l).latBuf = c.latBuf := by unfold Core.putAll; induction l generalizing c <;> simp_all
@[simp] theorem Core.setReg_latValid (c : Core) (r : Reg) (v : Word) : (c.setReg r v).latValid = c.latValid := by unfold Core.setReg; split <;> rfl
@[simp] theorem Core.setPred_latValid (c : Core) (i : BitVec 3) (v : Bool) : (c.setPred i v).latValid = c.latValid := by unfold Core.setPred; split <;> rfl
@[simp] theorem Core.put_latValid (c : Core) (d : Dst × Word) : (c.put d).latValid = c.latValid := by unfold Core.put; split <;> simp
@[simp] theorem Core.putAll_latValid (c : Core) (l : List (Dst × Word)) : (c.putAll l).latValid = c.latValid := by unfold Core.putAll; induction l generalizing c <;> simp_all
@[simp] theorem Core.setReg_flint (c : Core) (r : Reg) (v : Word) : (c.setReg r v).flint = c.flint := by unfold Core.setReg; split <;> rfl
@[simp] theorem Core.setPred_flint (c : Core) (i : BitVec 3) (v : Bool) : (c.setPred i v).flint = c.flint := by unfold Core.setPred; split <;> rfl
@[simp] theorem Core.put_flint (c : Core) (d : Dst × Word) : (c.put d).flint = c.flint := by unfold Core.put; split <;> simp
@[simp] theorem Core.putAll_flint (c : Core) (l : List (Dst × Word)) : (c.putAll l).flint = c.flint := by unfold Core.putAll; induction l generalizing c <;> simp_all
@[simp] theorem Core.setReg_pins (c : Core) (r : Reg) (v : Word) : (c.setReg r v).pins = c.pins := by unfold Core.setReg; split <;> rfl
@[simp] theorem Core.setReg_bindings (c : Core) (r : Reg) (v : Word) : (c.setReg r v).bindings = c.bindings := by unfold Core.setReg; split <;> rfl
@[simp] theorem Core.setPred_pins (c : Core) (i : BitVec 3) (v : Bool) : (c.setPred i v).pins = c.pins := by unfold Core.setPred; split <;> rfl
@[simp] theorem Core.setPred_bindings (c : Core) (i : BitVec 3) (v : Bool) : (c.setPred i v).bindings = c.bindings := by unfold Core.setPred; split <;> rfl
@[simp] theorem Core.put_pins (c : Core) (d : Dst × Word) : (c.put d).pins = c.pins := by unfold Core.put; split <;> simp
@[simp] theorem Core.put_bindings (c : Core) (d : Dst × Word) : (c.put d).bindings = c.bindings := by unfold Core.put; split <;> simp
@[simp] theorem Core.putAll_pins (c : Core) (l : List (Dst × Word)) : (c.putAll l).pins = c.pins := by unfold Core.putAll; induction l generalizing c <;> simp_all
@[simp] theorem Core.putAll_bindings (c : Core) (l : List (Dst × Word)) : (c.putAll l).bindings = c.bindings := by unfold Core.putAll; induction l generalizing c <;> simp_all
@[simp] theorem State.markDue_tile_phys (s : State) (b : Bool) : (s.markDue b).tile.phys = s.tile.phys := by cases b <;> rfl
@[simp] theorem State.markDue_tile_stat (s : State) (b : Bool) : (s.markDue b).tile.stat = s.tile.stat := by cases b <;> rfl
@[simp] theorem State.markDue_tile_ctx (s : State) (b : Bool) : (s.markDue b).tile.ctx = s.tile.ctx := by cases b <;> rfl
@[simp] theorem State.markDue_tile_ltile (s : State) (b : Bool) : (s.markDue b).tile.ltile = s.tile.ltile := by cases b <;> rfl
@[simp] theorem State.markDue_tile_ntile (s : State) (b : Bool) : (s.markDue b).tile.ntile = s.tile.ntile := by cases b <;> rfl
@[simp] theorem State.markDue_tile_ctxn (s : State) (b : Bool) : (s.markDue b).tile.ctxn = s.tile.ctxn := by cases b <;> rfl
@[simp] theorem State.markDue_tile_pasid (s : State) (b : Bool) : (s.markDue b).tile.pasid = s.tile.pasid := by cases b <;> rfl
@[simp] theorem State.markDue_tile_tvec (s : State) (b : Bool) : (s.markDue b).tile.tvec = s.tile.tvec := by cases b <;> rfl
@[simp] theorem State.markDue_tile_task (s : State) (b : Bool) : (s.markDue b).tile.task = s.tile.task := by cases b <;> rfl
@[simp] theorem State.markDue_tile_core (s : State) (b : Bool) : (s.markDue b).tile.core = s.tile.core := by cases b <;> rfl
@[simp] theorem State.markDue_tile_ck (s : State) (b : Bool) : (s.markDue b).tile.ck = s.tile.ck := by cases b <;> rfl
@[simp] theorem State.markDue_tile_cyc (s : State) (b : Bool) : (s.markDue b).tile.cyc = s.tile.cyc := by cases b <;> rfl
@[simp] theorem State.markDue_tile_cych (s : State) (b : Bool) : (s.markDue b).tile.cych = s.tile.cych := by cases b <;> rfl
@[simp] theorem State.markDue_tile_win (s : State) (b : Bool) : (s.markDue b).tile.win = s.tile.win := by cases b <;> rfl
@[simp] theorem State.markDue_tile_shadow (s : State) (b : Bool) : (s.markDue b).tile.shadow = s.tile.shadow := by cases b <;> rfl
@[simp] theorem State.markDue_tile_wb0 (s : State) (b : Bool) : (s.markDue b).tile.wb0 = s.tile.wb0 := by cases b <;> rfl
@[simp] theorem State.markDue_tile_wb1 (s : State) (b : Bool) : (s.markDue b).tile.wb1 = s.tile.wb1 := by cases b <;> rfl
@[simp] theorem State.markDue_tile_ckWb0 (s : State) (b : Bool) : (s.markDue b).tile.ckWb0 = s.tile.ckWb0 := by cases b <;> rfl
@[simp] theorem State.markDue_tile_ckWb1 (s : State) (b : Bool) : (s.markDue b).tile.ckWb1 = s.tile.ckWb1 := by cases b <;> rfl
@[simp] theorem State.markDue_tile_latBad (s : State) (b : Bool) : (s.markDue b).tile.latBad = s.tile.latBad := by cases b <;> rfl
@[simp] theorem State.markDue_tile_pend (s : State) (b : Bool) : (s.markDue b).tile.pend = s.tile.pend := by cases b <;> rfl
@[simp] theorem State.markDue_tile_loads (s : State) (b : Bool) : (s.markDue b).tile.loads = s.tile.loads := by cases b <;> rfl
@[simp] theorem State.markDue_tile_jobs (s : State) (b : Bool) : (s.markDue b).tile.jobs = s.tile.jobs := by cases b <;> rfl
@[simp] theorem State.markDue_tile_jobSq (s : State) (b : Bool) : (s.markDue b).tile.jobSq = s.tile.jobSq := by cases b <;> rfl
@[simp] theorem State.markDue_tile_jobFails (s : State) (b : Bool) : (s.markDue b).tile.jobFails = s.tile.jobFails := by cases b <;> rfl
@[simp] theorem State.markDue_tile_cq (s : State) (b : Bool) : (s.markDue b).tile.cq = s.tile.cq := by cases b <;> rfl
@[simp] theorem State.markDue_tile_released (s : State) (b : Bool) : (s.markDue b).tile.released = s.tile.released := by cases b <;> rfl
@[simp] theorem State.markDue_tile_rb (s : State) (b : Bool) : (s.markDue b).tile.rb = s.tile.rb := by cases b <;> rfl
@[simp] theorem State.markDue_tile_loadBuf (s : State) (b : Bool) : (s.markDue b).tile.loadBuf = s.tile.loadBuf := by cases b <;> rfl
@[simp] theorem State.markDue_tile_mq (s : State) (b : Bool) : (s.markDue b).tile.mq = s.tile.mq := by cases b <;> rfl
@[simp] theorem State.markDue_tile_tstId (s : State) (b : Bool) : (s.markDue b).tile.tstId = s.tile.tstId := by cases b <;> rfl
@[simp] theorem State.markDue_tile_poison (s : State) (b : Bool) : (s.markDue b).tile.poison = s.tile.poison := by cases b <;> rfl
@[simp] theorem State.markDue_tile_ckPoison (s : State) (b : Bool) : (s.markDue b).tile.ckPoison = s.tile.ckPoison := by cases b <;> rfl
@[simp] theorem State.markDue_tile_unpins (s : State) (b : Bool) : (s.markDue b).tile.unpins = s.tile.unpins := by cases b <;> rfl
@[simp] theorem State.markDue_tile_notes (s : State) (b : Bool) : (s.markDue b).tile.notes = s.tile.notes := by cases b <;> rfl
@[simp] theorem State.markDue_tile_recov (s : State) (b : Bool) : (s.markDue b).tile.recov = s.tile.recov := by cases b <;> rfl
@[simp] theorem State.markDue_tile_ckFresh (s : State) (b : Bool) : (s.markDue b).tile.ckFresh = s.tile.ckFresh := by cases b <;> rfl
@[simp] theorem State.markDue_tile_haltDue (s : State) (b : Bool) : (s.markDue b).tile.haltDue = s.tile.haltDue := by cases b <;> rfl
@[simp] theorem State.markDue_tile_lwCount (s : State) (b : Bool) : (s.markDue b).tile.lwCount = s.tile.lwCount := by cases b <;> rfl
@[simp] theorem State.markDue_tile_lwOn (s : State) (b : Bool) : (s.markDue b).tile.lwOn = s.tile.lwOn := by cases b <;> rfl
@[simp] theorem State.markDue_tile_freshPins (s : State) (b : Bool) : (s.markDue b).tile.freshPins = s.tile.freshPins := by cases b <;> rfl
@[simp] theorem State.markDue_tile_issued (s : State) (b : Bool) : (s.markDue b).tile.issued = s.tile.issued := by cases b <;> rfl
@[simp] theorem State.markDue_tile_tlb (s : State) (b : Bool) : (s.markDue b).tile.tlb = s.tile.tlb := by cases b <;> rfl
@[simp] theorem State.markDue_tile_doomed (s : State) (b : Bool) : (s.markDue b).tile.doomed = s.tile.doomed := by cases b <;> rfl
@[simp] theorem State.markDue_tile_extWr (s : State) (b : Bool) : (s.markDue b).tile.extWr = s.tile.extWr := by cases b <;> rfl
@[simp] theorem State.markDue_tile_flintBad (s : State) (b : Bool) : (s.markDue b).tile.flintBad = s.tile.flintBad := by cases b <;> rfl
@[simp] theorem State.markDue_others (s : State) (b : Bool) : (s.markDue b).others = s.others := by cases b <;> rfl
@[simp] theorem State.markDue_src (s : State) (b : Bool) : (s.markDue b).src = s.src := by cases b <;> rfl
@[simp] theorem State.markDue_iss (s : State) (b : Bool) : (s.markDue b).iss = s.iss := by cases b <;> rfl
@[simp] theorem State.markDue_dev (s : State) (b : Bool) : (s.markDue b).dev = s.dev := by cases b <;> rfl
@[simp] theorem State.markDue_sched (s : State) (b : Bool) : (s.markDue b).sched = s.sched := by cases b <;> rfl
@[simp] theorem State.markDue_free (s : State) (b : Bool) : (s.markDue b).free = s.free := by cases b <;> rfl

end Sys2Proof.Machine
end

