-- ==== Sys2Proof/Laws/Ops.lean ====
section
/-! SUPPORT. What the shared operations do, said once: the frame of an operation (R46, R53, R56), the delivery of results
(R49 to R53), the landing of one, what a bundle does once it has issued (R48, R49), and the vote on the output of a machine
(R393). -/

namespace Sys2Proof.Machine

/-! ### runOp -/

/-- An operation whose decode check passes, whose operands are there and whose guard is true does what its body does. -/
theorem runOp_go {s : State} {x : Gate} {body : State → Body} (hc : x.chk = none) (hg : x.g = true)
    (hw : x.wait = false) (hk : x.ckop = true → s.src.ckFresh = true) (hf : s.free? x.uses = true) :
    s.runOp x body =
      match body (s.popUses x.uses) with
      | .ok s' => .next (s'.markDue (x.ckop || s.readsToken x.uses))
      | .trap c info bits code => .next (s.trapAt c info bits code .trapExec)
      | .stall => .next (s.setStatus .stall)
      | .waiting s' => .next (s'.setStatus .stall)
      | .ckpt => .next (s.setStatus .ckpt) := by
  simp only [State.free?, Bool.and_eq_true, Bool.not_eq_true', Option.isNone_iff_eq_none] at hf
  obtain ⟨⟨h1, h2⟩, h3⟩ := hf
  have hk' : (x.ckop && !s.src.ckFresh) = false := by
    cases h : x.ckop <;> simp_all
  unfold State.runOp
  simp only [hc, hk', h2, hw, h1, hg, h3, Bool.or_self, Bool.false_eq_true, if_false, if_true]
  all_goals cases body (s.popUses x.uses) <;> rfl

/-- A false guard leaves nothing but the mark of a checkpoint (R46). -/
theorem runOp_off {s : State} {x : Gate} {body : State → Body} (hg : x.g = false) :
    ∃ t, s.runOp x body = .next t ∧
      (t.iss.status = .trapDecode ∨ t = s.setStatus .ckpt ∨ t = s.setStatus .stall ∨ ∃ b, t = s.markDue b) := by
  unfold State.runOp
  simp only [hg, Bool.false_eq_true, if_false]
  split
  · exact ⟨_, rfl, .inl rfl⟩
  · split
    · exact ⟨_, rfl, .inr (.inl rfl)⟩
    · split
      · exact ⟨_, rfl, .inr (.inr (.inl rfl))⟩
      · exact ⟨_, rfl, .inr (.inr (.inr ⟨_, rfl⟩))⟩

/-- Every operation answers a next state. -/
theorem runOp_next (s : State) (x : Gate) (body : State → Body) : ∃ t, s.runOp x body = .next t := by
  unfold State.runOp
  repeat' split
  all_goals exact ⟨_, rfl⟩

/-- Where the operation names no stream, there is none to advance. -/
theorem popUses_none {s : State} {u : Uses} (h : u.vecs.filterMap VOp.stream? = []) : s.popUses u = s := by
  simp [State.popUses, State.popPorts, h]

/-! ### Registers -/

@[simp] theorem reg_zero (c : Core) : c.reg 0 = 0 := rfl

theorem reg_setReg (c : Core) (r q : Reg) (v : Word) : (c.setReg r v).reg q = if q = r then valueOf r v else c.reg q := by
  unfold Core.setReg Core.reg valueOf
  by_cases hr : r = 0
  · by_cases hq : q = r
    · rw [if_pos hr, if_pos (hq.trans hr), if_pos hq, if_pos hr]
    · rw [if_pos hr, if_neg hq]
  · by_cases hq : q = r
    · subst hq; rw [if_neg hr, if_neg hr, if_pos rfl, if_neg hr]; simp
    · have h : r.toNat ≠ q.toNat := fun h => hq (BitVec.eq_of_toNat_eq h.symm)
      rw [if_neg hr, if_neg hq]
      simp only [Vector.getElem_set, h, if_false]

theorem pred_setPred (c : Core) (i q : BitVec 3) (v : Bool) :
    (c.setPred i v).pred q = if q = i then (decide (i = 0) || v) else c.pred q := by
  have key : ∀ (p : BitVec 8) (i q : BitVec 3) (v : Bool), i ≠ 0 →
      (if v then p ||| (1 <<< i.toNat) else p &&& ~~~((1 : BitVec 8) <<< i.toNat)).getLsbD q.toNat =
        if q = i then v else p.getLsbD q.toNat := by decide +kernel
  unfold Core.setPred Core.pred
  by_cases hi : i = 0
  · rw [if_pos hi]; by_cases hq : q = i
    · rw [if_pos hq]; simp [hq, hi]
    · rw [if_neg hq]
  · rw [if_neg hi]
    show (decide (q = 0) || BitVec.getLsbD _ _) = _
    rw [key c.p i q v hi]
    by_cases hq : q = i
    · simp only [hq, if_true]
    · simp only [hq, if_false]

theorem Core.latEl_put (c : Core) (d : Dst × Word) (i : Nat) :
    (c.put d).latEl i = if d.1 = .lat i ∧ i < 256 then d.2 else c.latEl i := by
  unfold Core.put Core.latEl
  split
  · rename_i r h; simp [h]
  · rename_i k h
    by_cases hk : k = i
    · subst hk
      by_cases h2 : k < 256 <;> simp [h, h2, Vector.getD]
    · simp [h, hk, Vector.getD]
/-! ### Results -/

theorem putAll_cons (c : Core) (d : Dst × Word) (l : List (Dst × Word)) : c.putAll (d :: l) = (c.put d).putAll l := rfl

theorem reg_put (c : Core) (d : Dst × Word) (q : Reg) (h : d.1 ≠ .sreg q) : (c.put d).reg q = c.reg q := by
  unfold Core.put
  split
  · rename_i r hr
    rw [reg_setReg, if_neg]
    rintro rfl; exact h hr
  · rfl

theorem reg_putAll (c : Core) (l : List (Dst × Word)) (q : Reg) (h : ∀ d ∈ l, d.1 ≠ .sreg q) :
    (c.putAll l).reg q = c.reg q := by
  induction l generalizing c with
  | nil => rfl
  | cons d l ih =>
    rw [putAll_cons, ih _ fun e he => h e (List.mem_cons_of_mem _ he), reg_put _ _ _ (h d List.mem_cons_self)]

theorem latEl_putAll (c : Core) (l : List (Dst × Word)) (i : Nat) (h : ∀ d ∈ l, d.1 ≠ .lat i) :
    (c.putAll l).latEl i = c.latEl i := by
  induction l generalizing c with
  | nil => rfl
  | cons d l ih =>
    rw [putAll_cons, ih _ fun e he => h e (List.mem_cons_of_mem _ he), Core.latEl_put, if_neg]
    rintro ⟨hd, -⟩; exact h d List.mem_cons_self hd

theorem special_putAll (c : Core) (l : List (Dst × Word)) : (c.putAll l).special = c.special := by
  unfold Core.special; simp

/-- The elements of a list of results, s0 left out. -/
theorem freeWords_fst (n : Nat) (l : List (Dst × Word)) : (freeWords n l).map Prod.fst = l.map Prod.fst := by
  induction l generalizing n with
  | nil => rfl
  | cons d l ih => simp [freeWords, ih]

theorem mem_written {regs : List Reg} {els : List Nat} {d : Dst} :
    d ∈ written regs els ↔ (∃ r ∈ regs, r ≠ 0 ∧ d = .sreg r) ∨ ∃ i ∈ els, d = .lat i := by
  simp only [written, List.mem_append, List.mem_map, List.mem_filter, decide_eq_true_eq]
  constructor
  · rintro (⟨r, ⟨h, h0⟩, rfl⟩ | ⟨i, h, rfl⟩)
    · exact .inl ⟨r, h, h0, rfl⟩
    · exact .inr ⟨i, h, rfl⟩
  · rintro (⟨r, h, h0, rfl⟩ | ⟨i, h, rfl⟩)
    · exact .inl ⟨r, ⟨h, h0⟩, rfl⟩
    · exact .inr ⟨i, h, rfl⟩

/-- Everything a delivery does (R49 to R51): a result of bound 1 stands at once and its flags are merged; otherwise its
elements are undefined and it is on its way. Nothing else changes. -/
theorem deliver_frame (s : State) (bound : Nat) (ws : List (Dst × Word)) (fl : Word) (regs : List Reg) (els : List Nat)
    (h : (ws.filter fun d => decide (d.1 ≠ .sreg 0)).map Prod.fst = written regs els) :
    Frame s (s.deliver bound ws fl) regs els [] [] (if bound ≤ 1 then fl else 0) := by
  have hr : ∀ l : List (Dst × Word), l.map Prod.fst = written regs els → ∀ r, r ∉ regs → ∀ d ∈ l, d.1 ≠ .sreg r := by
    intro l hl r hn d hd he
    have : d.1 ∈ written regs els := hl ▸ List.mem_map_of_mem hd
    rcases mem_written.1 this with ⟨q, hq, -, hdq⟩ | ⟨i, -, hdi⟩
    · rw [hdq] at he; cases he; exact hn hq
    · rw [hdi] at he; cases he
  have hl : ∀ l : List (Dst × Word), l.map Prod.fst = written regs els → ∀ i, i ∉ els → ∀ d ∈ l, d.1 ≠ .lat i := by
    intro l hl i hn d hd he
    have : d.1 ∈ written regs els := hl ▸ List.mem_map_of_mem hd
    rcases mem_written.1 this with ⟨q, -, -, hdq⟩ | ⟨j, hj, hdi⟩
    · rw [hdq] at he; cases he
    · rw [hdi] at he; cases he; exact hn hj
  have hp : ∀ l : List (Dst × Word), l.map Prod.fst = written regs els → ∀ e,
      (l.any fun d => decide (d.1 = .lat e)) = els.contains e := by
    intro l hl e
    rw [Bool.eq_iff_iff]
    simp only [List.any_eq_true, decide_eq_true_eq, List.contains_iff_mem]
    constructor
    · rintro ⟨d, hd, he⟩
      have : d.1 ∈ written regs els := hl ▸ List.mem_map_of_mem hd
      rcases mem_written.1 this with ⟨q, -, -, hdq⟩ | ⟨j, hj, hdi⟩
      · rw [hdq] at he; cases he
      · rw [hdi] at he; cases he; exact hj
    · intro he
      have : Dst.lat e ∈ l.map Prod.fst := hl ▸ mem_written.2 (.inr ⟨e, he, rfl⟩)
      obtain ⟨d, hd, hde⟩ := List.mem_map.1 this
      exact ⟨d, hd, hde⟩
  have h2 := (freeWords_fst s.free (ws.filter fun d => decide (d.1 ≠ .sreg 0))).trans h
  unfold State.deliver
  by_cases hb : bound ≤ 1
  · simp only [hb, if_true, h]
    constructor
    · intro r hn
      simp only [Tile.orFlags_core, Tile.putAll_core]
      exact reg_putAll _ _ _ (hr _ h r hn)
    · intro i hn
      simp only [Tile.orFlags_core, Tile.putAll_core]
      exact latEl_putAll _ _ _ (hl _ h i hn)
    · intro p _; simp [Core.pred]
    · intro q _; simp [Core.port]
    · simp
    · simp only [Tile.orFlags_core, Tile.putAll_core, Core.special]; simp
    · simp
    · simp
    · simp
    · simp [List.take_of_length_le]
    · simp [List.take_of_length_le]
    · simp [List.take_of_length_le]
    · simp only [Tile.orFlags_latBad, Tile.putAll_latBad, Tile.kill_latBad, hp _ h]
    · rfl
    · rfl
    · rfl
  · simp only [hb, if_false, h]
    constructor
    · intro r hn
      simp only [Tile.putAll_core]
      exact reg_putAll _ _ _ (hr _ h2 r hn)
    · intro i hn
      simp only [Tile.putAll_core]
      exact latEl_putAll _ _ _ (hl _ h2 i hn)
    · intro p _; simp [Core.pred]
    · intro q _; simp [Core.port]
    · simp
    · simp only [Tile.putAll_core, Core.special]; simp
    · simp
    · simp
    · simp
    · simp [List.take_left']
    · simp [List.take_of_length_le]
    · simp [List.take_of_length_le]
    · simp only [Tile.putAll_latBad, Tile.kill_latBad, hp _ h2]
    · rfl
    · rfl
    · rfl

/-- The mark of a due checkpoint is no part of a frame. -/
theorem Frame.markDue {s t : State} {regs els preds ports fl} (h : Frame s t regs els preds ports fl) (b : Bool) :
    Frame s (t.markDue b) regs els preds ports fl := by
  cases b
  · exact h
  · exact { h with rest := h.rest }

/-- A scalar result of bound 1 stands at once. -/
theorem deliver_now_reg (s : State) (d : Reg) (v fl : Word) :
    (s.deliver 1 [(.sreg d, v)] fl).tile.core.reg d = valueOf d v := by
  by_cases hd : d = 0
  · subst hd; rfl
  · have h : (Dst.sreg d) ≠ .sreg 0 := fun h => hd (Dst.sreg.inj h)
    simp only [State.deliver, List.filter, h, ne_eq, not_false_eq_true, decide_true, Nat.le_refl, if_true,
      Tile.orFlags_core, Tile.putAll_core]
    show (((s.tile.kill _).core.setReg d v)).reg d = _
    rw [reg_setReg, if_pos rfl]

/-- A result of a later bound is on its way. -/
theorem deliver_later (s : State) (bound : Nat) (hb : 1 < bound) (ws : List (Dst × Word)) (fl : Word) :
    OnItsWay s (s.deliver bound ws fl) ws fl bound := by
  have h : ¬ bound ≤ 1 := by omega
  unfold OnItsWay State.deliver
  simp only [h, if_false]
  simp

/-! ### flushLate -/

theorem doLate_chip (s : State) (x : Late) : (s.doLate x).tile = s.tile ∧ (s.doLate x).others = s.others := by
  cases x <;> exact ⟨rfl, rfl⟩

theorem foldl_doLate_chip (l : List Late) :
    ∀ s : State, (l.foldl State.doLate s).tile = s.tile ∧ (l.foldl State.doLate s).others = s.others := by
  induction l with
  | nil => exact fun _ => ⟨rfl, rfl⟩
  | cons x l ih => exact fun s => ⟨(ih _).1.trans (doLate_chip s x).1, (ih _).2.trans (doLate_chip s x).2⟩

/-- What a bundle does once it has issued touches no tile. -/
@[simp] theorem flushLate_tile (s : State) : s.flushLate.tile = s.tile := (foldl_doLate_chip _ s).1
@[simp] theorem flushLate_others (s : State) : s.flushLate.others = s.others := (foldl_doLate_chip _ s).2

/-- A bundle without `save` and `domw` does nothing more once it has issued. -/
theorem flushLate_nil {s : State} (h : s.iss.late = []) : s.flushLate = s := by
  have e : ({ s.iss with late := [] } : Issue) = s.iss := by rw [← h]
  simp only [State.flushLate, h, List.foldl_nil, e]

/-! ### applied -/

/-- Everything that the vote on an output can do (R393): the output takes effect on a state whose copies agreed or of which one
was outvoted, or the machine is stopped and the output has none. -/
theorem applied_cases (s : State) (v : Voted) (go : State → State) :
    (∃ u, s.vote (s.dev.votedBy v) = (u, true) ∧ s.applied v go = go u) ∨
      ∃ u, s.vote (s.dev.votedBy v) = (u, false) ∧ s.applied v go = u := by
  rcases h : s.vote (s.dev.votedBy v) with ⟨u, _ | _⟩
  · exact .inr ⟨u, rfl, by simp [State.applied, h]⟩
  · exact .inl ⟨u, rfl, by simp [State.applied, h]⟩

/-- Three copies that agree: the output takes effect, counted as a vote. -/
theorem applied_triplex {s : State} {v : Voted} (go : State → State) (hm : (s.dev.votedBy v).state = .triplex)
    (hz : (s.dev.votedBy v).struck = 0) : s.applied v go = go s.counted := by
  simp [State.applied, State.vote, hm, hz]

/-- Two copies that agree while the third comes back: the output takes effect. -/
theorem applied_resync {s : State} {v : Voted} (go : State → State) (hm : (s.dev.votedBy v).state = .resync)
    (hz : (s.dev.votedBy v).struck = 0) : s.applied v go = go s := by
  simp [State.applied, State.vote, hm, hz]

/-- The work of a stopped machine waits. -/
theorem applied_stopped {s : State} {v : Voted} (go : State → State) (hm : (s.dev.votedBy v).state = .stopped) :
    s.applied v go = s := by
  simp [State.applied, State.vote, hm]

end Sys2Proof.Machine
end

