-- ==== Sys2Proof/Laws/PerInstr.lean ====
section
/-! SUPPORT. The per-instruction family Encoding: a well-formed operation is what its own word decodes to, with either chain
bit (R28, R34 to R43, R57). -/

namespace Sys2Proof.Laws.Encoding

/-- Decoding the encoded word of a well-formed operation gives it back; an event or command has no word. -/
def Statement (i : Instr) : Prop :=
  i.wellFormed = true → i.isOperation = true → ∀ c : Bool, decodeWord (encode c i) = .ok i

theorem nop : Statement (.nop) := fun _ _ => decode_of rfl
theorem lpx (n : BitVec 2) : Statement (.lpx n) := fun _ _ => decode_of rfl
theorem br (o : FJ) : Statement (.br o) := fun _ _ => decode_of (ofFJ_raw _ _ _)
theorem brl (o : FJ) : Statement (.brl o) := fun _ _ => decode_of (ofFJ_raw _ _ _)
theorem jr (o : FB) : Statement (.jr o) := fun h _ => decode_of (ofFB_raw _ _ _ h)
theorem loop (o : FL) : Statement (.loop o) := fun _ _ => decode_of (ofFL_raw _ _ _)
theorem halt (o : FG) : Statement (.halt o) := fun _ _ => decode_of (ofFG_raw _ _ _)
theorem trap (o : FB) : Statement (.trap o) := fun h _ => decode_of (ofFB_raw _ _ _ h)
theorem spawn (o : FAB) : Statement (.spawn o) := fun h _ => decode_of (ofFAB_raw _ _ _ h)
theorem trig (o : FG) : Statement (.trig o) := fun _ _ => decode_of (ofFG_raw _ _ _)
theorem ckpt (o : FG) : Statement (.ckpt o) := fun _ _ => decode_of (ofFG_raw _ _ _)
theorem chk (o : FAB) : Statement (.chk o) := fun h _ => decode_of (ofFAB_raw _ _ _ h)
theorem add (o : FS) : Statement (.add o) := fun h _ => decode_of (ofFS_raw _ _ _ h)
theorem sub (o : FS) : Statement (.sub o) := fun h _ => decode_of (ofFS_raw _ _ _ h)
theorem mul (o : FS) : Statement (.mul o) := fun h _ => decode_of (ofFS_raw _ _ _ h)
theorem mulh (o : FS) : Statement (.mulh o) := fun h _ => decode_of (ofFS_raw _ _ _ h)
theorem and (o : FS) : Statement (.and o) := fun h _ => decode_of (ofFS_raw _ _ _ h)
theorem or (o : FS) : Statement (.or o) := fun h _ => decode_of (ofFS_raw _ _ _ h)
theorem xor (o : FS) : Statement (.xor o) := fun h _ => decode_of (ofFS_raw _ _ _ h)
theorem shl (o : FS) : Statement (.shl o) := fun h _ => decode_of (ofFS_raw _ _ _ h)
theorem shr (o : FS) : Statement (.shr o) := fun h _ => decode_of (ofFS_raw _ _ _ h)
theorem sra (o : FS) : Statement (.sra o) := fun h _ => decode_of (ofFS_raw _ _ _ h)
theorem min (o : FS) : Statement (.min o) := fun h _ => decode_of (ofFS_raw _ _ _ h)
theorem max (o : FS) : Statement (.max o) := fun h _ => decode_of (ofFS_raw _ _ _ h)
theorem clz (o : FDA) : Statement (.clz o) := fun _ _ => decode_of (ofFDA_raw _ _ _)
theorem popc (o : FDA) : Statement (.popc o) := fun _ _ => decode_of (ofFDA_raw _ _ _)
theorem bext (o : FS) : Statement (.bext o) := fun h _ => decode_of (ofFS_raw _ _ _ h)
theorem bins (o : FS) : Statement (.bins o) := fun h _ => decode_of (ofFS_raw _ _ _ h)
theorem lea (o : FS) : Statement (.lea o) := fun h _ => decode_of (ofFS_raw _ _ _ h)
theorem mov (o : FDB) : Statement (.mov o) := fun h _ => decode_of (ofFDB_raw _ _ _ h)
theorem add64 (o : FS) : Statement (.add64 o) := fun h _ => decode_of (ofFS_raw _ _ _ h)
theorem rdcr (o : FDB) : Statement (.rdcr o) := fun h _ => decode_of (ofFDB_raw _ _ _ h)
theorem wrcr (o : FAB) : Statement (.wrcr o) := fun h _ => decode_of (ofFAB_raw _ _ _ h)
theorem fadd (o : FS) : Statement (.fadd o) := fun h _ => decode_of (ofFS_raw _ _ _ h)
theorem fmul (o : FS) : Statement (.fmul o) := fun h _ => decode_of (ofFS_raw _ _ _ h)
theorem fmac (o : FS) : Statement (.fmac o) := fun h _ => decode_of (ofFS_raw _ _ _ h)
theorem fmin (o : FS) : Statement (.fmin o) := fun h _ => decode_of (ofFS_raw _ _ _ h)
theorem fmax (o : FS) : Statement (.fmax o) := fun h _ => decode_of (ofFS_raw _ _ _ h)
theorem cmpI32 (o : FC) : Statement (.cmpI32 o) := fun h _ => decode_of (ofFC6_raw _ _ _ h)
theorem cmpN32 (o : FC) : Statement (.cmpN32 o) := fun h _ => decode_of (ofFC6_raw _ _ _ h)
theorem cmpF32 (o : FC) : Statement (.cmpF32 o) := fun h _ => decode_of (ofFC8_raw _ _ _ h)
theorem pand (o : FP) : Statement (.pand o) := fun _ _ => decode_of (ofFP_raw _ _ _)
theorem por (o : FP) : Statement (.por o) := fun _ _ => decode_of (ofFP_raw _ _ _)
theorem pxor (o : FP) : Statement (.pxor o) := fun _ _ => decode_of (ofFP_raw _ _ _)
theorem pnot (o : FN) : Statement (.pnot o) := fun _ _ => decode_of (ofFN_raw _ _ _)
theorem btst (o : FC) : Statement (.btst o) := fun h _ => decode_of (ofFC2_raw _ _ _ h)
theorem cvtF2i (o : FS) : Statement (.cvtF2i o) := fun h _ => decode_of (ofFS_raw _ _ _ h)
theorem cvtI2f (o : FS) : Statement (.cvtI2f o) := fun h _ => decode_of (ofFS_raw _ _ _ h)
theorem cvtF2b (o : FS) : Statement (.cvtF2b o) := fun h _ => decode_of (ofFS_raw _ _ _ h)
theorem vcvt (o : FVK) : Statement (.vcvt o) := fun h _ => decode_of (ofFVKc_raw _ _ _ h)
theorem vpack (o : FV) : Statement (.vpack o) := fun h _ => decode_of (ofFVp_raw _ _ _ h)
theorem vunpk (o : FVI) : Statement (.vunpk o) := fun h _ => decode_of (ofFVIu_raw _ _ _ h)
theorem vqnt (o : FV0) : Statement (.vqnt o) := fun _ _ => decode_of (ofFV0_raw _ _ _)
theorem vdqnt (o : FVI) : Statement (.vdqnt o) := fun h _ => decode_of (ofFVIq_raw _ _ _ h)
theorem vscl (o : FV) : Statement (.vscl o) := fun h _ => decode_of (ofFV_raw _ _ _ h)
theorem vadd (o : FV) : Statement (.vadd o) := fun h _ => decode_of (ofFV_raw _ _ _ h)
theorem vsub (o : FV) : Statement (.vsub o) := fun h _ => decode_of (ofFV_raw _ _ _ h)
theorem vmul (o : FV) : Statement (.vmul o) := fun h _ => decode_of (ofFV_raw _ _ _ h)
theorem vmac (o : FV) : Statement (.vmac o) := fun h _ => decode_of (ofFV_raw _ _ _ h)
theorem vmin (o : FV) : Statement (.vmin o) := fun h _ => decode_of (ofFV_raw _ _ _ h)
theorem vmax (o : FV) : Statement (.vmax o) := fun h _ => decode_of (ofFV_raw _ _ _ h)
theorem vabs (o : FVT) : Statement (.vabs o) := fun h _ => decode_of (ofFVT_raw _ _ _ h)
theorem vexp2 (o : FVA) : Statement (.vexp2 o) := fun _ _ => decode_of (ofFVA_raw _ _ _)
theorem vrcp (o : FVA) : Statement (.vrcp o) := fun _ _ => decode_of (ofFVA_raw _ _ _)
theorem vrsqrt (o : FVA) : Statement (.vrsqrt o) := fun _ _ => decode_of (ofFVA_raw _ _ _)
theorem vclt (o : FV) : Statement (.vclt o) := fun h _ => decode_of (ofFV_raw _ _ _ h)
theorem vceq (o : FV) : Statement (.vceq o) := fun h _ => decode_of (ofFV_raw _ _ _ h)
theorem vsel (o : FV0) : Statement (.vsel o) := fun _ _ => decode_of (ofFV0_raw _ _ _)
theorem viadd (o : FV) : Statement (.viadd o) := fun h _ => decode_of (ofFV_raw _ _ _ h)
theorem visub (o : FV) : Statement (.visub o) := fun h _ => decode_of (ofFV_raw _ _ _ h)
theorem vimul (o : FV) : Statement (.vimul o) := fun h _ => decode_of (ofFV_raw _ _ _ h)
theorem vimac (o : FV) : Statement (.vimac o) := fun h _ => decode_of (ofFV_raw _ _ _ h)
theorem vimin (o : FV) : Statement (.vimin o) := fun h _ => decode_of (ofFV_raw _ _ _ h)
theorem vimax (o : FV) : Statement (.vimax o) := fun h _ => decode_of (ofFV_raw _ _ _ h)
theorem vand (o : FV0) : Statement (.vand o) := fun _ _ => decode_of (ofFV0_raw _ _ _)
theorem vor (o : FV0) : Statement (.vor o) := fun _ _ => decode_of (ofFV0_raw _ _ _)
theorem vxor (o : FV0) : Statement (.vxor o) := fun _ _ => decode_of (ofFV0_raw _ _ _)
theorem vshl (o : FV) : Statement (.vshl o) := fun h _ => decode_of (ofFV_raw _ _ _ h)
theorem vshr (o : FV) : Statement (.vshr o) := fun h _ => decode_of (ofFV_raw _ _ _ h)
theorem vsra (o : FV) : Statement (.vsra o) := fun h _ => decode_of (ofFV_raw _ _ _ h)
theorem vilt (o : FV) : Statement (.vilt o) := fun h _ => decode_of (ofFV_raw _ _ _ h)
theorem vieq (o : FV) : Statement (.vieq o) := fun h _ => decode_of (ofFV_raw _ _ _ h)
theorem vredsum (o : FVA) : Statement (.vredsum o) := fun _ _ => decode_of (ofFVA_raw _ _ _)
theorem vredmax (o : FVA) : Statement (.vredmax o) := fun _ _ => decode_of (ofFVA_raw _ _ _)
theorem vperm (o : FV) : Statement (.vperm o) := fun h _ => decode_of (ofFV_raw _ _ _ h)
theorem vbcst (o : FVB) : Statement (.vbcst o) := fun h _ => decode_of (ofFVB_raw _ _ _ h)
theorem vext (o : FVE) : Statement (.vext o) := fun h _ => decode_of (ofFVE_raw _ _ _ h)
theorem vins (o : FVN) : Statement (.vins o) := fun h _ => decode_of (ofFVN_raw _ _ _ h)
theorem vtopk (o : FVK) : Statement (.vtopk o) := fun h _ => decode_of (ofFVKk_raw _ _ _ h)
theorem vtopkI (o : FVK) : Statement (.vtopkI o) := fun h _ => decode_of (ofFVKk_raw _ _ _ h)
theorem vmov (o : FVA) : Statement (.vmov o) := fun _ _ => decode_of (ofFVA_raw _ _ _)
theorem vscan (o : FVK) : Statement (.vscan o) := fun h _ => decode_of (ofFVKs_raw _ _ _ h)
theorem vcls (o : FVT) : Statement (.vcls o) := fun h _ => decode_of (ofFVT_raw _ _ _ h)
theorem vchk (o : FVC) : Statement (.vchk o) := fun _ _ => decode_of (ofFVC_raw _ _ _)
theorem vsclf (o : FVT) : Statement (.vsclf o) := fun h _ => decode_of (ofFVT_raw _ _ _ h)
theorem vround (o : FVT) : Statement (.vround o) := fun h _ => decode_of (ofFVT_raw _ _ _ h)
theorem ldw (o : FM) : Statement (.ldw o) := fun _ _ => decode_of (ofFM_raw _ _ _)
theorem ldh (o : FM) : Statement (.ldh o) := fun _ _ => decode_of (ofFM_raw _ _ _)
theorem ldb (o : FM) : Statement (.ldb o) := fun _ _ => decode_of (ofFM_raw _ _ _)
theorem stw (o : FM) : Statement (.stw o) := fun _ _ => decode_of (ofFM_raw _ _ _)
theorem sth (o : FM) : Statement (.sth o) := fun _ _ => decode_of (ofFM_raw _ _ _)
theorem stb (o : FM) : Statement (.stb o) := fun _ _ => decode_of (ofFM_raw _ _ _)
theorem vld (o : FMV) : Statement (.vld o) := fun _ _ => decode_of (ofFMV_raw _ _ _)
theorem vst (o : FMV) : Statement (.vst o) := fun _ _ => decode_of (ofFMV_raw _ _ _)
theorem vlds (o : FMV) : Statement (.vlds o) := fun _ _ => decode_of (ofFMV_raw _ _ _)
theorem vsts (o : FMV) : Statement (.vsts o) := fun _ _ => decode_of (ofFMV_raw _ _ _)
theorem pref (o : FMP) : Statement (.pref o) := fun _ _ => decode_of (ofFMP_raw _ _ _)
theorem atomAdd (o : FS) : Statement (.atomAdd o) := fun h _ => decode_of (ofFS_raw _ _ _ h)
theorem atomIncb (o : FS) : Statement (.atomIncb o) := fun h _ => decode_of (ofFS_raw _ _ _ h)
theorem atomCas (o : FS) : Statement (.atomCas o) := fun h _ => decode_of (ofFS_raw _ _ _ h)
theorem stf (o : FS) : Statement (.stf o) := fun h _ => decode_of (ofFS_raw _ _ _ h)
theorem sbind (o : FS) : Statement (.sbind o) := fun h _ => decode_of (ofFS_raw _ _ _ h)
theorem sunbind (o : FD) : Statement (.sunbind o) := fun _ _ => decode_of (ofFD_raw _ _ _)
theorem sdrain (o : FD) : Statement (.sdrain o) := fun _ _ => decode_of (ofFD_raw _ _ _)
theorem sstat (o : FS) : Statement (.sstat o) := fun h _ => decode_of (ofFS_raw _ _ _ h)
theorem cpy (o : FS) : Statement (.cpy o) := fun h _ => decode_of (ofFS_raw _ _ _ h)
theorem cpf (o : FS) : Statement (.cpf o) := fun h _ => decode_of (ofFS_raw _ _ _ h)
theorem cgat (o : FS) : Statement (.cgat o) := fun h _ => decode_of (ofFS_raw _ _ _ h)
theorem cscat (o : FS) : Statement (.cscat o) := fun h _ => decode_of (ofFS_raw _ _ _ h)
theorem cfence (o : FDA) : Statement (.cfence o) := fun _ _ => decode_of (ofFDA_raw _ _ _)
theorem barv (o : FR) : Statement (.barv o) := fun h _ => decode_of (ofFR_raw _ _ _ h)
theorem bartx (o : FRT) : Statement (.bartx o) := fun h _ => decode_of (ofFRT_raw _ _ _ h)
theorem barw (o : FS) : Statement (.barw o) := fun h _ => decode_of (ofFS_raw _ _ _ h)
theorem wge (o : FS) : Statement (.wge o) := fun h _ => decode_of (ofFS_raw _ _ _ h)
theorem cadd (o : FR) : Statement (.cadd o) := fun h _ => decode_of (ofFR_raw _ _ _ h)
theorem phaseRel (o : FRP) : Statement (.phaseRel o) := fun h _ => decode_of (by
  obtain ⟨g, sc⟩ := o
  revert h
  revert sc
  decide +revert)
theorem phaseAcq (o : FG) : Statement (.phaseAcq o) := fun _ _ => decode_of rfl
theorem tcfg (o : FXA) : Statement (.tcfg o) := fun _ _ => decode_of (ofFXA_raw _ _ _)
theorem tld (o : FXY) : Statement (.tld o) := fun h _ => decode_of (ofFXY_raw _ _ _ h)
theorem tldw (o : FXY) : Statement (.tldw o) := fun h _ => decode_of (ofFXY_raw _ _ _ h)
theorem tst (o : FXY) : Statement (.tst o) := fun h _ => decode_of (ofFXY_raw _ _ _ h)
theorem wlat (o : FXW) : Statement (.wlat o) := fun _ _ => decode_of (ofFXW_raw _ _ _)
theorem mmac (o : FX) : Statement (.mmac o) := fun h _ => decode_of (ofFX_raw _ _ _ h)
theorem mmacz (o : FX) : Statement (.mmacz o) := fun h _ => decode_of (ofFX_raw _ _ _ h)
theorem aread (o : FX) : Statement (.aread o) := fun h _ => decode_of (ofFX_raw _ _ _ h)
theorem azero (o : FXZ) : Statement (.azero o) := fun _ _ => decode_of (ofFXZ_raw _ _ _)
theorem arow (o : FX) : Statement (.arow o) := fun h _ => decode_of (ofFX_raw _ _ _ h)
theorem fsig (o : FXX) : Statement (.fsig o) := fun _ _ => decode_of (ofFXX_raw _ _ _)
theorem fgrp (o : FXY) : Statement (.fgrp o) := fun h _ => decode_of (ofFXY_raw _ _ _ h)
theorem frep (o : FXB) : Statement (.frep o) := fun h _ => decode_of (ofFXB_raw _ _ _ h)
theorem fscat (o : FXS) : Statement (.fscat o) := fun h _ => decode_of (ofFXS_raw _ _ _ h)
theorem fsum (o : FXS) : Statement (.fsum o) := fun h _ => decode_of (ofFXS_raw _ _ _ h)
theorem hmk (o : FS) : Statement (.hmk o) := fun h _ => decode_of (ofFS_raw _ _ _ h)
theorem hpost (o : FS) : Statement (.hpost o) := fun h _ => decode_of (ofFS_raw _ _ _ h)
theorem hedit (o : FS) : Statement (.hedit o) := fun h _ => decode_of (ofFS_raw _ _ _ h)
theorem hfrz (o : FS) : Statement (.hfrz o) := fun h _ => decode_of (ofFS_raw _ _ _ h)
theorem hthaw (o : FS) : Statement (.hthaw o) := fun h _ => decode_of (ofFS_raw _ _ _ h)
theorem hfree (o : FDA) : Statement (.hfree o) := fun _ _ => decode_of (ofFDA_raw _ _ _)
theorem hstat (o : FS) : Statement (.hstat o) := fun h _ => decode_of (ofFS_raw _ _ _ h)
theorem xst (o : FXT) : Statement (.xst o) := fun _ _ => decode_of (ofFXT_raw _ _ _)
theorem xadd (o : FS) : Statement (.xadd o) := fun h _ => decode_of (ofFS_raw _ _ _ h)
theorem xincb (o : FS) : Statement (.xincb o) := fun h _ => decode_of (ofFS_raw _ _ _ h)
theorem xcas (o : FS) : Statement (.xcas o) := fun h _ => decode_of (ofFS_raw _ _ _ h)
theorem lwait (o : FDA) : Statement (.lwait o) := fun _ _ => decode_of (ofFDA_raw _ _ _)
theorem lrel (o : FA) : Statement (.lrel o) := fun _ _ => decode_of (ofFA_raw _ _ _)
theorem lhint (o : FAB) : Statement (.lhint o) := fun h _ => decode_of (ofFAB_raw _ _ _ h)
theorem eret (o : FB) : Statement (.eret o) := fun h _ => decode_of (ofFB_raw _ _ _ h)
theorem save (o : FAB) : Statement (.save o) := fun h _ => decode_of (ofFAB_raw _ _ _ h)
theorem rest (o : FAB) : Statement (.rest o) := fun h _ => decode_of (ofFAB_raw _ _ _ h)
theorem sev (o : FAB) : Statement (.sev o) := fun h _ => decode_of (ofFAB_raw _ _ _ h)
theorem domw (o : FS) : Statement (.domw o) := fun h _ => decode_of (ofFS_raw _ _ _ h)
theorem resultLand (i : Nat) : Statement (.resultLand i) := fun _ h => nomatch h
theorem loadReturn (i : Nat) : Statement (.loadReturn i) := fun _ h => nomatch h
theorem notification : Statement (.notification) := fun _ h => nomatch h
theorem checkpoint : Statement (.checkpoint) := fun _ h => nomatch h
theorem recoveryRestore : Statement (.recoveryRestore) := fun _ h => nomatch h
theorem rerunEnd : Statement (.rerunEnd) := fun _ h => nomatch h
theorem taskBind (l : Nat) : Statement (.taskBind l) := fun _ h => nomatch h
theorem launchDependentStart (l : Nat) : Statement (.launchDependentStart l) := fun _ h => nomatch h
theorem jobStart (slot : Nat) : Statement (.jobStart slot) := fun _ h => nomatch h
theorem pageWalkComplete (slot : Nat) : Statement (.pageWalkComplete slot) := fun _ h => nomatch h
theorem jobComplete (slot : Nat) : Statement (.jobComplete slot) := fun _ h => nomatch h
theorem migration (m : MigrateArgs) : Statement (.migration m) := fun _ h => nomatch h
theorem streamFetch (q : Nat) : Statement (.streamFetch q) := fun _ h => nomatch h
theorem streamVectorLand (q : Nat) : Statement (.streamVectorLand q) := fun _ h => nomatch h
theorem streamCompletionArrival (i : Nat) : Statement (.streamCompletionArrival i) := fun _ h => nomatch h
theorem releasePerform (i : Nat) : Statement (.releasePerform i) := fun _ h => nomatch h
theorem stfRelease (i : Nat) : Statement (.stfRelease i) := fun _ h => nomatch h
theorem matrixOpComplete : Statement (.matrixOpComplete) := fun _ h => nomatch h
theorem treeFlitArrival (f : TreeFlit) : Statement (.treeFlitArrival f) := fun _ h => nomatch h
theorem treeRefillComplete (tree node : Nat) : Statement (.treeRefillComplete tree node) := fun _ h => nomatch h
theorem treeDelivery (tree seg member : Nat) : Statement (.treeDelivery tree seg member) := fun _ h => nomatch h
theorem treeFreezeComplete (tree : Nat) : Statement (.treeFreezeComplete tree) := fun _ h => nomatch h
theorem rotorSlotStart : Statement (.rotorSlotStart) := fun _ h => nomatch h
theorem flitReceive (f : Flit) : Statement (.flitReceive f) := fun _ h => nomatch h
theorem ackReceive (dev num : Nat) : Statement (.ackReceive dev num) := fun _ h => nomatch h
theorem ackTimer (dev : Nat) : Statement (.ackTimer dev) := fun _ h => nomatch h
theorem replayTimeout (dev : Nat) : Statement (.replayTimeout dev) := fun _ h => nomatch h
theorem pairUnreachable (dev : Nat) : Statement (.pairUnreachable dev) := fun _ h => nomatch h
theorem laserPowerLow (port input : Nat) : Statement (.laserPowerLow port input) := fun _ h => nomatch h
theorem laserPowerHigh (port input : Nat) : Statement (.laserPowerHigh port input) := fun _ h => nomatch h
theorem laserInputLost (port input : Nat) : Statement (.laserInputLost port input) := fun _ h => nomatch h
theorem laserInputRestored (port input : Nat) : Statement (.laserInputRestored port input) := fun _ h => nomatch h
theorem layerLoadStart : Statement (.layerLoadStart) := fun _ h => nomatch h
theorem layerLoadComplete (obj layer : Nat) : Statement (.layerLoadComplete obj layer) := fun _ h => nomatch h
theorem layerLoadFail (obj layer cause : Nat) : Statement (.layerLoadFail obj layer cause) := fun _ h => nomatch h
theorem lwaitTimeout : Statement (.lwaitTimeout) := fun _ h => nomatch h
theorem resyncComplete (m : Nat) : Statement (.resyncComplete m) := fun _ h => nomatch h
theorem budgetWindow (r : Nat) : Statement (.budgetWindow r) := fun _ h => nomatch h
theorem commandFetch (q : Nat) : Statement (.commandFetch q) := fun _ h => nomatch h
theorem launch (q sq : Nat) : Statement (.launch q sq) := fun _ h => nomatch h
theorem copy (q sq : Nat) : Statement (.copy q sq) := fun _ h => nomatch h
theorem signal (q sq : Nat) : Statement (.signal q sq) := fun _ h => nomatch h
theorem wait (q sq : Nat) : Statement (.wait q sq) := fun _ h => nomatch h
theorem waitSatisfied (q sq : Nat) : Statement (.waitSatisfied q sq) := fun _ h => nomatch h
theorem treeMake (q sq : Nat) : Statement (.treeMake q sq) := fun _ h => nomatch h
theorem treeEdit (q sq : Nat) : Statement (.treeEdit q sq) := fun _ h => nomatch h
theorem treeFree (q sq : Nat) : Statement (.treeFree q sq) := fun _ h => nomatch h
theorem power (q sq : Nat) : Statement (.power q sq) := fun _ h => nomatch h
theorem fence (q sq : Nat) : Statement (.fence q sq) := fun _ h => nomatch h
theorem ctxCreate (q sq : Nat) : Statement (.ctxCreate q sq) := fun _ h => nomatch h
theorem ctxDestroy (q sq : Nat) : Statement (.ctxDestroy q sq) := fun _ h => nomatch h
theorem ctxPreempt (q sq : Nat) : Statement (.ctxPreempt q sq) := fun _ h => nomatch h
theorem ctxRestore (q sq : Nat) : Statement (.ctxRestore q sq) := fun _ h => nomatch h
theorem ctxQueue (q sq : Nat) : Statement (.ctxQueue q sq) := fun _ h => nomatch h
theorem ctxResumeq (q sq : Nat) : Statement (.ctxResumeq q sq) := fun _ h => nomatch h
theorem ctxGrant (q sq : Nat) : Statement (.ctxGrant q sq) := fun _ h => nomatch h
theorem ctxHandler (q sq : Nat) : Statement (.ctxHandler q sq) := fun _ h => nomatch h
theorem ctxObject (q sq : Nat) : Statement (.ctxObject q sq) := fun _ h => nomatch h
theorem ctxObjreset (q sq : Nat) : Statement (.ctxObjreset q sq) := fun _ h => nomatch h
theorem ctxBudget (q sq : Nat) : Statement (.ctxBudget q sq) := fun _ h => nomatch h
theorem ctxInval (q sq : Nat) : Statement (.ctxInval q sq) := fun _ h => nomatch h
theorem ctxFault (q sq : Nat) : Statement (.ctxFault q sq) := fun _ h => nomatch h
theorem ctxEvring (q sq : Nat) : Statement (.ctxEvring q sq) := fun _ h => nomatch h
theorem drainTimeout (ctx : Nat) : Statement (.drainTimeout ctx) := fun _ h => nomatch h
theorem saveComplete (ctx : Nat) : Statement (.saveComplete ctx) := fun _ h => nomatch h
theorem saveTimeout (ctx : Nat) : Statement (.saveTimeout ctx) := fun _ h => nomatch h
theorem contextQuiesced (ctx : Nat) : Statement (.contextQuiesced ctx) := fun _ h => nomatch h
theorem powerOn : Statement (.powerOn) := fun _ h => nomatch h
theorem bringupStageDone (ok : Bool) : Statement (.bringupStageDone ok) := fun _ h => nomatch h
theorem hctlGo : Statement (.hctlGo) := fun _ h => nomatch h
theorem hctlHrst : Statement (.hctlHrst) := fun _ h => nomatch h
theorem mrst (m : Nat) : Statement (.mrst m) := fun _ h => nomatch h
theorem evhead (v : Nat) : Statement (.evhead v) := fun _ h => nomatch h
theorem dbell (q tail : Nat) : Statement (.dbell q tail) := fun _ h => nomatch h
theorem hostRegisterWrite (off v : Nat) (wide : Bool) : Statement (.hostRegisterWrite off v wide) := fun _ h => nomatch h
theorem cxlMemRead (near : Bool) (addr len : Nat) : Statement (.cxlMemRead near addr len) := fun _ h => nomatch h
theorem cxlMemWrite (near : Bool) (addr : Nat) (bytes : List Byte) : Statement (.cxlMemWrite near addr bytes) := fun _ h => nomatch h
theorem ucieModuleLoss (m : Nat) : Statement (.ucieModuleLoss m) := fun _ h => nomatch h
theorem frameReceive (f : Frame) : Statement (.frameReceive f) := fun _ h => nomatch h
theorem thermalTrip (sensor temp : Nat) : Statement (.thermalTrip sensor temp) := fun _ h => nomatch h
theorem thermalClear : Statement (.thermalClear) := fun _ h => nomatch h
theorem postSourceRead (slot : Nat) : Statement (.postSourceRead slot) := fun _ h => nomatch h
theorem treeThawComplete (tree : Nat) : Statement (.treeThawComplete tree) := fun _ h => nomatch h
theorem operatingPointInForce : Statement (.operatingPointInForce) := fun _ h => nomatch h

end Sys2Proof.Laws.Encoding
end

