-- ==== Sys2Proof/Tests/Slice0.lean ====
section
/-! SUPPORT. Tests of the model: ill-formed terms refused, words written out from the encodings, single steps with results
taken from the spec's tables and worked examples, and for every statement a state that meets its hypotheses. -/

namespace Sys2Proof.Tests

open Sys2Proof.Machine Sys2Proof.Claims
set_option Elab.async false

/-! ### Well-formedness: an ill-formed term for each check -/

/-- R35: a pool index of 12 or more, in each kind of B operand. -/
theorem test_illformed_pool :
    ∀ i ∈ [Instr.add ⟨0, 1, 2, .pool 12⟩, .jr ⟨0, .pool 63⟩, .mov ⟨0, 1, .pool 15⟩, .wrcr ⟨0, 1, .pool 12⟩,
      .cmpF32 ⟨0, 0, 1, 2, .pool 12⟩, .barv ⟨0, 2, 1, .pool 12⟩, .bartx ⟨0, false, 2, 1, .pool 12⟩, .tld ⟨0, 1, 2, .pool 12⟩,
      .fgrp ⟨0, 1, 2, .pool 12⟩, .frep ⟨0, 1, 2, .pool 12⟩, .fscat ⟨0, 1, 2, .pool 12⟩], i.wellFormed = false := by
  decide

/-- R39, R109, R112: conditions that an integer compare and `btst` do not accept. -/
theorem test_illformed_condition :
    ∀ i ∈ [Instr.cmpI32 ⟨0, 6, 1, 2, .reg 3⟩, .cmpN32 ⟨0, 7, 1, 2, .reg 3⟩, .btst ⟨0, 2, 1, 2, .reg 3⟩], i.wellFormed = false := by
  decide

/-- R87: reserved conversion codes. -/
theorem test_illformed_conversion :
    ∀ k ∈ [0x0A, 0x0F, 0x3C, 0x3F], (Instr.vcvt ⟨0, .row 1, .row 2, k⟩).wellFormed = false := by decide

/-- R89, R91, R167: widths and parts of the element moves. -/
theorem test_illformed_parts :
    ∀ i ∈ [Instr.vpack ⟨0, .row 1, .row 2, .row 3, 0⟩, .vunpk ⟨0, .row 1, .row 2, 2, 1⟩, .vunpk ⟨0, .row 1, .row 2, 0, 3⟩,
      .vdqnt ⟨0, .row 1, .row 2, 2, 0⟩, .vdqnt ⟨0, .row 1, .row 2, 1, 1⟩, .vext ⟨0, 1, .row 2, 16, 0⟩,
      .vins ⟨0, .row 2, 1, 32, 1⟩, .vext ⟨0, 1, .row 2, 0, 3⟩], i.wellFormed = false := by decide

/-- R38: T = 11, one instruction of each group that checks it. -/
theorem test_illformed_type :
    ∀ i ∈ [Instr.vadd ⟨0, .row 1, .row 2, .row 3, 3⟩, .vabs ⟨0, .row 1, .row 2, 3⟩, .vscl ⟨0, .row 1, .row 2, .row 3, 3⟩,
      .vshl ⟨0, .row 1, .row 2, .row 3, 3⟩, .vperm ⟨0, .row 1, .row 2, .row 3, 3⟩, .vbcst ⟨0, .row 1, 2, 3⟩,
      .vround ⟨0, .row 1, .row 2, 3⟩], i.wellFormed = false := by decide

/-- R165, R170: modes of `vscan` and counts of `vtopk`. -/
theorem test_illformed_count :
    ∀ i ∈ [Instr.vtopk ⟨0, .row 1, .row 2, 0⟩, .vtopkI ⟨0, .row 1, .row 2, 17⟩, .vscan ⟨0, .row 1, .row 2, 4⟩],
      i.wellFormed = false := by decide

/-- R253: a scope of 5 or more. -/
theorem test_illformed_scope :
    ∀ i ∈ [Instr.barv ⟨0, 5, 1, .reg 2⟩, .bartx ⟨0, true, 6, 1, .reg 2⟩, .cadd ⟨0, 7, 1, .reg 2⟩, .phaseRel ⟨0, 5⟩],
      i.wellFormed = false := by decide

/-! ### Decoding: words written out from the encodings of each family -/

/-- What a word decodes to. -/
def reads (w : Word) : Option Instr := (decodeWord w).toOption

/-- R32, R129: framing and control, c OP G then the fields of F-S, F-J and F-L. -/
theorem test_decode_control :
    reads 0b0_00000001_000_000000_000000_000010_00 = none ∧
    reads 0b0_00000010_001_11111111111111111110 = some (.br ⟨1, -2⟩) ∧
    reads 0b0_00000100_000_000000_000000_111111_00 = some (.jr ⟨0, .reg 63⟩) ∧
    reads 0b0_00000111_010_000000_000000_100001_10 = some (.trap ⟨2, .imm 33⟩) := by decide

/-- R98, R100, R103, R113: the scalar pipes. -/
theorem test_decode_scalar :
    reads 0b0_00010111_000_000001_000010_000011_00 = some (.shl ⟨0, 1, 2, .reg 3⟩) ∧
    reads 0b0_00011100_000_000101_000110_000000_00 = some (.clz ⟨0, 5, 6⟩) ∧
    reads 0b0_00100001_000_000101_000000_001011_01 = some (.mov ⟨0, 5, .pool 11⟩) ∧
    reads 0b0_00100011_011_000101_000000_000100_10 = some (.rdcr ⟨3, 5, .imm 4⟩) := by decide

/-- R108, R111: compare-class words; a `cmp.i32` with condition 110 is none. -/
theorem test_decode_compare :
    reads 0b0_00110000_000_110_011_000100_001010_10 = none ∧
    reads 0b0_00110011_000_011_001_000010_000011_00 = some (.pand ⟨0, 3, 1, 2, 3⟩) ∧
    reads 0b0_00110110_000_000_001_000010_000000_00 = some (.pnot ⟨0, 1, 2⟩) := by decide

/-- R92, R152, R167: vector words. -/
theorem test_decode_vector :
    reads 0x1D80810C = some (.vcvt ⟨0, .row 2, .row 1, 3⟩) ∧ reads 0x3001431C = some (.vext ⟨0, 5, .row 3, 7, 0⟩) ∧
    reads 0xB1010208 = some (.vtopk ⟨0, .row 4, .row 2, 2⟩) := by decide

/-- R183, R191: the memory slot. -/
theorem test_decode_memory :
    reads 0xB8024602 = some (.ldw ⟨0, 9, 6, 2⟩) ∧ reads 0x3C00C400 = some (.vlds ⟨0, .row 3, 4, 0⟩) ∧
    reads 0x3E02440E = some (.atomIncb ⟨0, 9, 4, .imm 3⟩) := by decide

/-- R226, R252: copy and synchronisation; `xst` takes a register alone (R350). -/
theorem test_decode_engines :
    reads 0x44050414 = some (.cpy ⟨0, 20, 4, .reg 5⟩) ∧ reads 0x48008406 = some (.barv ⟨0, 2, 4, .imm 1⟩) ∧
    reads 0x58028420 = some (.xst ⟨0, 10, 4, 8⟩) ∧ reads 0x58028421 = none ∧ reads 0x5C01C500 = some (.lwait ⟨0, 7, 5⟩) := by
  decide

/-- R275, R296: the X pipe. -/
theorem test_decode_matrix :
    reads 0x4F000002 = some (.mmacz ⟨0, 0, 0, 0, .imm 0⟩) ∧ reads 0x5180CE0E = some (.fgrp ⟨0, 3, 14, .imm 3⟩) ∧
    reads 0x52800022 = some (.fscat ⟨0, 0, 0, .imm 8⟩) := by decide

/-- R317, R387: Hydin and the system instructions. -/
theorem test_decode_system :
    reads 0x54828310 = some (.hpost ⟨0, 10, 3, .reg 4⟩) ∧ reads 0x60000006 = some (.eret ⟨0, .imm 1⟩) ∧
    reads 0x62024428 = some (.domw ⟨0, 9, 4, .reg 10⟩) := by decide

end Sys2Proof.Tests


/-! ### States for the tests -/

namespace Sys2Proof.Tests

open Sys2Proof.Machine Sys2Proof.Claims
set_option Elab.async false

/-- Tile 0 of context 1, running a task with every feature, two tiles in the context. -/
def tile0 : Tile :=
  { Tile.reset 0 with
    stat := .running
    ctx := 1
    ntile := 2
    task := { Task.none with feat := 0x7F, imgSize := 2 }
    ckFresh := true }

/-- Its idle sibling, logical tile 1. -/
def tile1 : Tile := { Tile.reset 1 with stat := .idle, ctx := 1, ltile := 1, ntile := 2 }

/-- A tile that issues the bundle at packet 4, with its sibling beside it. -/
def issuing (t : Tile) : State :=
  { State.reset with tile := t, src := t, others := [tile1], iss := { Issue.none with pc := 4 } }

/-- The same with some scalar registers set. -/
def regs (l : List (Reg × Word)) : State :=
  issuing { tile0 with core := l.foldl (fun c x => c.setReg x.1 x.2) tile0.core }

/-- The same with the lanes of lattice rows set. -/
def rows (l : List (Nat × List Word)) : State :=
  issuing { tile0 with core := { tile0.core with
    lat := Vector.ofFn fun i => ((l.find? fun x => x.1 == i.val / 16).bind fun x => x.2[i.val % 16]?).getD 0 } }

/-- What an outcome's next state shows. -/
def shows {α : Type} (f : State → α) : Host.Outcome State Fault Refusal → Option α
  | .next t => some (f t)
  | .fault _ => none
  | .refused _ => none

/-- A register after. -/
def reg (r : Reg) (o : Host.Outcome State Fault Refusal) : Option Word := shows (·.tile.core.reg r) o

/-- The values and flags of the newest result on its way, with its bound. -/
def onItsWay (o : Host.Outcome State Fault Refusal) : Option (List Word × Word × Nat) :=
  (shows (fun t => t.tile.pend.getLast?.map fun p => (p.dsts.map Prod.snd, p.flags, p.due)) o).join

/-- A trap's cause and einfo. -/
def trapped (o : Host.Outcome State Fault Refusal) : Option (Word × Word) :=
  shows (fun t => (t.tile.core.ecause &&& 63, t.tile.core.einfo)) o

/-! ### Scalar instructions -/

theorem test_add_wraps : reg 4 (exec (.add ⟨0, 4, 5, .imm 1⟩) (regs [(5, 0xFFFFFFFF)])) = some 0 := by decide +kernel
theorem test_sub_order : reg 4 (exec (.sub ⟨0, 4, 5, .reg 6⟩) (regs [(5, 3), (6, 5)])) = some 0xFFFFFFFE := by decide +kernel
theorem test_write_s0 : reg 0 (exec (.add ⟨0, 0, 5, .imm 1⟩) (regs [(5, 1)])) = some 0 := by decide +kernel
theorem test_min_signed : reg 4 (exec (.min ⟨0, 4, 5, .imm 1⟩) (regs [(5, 0xFFFFFFFF)])) = some 0xFFFFFFFF := by decide +kernel

/-- R100: a shift by 32 or more. -/
theorem test_shifts :
    reg 4 (exec (.shl ⟨0, 4, 5, .reg 6⟩) (regs [(5, 1), (6, 32)])) = some 0 ∧
    reg 4 (exec (.sra ⟨0, 4, 5, .reg 6⟩) (regs [(5, 0x80000000), (6, 63)])) = some 0xFFFFFFFF := by decide +kernel

/-- R101: the high half is that of the signed product. -/
theorem test_mulh : onItsWay (exec (.mulh ⟨0, 4, 5, .reg 6⟩) (regs [(5, 0xFFFFFFFF), (6, 2)])) = some ([0xFFFFFFFF], 0, 3) := by
  decide +kernel

theorem test_clz : reg 4 (exec (.clz ⟨0, 4, 5⟩) (regs [(5, 0)])) = some 32 := by decide +kernel

/-- R103: a field of 4 bits from bit 4, sign-extended. -/
theorem test_bext : reg 4 (exec (.bext ⟨0, 4, 5, .reg 6⟩) (regs [(5, 0x80), (6, 0x884)])) = some 0xFFFFFFF8 := by decide +kernel

/-- R105: the carry enters the high half; an odd pair traps. -/
theorem test_add64 :
    reg 9 (exec (.add64 ⟨0, 8, 4, .imm 1⟩) (regs [(4, 0xFFFFFFFF), (5, 7)])) = some 8 ∧
    trapped (exec (.add64 ⟨0, 9, 4, .imm 1⟩) (issuing { tile0 with tvec := 0 })) = some (3, 0) := by decide +kernel

/-- R110: −0 equals +0, and a quiet NaN makes `lt` false with NV and NF. -/
theorem test_cmp_f32 :
    shows (fun t => (t.tile.core.pred 3, t.tile.core.flags)) (exec (.cmpF32 ⟨0, 0, 3, 5, .reg 6⟩) (regs [(5, 0x80000000)])) =
      some (true, 0) ∧
    shows (fun t => (t.tile.core.pred 3, t.tile.core.flags)) (exec (.cmpF32 ⟨0, 2, 3, 5, .reg 6⟩) (regs [(5, 0x7FC00000)])) =
      some (false, 48) := by decide +kernel

/-- R111: NR of a conjunction. -/
theorem test_pand : shows (·.tile.core.pred 1) (exec (.pand ⟨0, 4, 1, 0, 0⟩) (regs [])) = some false := by decide +kernel

/-- R106: 1 + 2 = 3, and an overflow that sets OF, NX and NF. -/
theorem test_fadd : onItsWay (exec (.fadd ⟨0, 4, 5, .reg 6⟩) (regs [(5, 0x3F800000), (6, 0x40000000)])) =
    some ([0x40400000], 0, 4) := by decide +kernel
theorem test_fmul : onItsWay (exec (.fmul ⟨0, 4, 5, .reg 6⟩) (regs [(5, 0x7F000000), (6, 0x7F000000)])) =
    some ([0x7F800000], 37, 4) := by decide +kernel

end Sys2Proof.Tests


/-! ### Worked examples of the spec -/

namespace Sys2Proof.Tests

open Sys2Proof.Machine Sys2Proof.Claims
set_option Elab.async false

/-- R88: the table of conversions from f32 to e4m3: 1.0, 0.3, 460, 500, 2^−10 and −∞, without and with saturation. -/
theorem test_vcvt_e4m3 :
    let x := rows [(1, [0x3F800000, 0x3E99999A, 0x43E60000, 0x43FA0000, 0x3A800000, 0xFF800000])]
    (onItsWay (exec (.vcvt ⟨0, .row 2, .row 1, 2⟩) x)).map (fun r => (r.1.take 6, r.2)) =
      some ([0x38, 0x2A, 0x7E, 0x7F, 0x00, 0x7F], 39, 4) ∧
    (onItsWay (exec (.vcvt ⟨0, .row 2, .row 1, 3⟩) x)).map (fun r => r.1.take 6) =
      some [0x38, 0x2A, 0x7E, 0x7E, 0x00, 0xFE] := by decide +kernel

/-- R159: a sum that saturates, with SAT. -/
theorem test_viadd_saturates : (onItsWay (exec (.viadd ⟨0, .row 3, .row 1, .row 2, 0⟩)
    (rows [(1, [0x7FFFFFFF]), (2, [1])]))).map (fun x => (x.1.head?, x.2)) = some (some 0x7FFFFFFF, 64, 2) := by decide +kernel

/-- R89: parts and halves of the packed form. -/
theorem test_vpack :
    (onItsWay (exec (.vpack ⟨0, .row 3, .row 1, .row 2, 1⟩) (rows [(1, [0x10001, 2]), (2, [3, 4])]))).map
      (fun r => (r.1[0]?, r.1[8]?)) = some (some 0x00020001, some 0x00040003) := by decide +kernel

/-- R163, R165: 2^24 + 1 + 1 + 1 by halves and in order. -/
theorem test_reductions :
    let x := rows [(0, [0x4B800000, 0x3F800000, 0x3F800000, 0x3F800000])]
    (onItsWay (exec (.vredsum ⟨0, .row 1, .row 0⟩) x)).map (fun r => (r.1[15]?, r.2)) = some (some 0x4B800001, 1, 8) ∧
    (onItsWay (exec (.vscan ⟨0, .row 2, .row 0, 2⟩) x)).map (fun r => (r.1[15]?, r.2)) = some (some 0x4B800000, 1, 6) := by
  decide +kernel

/-- R169, R170: the ranking of the eight block scores. -/
theorem test_vtopk :
    let x := rows [(2, [0x3F000000, 0x40000000, 0xBF800000, 0x40000000, 0x3E800000, 0x3FC00000, 0x7FC00000, 0x40000000] ++
      List.replicate 8 0xFF800000)]
    (onItsWay (exec (.vtopk ⟨0, .row 4, .row 2, 2⟩) x)).map (fun r => (r.1.take 3, r.2)) =
      some ([0x40000000, 0x40000000, 0xFF800000], 32, 6) ∧
    (onItsWay (exec (.vtopkI ⟨0, .row 5, .row 2, 16⟩) x)).map (fun r => r.1) =
      some [1, 3, 7, 5, 0, 4, 2, 8, 9, 10, 11, 12, 13, 14, 15, 6] := by decide +kernel

/-- R49: a row and a column that share element (3, 5): the earlier result no longer names it. -/
theorem test_shared_element :
    shows (fun t => t.tile.pend.map fun p => (p.dsts.length, p.dsts.map Prod.fst |>.contains (.lat 53)))
      (match exec (.vadd ⟨0, .row 3, .row 0, .row 1, 0⟩) (regs []) with
        | .next t => exec (.vmul ⟨0, .col 5, .row 2, .row 4, 0⟩) t
        | o => o) = some [(15, false), (16, true)] := by decide +kernel

/-- R386's run: the misaligned `stw` leaves cr.ecause 0x4 and cr.einfo 0x106, and cr.epc at its bundle. -/
theorem test_misaligned_store :
    shows (fun t => (t.tile.core.ecause, t.tile.core.einfo, t.tile.core.epc, t.tile.core.sup))
      (exec (.stw ⟨0, 4, 5, 0⟩) (issuing { tile0 with tvec := 0, core := tile0.core.setReg 5 0x106 })) =
      some (4, 0x106, 4, true) := by decide +kernel

/-- R191: `atom.incb` with bound 3 on the words 2 and 3 of the table. -/
theorem test_atomics : (AtomOp.apply .incb 2 3 0, AtomOp.apply .incb 3 3 0, AtomOp.apply .cas 5 9 5) = ((3 : Word), 3, 9) := by
  decide

/-- R239: the leaf 0x2468A0F033 has its page at 0x1234500000. -/
theorem test_leaf :
    decodePte 0 0x0123458 0 0x2468A0F033 = .leaf
      { pasid := 0, va := 0x120000, t := 4, base := 0x1234500000, cls := 0, dev := 0, rd := true, w := true, cnt := false } := by
  decide

/-- Near store 0x80000000 to 0x80010000 granted to context 1. -/
def granted (near : Mem) (s : State) : State :=
  { s with dev := { s.dev with
    near := near
    ctxs := [{
      num := 1, pasid := 1, ptroot := 0, savePasid := 0, saveVa := 0, saveSz := 0, cls := 0, ntile := 2,
      grants := Vector.ofFn fun i => if i.val = 0 then ⟨0x80000000, 0x10000, 3⟩ else ⟨0, 0, 0⟩,
      alloc := Vector.replicate 4 (0, 0), hBase := 0, hSize := 0, tvec := 0xFFFFF, state := .run, rung := 0, t1 := 0, t2 := 0,
      endCause := 0, waiters := [], saveSeed := 0, savePages := [], saved := [], savedRibs := [], savedNear := Mem.empty, answers := [],
      flits := [], doom := none }] } }

/-- R250: the transaction that lands first: −4,096 bytes, then one arrival with +4,096. -/
theorem test_barrier_step :
    let s := granted (Mem.empty.writeNat 0x80000400 4 0x00010001) (regs [])
    let u := s.barStep 1 0 0x80000400 0 (-4096) 0
    let v := u.barStep 1 0 0x80000400 1 4096 0
    ((List.range 4).map fun k => u.dev.near.word (0x80000400 + 4 * k)) = [0x00010001, 0xFFFFF000, 0, 0] ∧
    ((List.range 4).map fun k => v.dev.near.word (0x80000400 + 4 * k)) = [0x00010001, 0, 1, 1] := by decide +kernel

/-- A tile whose code store holds one operation word at packet 0. -/
def coded (w : Word) (s : State) : State :=
  let t := { s.tile with core := { s.tile.core with pc := 0 } }
  { s with tile := t, dev := { s.dev with code := Mem.empty.writeNat (codeStore 0) 4 w.toNat } }

/-- A step runs the bundle at the program counter and goes past it (R44, R137). -/
theorem test_step_add :
    shows (fun t => (t.tile.core.reg 4, t.tile.core.pc, t.tile.cyc)) (step (coded 0x08010401 (regs [(4, 7)]))) =
      some (7, 1, 1) := by decide +kernel

/-- The first instruction after reset runs. -/
theorem test_first_instruction :
    shows (fun t => t.tile.core.reg 4) (step (State.reset.withFetchWord 32 0x10810016)) = some 5 := by decide +kernel

end Sys2Proof.Tests


/-! ### States that meet the hypotheses of the statements -/

namespace Sys2Proof.Tests

open Sys2Proof.Machine Sys2Proof.Claims
set_option Elab.async false

/-- What shows something is a next state that has it. -/
theorem next_of_shows {α : Type} {f : State → α} {o : Host.Outcome State Fault Refusal} {v : α} (h : shows f o = some v) :
    ∃ t, o = .next t ∧ f t = v := by
  cases o with
  | next t => exact ⟨t, rfl, by simpa [shows] using h⟩
  | fault _ => cases h
  | refused _ => cases h

theorem witness_DecodeEncode : (Instr.vcvt ⟨7, .port 11, .diag 15, 0x3B⟩).wellFormed = true ∧
    (Instr.vcvt ⟨7, .port 11, .diag 15, 0x3B⟩).isOperation = true := by decide

theorem witness_EncodeDecode : decodeWord 0x88010401 = .ok (.add ⟨0, 4, 4, .pool 0⟩) := rfl

theorem witness_NoInstructionTraps :
    (decodeWord 0x08010431).toOption = none ∧ opcodeAssigned ((0x7F800000 : Word).extractLsb' 23 8) = false := by decide

/-- Two operations in one bundle: `add s4, s4, L0` and `sub s5, s4, L0`, with a pool word. -/
def twoWords : State :=
  let s := regs [(4, 7)]
  { s with
    tile := { s.tile with core := { s.tile.core with pc := 0 } }
    dev := { s.dev with code := ((Mem.empty.writeNat 0 4 0x88010401).writeNat 4 4 0x08814401).writeNat 8 4 3 } }

theorem witness_StepRunsDecodedInstruction :
    NextIsBundle (coded 0x08010401 (regs [(4, 7)])) ∧
    (coded 0x08010401 (regs [(4, 7)])).fetchAt (coded 0x08010401 (regs [(4, 7)])).tile 0 = .bundle ⟨[0x08010401], [0, 0], 1⟩ ∧
    decodeWord 0x08010401 = .ok (.add ⟨0, 4, 4, .pool 0⟩) := by
  refine ⟨?_, by decide +kernel, rfl⟩
  constructor <;> decide +kernel

theorem witness_StepRunsWholeBundle :
    NextIsBundle twoWords ∧ twoWords.fetchAt twoWords.tile 0 = .bundle ⟨[0x88010401, 0x08814401], [3], 1⟩ ∧
    (∀ x ∈ Bundle.words ⟨[0x88010401, 0x08814401], [3], 1⟩,
      ∃ u, (twoWords.prepare ⟨[0x88010401, 0x08814401], [3], 1⟩).execWord x.2 x.1 = .next u ∧ u.iss.status = .ok) ∧
    ∃ t, runWords (Bundle.words ⟨[0x88010401, 0x08814401], [3], 1⟩)
      (twoWords.prepare ⟨[0x88010401, 0x08814401], [3], 1⟩) = .next t ∧ t.tile.overflows = false := by
  refine ⟨by constructor <;> decide +kernel, by decide +kernel, fun x hx => ?_,
    next_of_shows (f := (·.tile.overflows)) (by decide +kernel)⟩
  have h : ∀ x ∈ Bundle.words ⟨[0x88010401, 0x08814401], [3], 1⟩,
      shows (·.iss.status) ((twoWords.prepare ⟨[0x88010401, 0x08814401], [3], 1⟩).execWord x.2 x.1) = some .ok := by
    decide +kernel
  exact next_of_shows (h x hx)

/-- R49, R48: the second word reads s4 as it was. -/
theorem test_bundle_sources :
    shows (fun t => (t.tile.core.reg 4, t.tile.core.reg 5, t.tile.core.pc)) (step twoWords) = some (10, 4, 1) := by
  decide +kernel

theorem witness_StepTakesInput :
    ({ regs [] with sched := [.focus 1, .event .nop] } : State).sched = .focus 1 :: [.event .nop] := rfl

theorem witness_StepKeepsMemWf : (coded 0x08010401 (regs [])).memWf = true ∧
    ∃ t, step (coded 0x08010401 (regs [])) = .next t ∧ t.tile.core.reg 4 = 0 :=
  ⟨by decide +kernel, next_of_shows (f := (·.tile.core.reg 4)) (by decide +kernel)⟩

/-! #### Scalar -/

theorem witness_IntegerResult :
    twoSource (.add ⟨0, 0, 5, .imm 3⟩) ((regs [(5, 7)]).rd 5) ((regs [(5, 7)]).bval (.imm 3)) = some (⟨0, 0, 5, .imm 3⟩, 10) ∧
    shift (.sra ⟨0, 4, 5, .reg 6⟩) ((regs [(5, 8), (6, 64)]).rd 5) ((regs [(5, 8), (6, 64)]).bval (.reg 6)) =
      some (⟨0, 4, 5, .reg 6⟩, 8) ∧
    FsReady (regs [(5, 7)]) ⟨0, 0, 5, .imm 3⟩ ∧ FsReady (regs [(5, 8), (6, 64)]) ⟨0, 4, 5, .reg 6⟩ := by
  unfold FsReady Ready; decide +kernel

theorem witness_FieldAndMoveResult :
    fieldAddr (.bext ⟨0, 4, 5, .imm 0⟩) ((regs []).rd 5) ((regs []).bval (.imm 0)) = some (⟨0, 4, 5, .imm 0⟩, 0) ∧
    oneSource (.clz ⟨0, 4, 5⟩) ((regs []).rd 5) = some (⟨0, 4, 5⟩, 32) ∧
    Ready (regs []) 0 ((regs []).src.regOk 4 && (regs []).src.regOk 5) (usesRegs [5] [4]) ∧
    Ready (regs []) 0 ((regs []).src.regOk 63 && (regs []).src.bOk (.pool 1)) (usesRegs (BOp.pool 1).regs [63]) ∧
    Ready (regs []) 0 (fsOk (regs []) ⟨0, 4, 5, .reg 6⟩) (usesRegs [4, 5, 6] [4]) ∧
    Ready (regs []) 0 ((regs []).src.pairOk 62 && (regs []).src.pairOk 4 && (regs []).src.b64Ok (.reg 6))
      (usesRegs [4, 5, 6, 7] [62, 63]) ∧
    (isEven (5 : Reg) && isEven (4 : Reg) && (BOp.reg 6).regs.all isEven) = false := by
  unfold Ready; decide +kernel

theorem witness_LateResult :
    lateResult (.mul ⟨0, 0, 5, .reg 6⟩) (regs []).rm 0 0 0 = some (⟨0, 0, 5, .reg 6⟩, [5, 6], 3, 0, 0) ∧
    (lateResult (.fmac ⟨0, 4, 5, .reg 6⟩) (regs []).rm 0 0 0).map (·.1) = some ⟨0, 4, 5, .reg 6⟩ ∧
    Ready (regs []) 0 (fsOk (regs []) ⟨0, 4, 5, .reg 6⟩) (usesRegs [4, 5, 6] [4]) := by
  refine ⟨rfl, rfl, ?_⟩
  unfold Ready; decide +kernel

/-- A result of two elements on its way. -/
def oneResult : State := issuing { tile0 with pend := [⟨[(.sreg 4, 9), (.lat 53, 8)], 1, 0⟩] }

theorem witness_ResultLands : oneResult.tile.pend[0]? = some ⟨[(.sreg 4, 9), (.lat 53, 8)], 1, 0⟩ ∧
    ([(Dst.sreg 4, (9 : Word)), (.lat 53, 8)].map Prod.fst).Nodup := by decide +kernel

theorem test_result_lands :
    shows (fun t => (t.tile.core.reg 4, t.tile.core.latEl 53, t.tile.core.flags)) (exec (.resultLand 0) oneResult) =
      some (9, 8, 1) := by decide +kernel

theorem witness_ReadControlRegister :
    Ready (regs []) 0 ((regs []).src.regOk 4 && (regs []).src.bOk (.imm 4) && crAllowed (regs []) false (.imm 4))
      (usesRegs (BOp.imm 4).regs [4]) ∧
    Ready (regs []) 0 ((regs []).src.regOk 4 && (regs []).src.bOk (.imm 1) && crAllowed (regs []) false (.imm 1))
      (usesRegs (BOp.imm 1).regs [4]) ∧ (regs []).src.flagsBusy = false := by
  unfold Ready; decide +kernel

theorem witness_WriteControlRegister :
    Ready (regs []) 0 ((regs []).src.regOk 4 && (regs []).src.bOk (.imm 1) && crAllowed (regs []) true (.imm 1))
      (usesRegs (4 :: (BOp.imm 1).regs) []) ∧
    Ready (regs []) 0 ((regs []).src.regOk 4 && (regs []).src.bOk (.imm 3) && crAllowed (regs []) true (.imm 3))
      (usesRegs (4 :: (BOp.imm 3).regs) []) ∧ (regs []).src.flagsBusy = false := by
  unfold Ready; decide +kernel

/-- R5, R95: a write of cr.preds leaves p0 true and reserved bits zero. -/
theorem test_wrcr_preds :
    shows (fun t => t.readCr t.tile 0 3) (exec (.wrcr ⟨0, 4, .imm 3⟩) (regs [(4, 0xFFFFFF02)])) = some 3 := by decide +kernel

theorem witness_ControlRegisterTraps :
    crCause (regs [(5, 0x100)]).src.core.sup false ((regs [(5, 0x100)]).bval (.reg 5)) = some .privilege ∧
    (regs [(5, 0x100)]).waits (usesRegs [5] [4]) = false ∧
    ((regs [(5, 0x100)]).src.regOk 4 && (regs [(5, 0x100)]).src.bOk (.reg 5)) = true ∧
    crCause (regs []).src.core.sup true ((regs []).bval (.imm 0)) = some .illegalOperand ∧
    (regs []).waits (usesRegs [4] []) = false ∧ ((regs []).src.regOk 4 && (regs []).src.bOk (.imm 0)) = true ∧
    (∀ n ∈ [0x007, 0x014, 0x0FF, 0x103, 0x115, 0x15B, 0x3FF, 0x400], n ∉ taskNumbers ++ supervisorNumbers) ∧
    (∀ n ∈ [0x009, 0x012, 0x110, 0x114, 0x15A], n ∈ taskNumbers ++ supervisorNumbers ∧ n ∈ readOnlyNumbers) := by
  decide +kernel

theorem witness_CompareResult :
    compareRow (.cmpI32 ⟨0, 2, 0, 5, .imm 3⟩) ((regs []).rd 5) ((regs []).bval (.imm 3)) = some (⟨0, 2, 0, 5, .imm 3⟩, true, 0) ∧
    Ready (regs []) 0 ((regs []).src.regOk 5 && (regs []).src.bOk (.imm 3)) (usesRegs [5] []) ∧
    (0x1B840000 : Word).extractLsb' 23 8 = 0x37 ∧ 2 ≤ ((0x1B840000 : Word).extractLsb' 17 3).toNat := by
  unfold Ready; decide +kernel

theorem witness_PredicateResult :
    predicateRow (.pand ⟨0, 3, 1, 0, 2⟩) ((regs []).src.core.pred 0 ^^ (3 : BitVec 3).getLsbD 0)
      ((regs []).src.core.pred 2 ^^ (3 : BitVec 3).getLsbD 1) = some (⟨0, 3, 1, 0, 2⟩, false) ∧
    (regs []).on 0 = true ∧
    (0x19800001 : Word).extractLsb' 23 8 ∈ [0x33#8, 0x34#8, 0x35#8, 0x36#8] ∧ (0x19800001 : Word).extractLsb' 0 2 ≠ 0 := by
  decide +kernel

/-! #### Control -/

theorem witness_FalseGuardDoesNothing :
    decodeWord 0x08110401 = .ok (.add ⟨1, 4, 4, .pool 0⟩) ∧
    (regs []).src.core.pred ((0x08110401 : Word).extractLsb' 20 3) = false ∧ (regs []).decision = none :=
  ⟨rfl, by decide +kernel⟩

theorem witness_BranchTarget :
    (regs []).ctlGuard 0 = true ∧ (regs []).ctlGuard 1 = false ∧ (regs []).free? (usesRegs [] [63]) = true ∧
    ReadyCtl (regs []) 0 true (usesRegs [] [63]) := by
  unfold ReadyCtl; decide +kernel

/-- A ribbon of tiles 0 and 1, rank 1 issuing the bundle in which rank 0 jumped to packet 9. -/
def ribboned : State :=
  let t := { tile0 with
    core := tile0.core.setReg 4 9
    task := { tile0.task with rank := 1, rlen := 2 } }
  let s := issuing t
  { s with dev := { s.dev with ribbons := [⟨[1, 0], 1, ⟨1, [⟨[true], some 9, none⟩], none, []⟩, RClock.zero⟩] } }

theorem witness_JumpAndLoop :
    ReadyCtl (regs []) 0 ((regs []).src.bOk (.reg 4)) (usesRegs [4] []) ∧ (regs []).decision = none ∧
    ReadyCtl (regs []) 0 ((regs []).src.regOk 4) (usesRegs [4] [4]) ∧
    ReadyCtl ribboned 0 (ribboned.src.bOk (.reg 5)) (usesRegs [5] []) ∧ ribboned.decision.bind (·.jr) = some 9 ∧
    (9 : Word).toNat % 2 ^ 20 ≠ (ribboned.bval (.reg 5)).toNat % 2 ^ 20 := by
  unfold ReadyCtl; decide +kernel

theorem witness_FramingAndMarks :
    (regs []).on 0 = true ∧ Ready (regs []) 0 ((regs []).src.regOk 4 && (regs []).src.bOk (.imm 1)) (usesRegs [4] []) ∧
    (regs []).rd 4 ≠ (regs []).bval (.imm 1) ∧ (regs []).rd 4 = (regs []).bval (.imm 0) ∧
    (regs []).tile.recov.phase = .run ∧ (regs []).ctlGuard 0 = true ∧ (regs []).src.mq = [] ∧ (regs []).src.poison = [] := by
  unfold Ready; decide +kernel

/-- The sibling running a task. -/
def busySibling (s : State) : State := { s with others := [{ tile1 with stat := .running }] }

theorem witness_SpawnReserves :
    (∀ s ∈ [regs [(4, 1)], busySibling (regs [(4, 1)])],
      s.on 0 = true ∧ (s.spawnCheck ⟨0, 4, .imm 0⟩).isNone = true ∧
        s.free? (usesRegs (4 :: (BOp.imm 0).regs ++ spawnRegs) []) = true ∧
        (s.rd 4).toNat % 512 < s.src.ntile ∧ (s.rd 4).toNat % 512 ≠ s.src.ltile ∧ s.draining = false) ∧
    (tile1.phys / 16 = tile0.phys / 16 ∧ tile1.stat = .idle ∧ tile0.phys ≠ tile1.phys) ∧
    (((regs []).spawnCheck ⟨0, 4, .imm 0⟩).isNone = true ∧ ((regs []).rd 4).toNat % 512 = (regs []).src.ltile) := by
  decide +kernel

theorem witness_SpawnReserves_sibling :
    (regs [(4, 1)]).logical 1 1 = some tile1 ∧
    (busySibling (regs [(4, 1)])).logical 1 1 = some { tile1 with stat := .running } := ⟨rfl, rfl⟩

/-! #### Traps -/

theorem witness_TrapInstructions :
    Ready (regs []) 0 ((regs []).src.bOk (.imm 33)) (usesRegs (BOp.imm 33).regs []) ∧ (regs []).src.core.sup = false := by
  unfold Ready; decide +kernel

/-- A handler at packet 0. -/
def handled : State := issuing { tile0 with tvec := 0 }

/-- In supervisor mode, in a handler. -/
def supervising : State :=
  issuing { tile0 with core := { tile0.core with sup := true, inHandler := true, epc := 4, ecause := 0xD } }

theorem enters_handled : EntersAlone handled := by
  refine ⟨by decide +kernel, by decide +kernel, by decide +kernel, by decide +kernel, by decide +kernel, ?_, by decide +kernel⟩
  have h : handled.drain.tile.cq = [] := by decide +kernel
  simp [h]

theorem enters_supervising : EntersAlone supervising := by
  refine ⟨by decide +kernel, by decide +kernel, by decide +kernel, by decide +kernel, by decide +kernel, ?_, by decide +kernel⟩
  have h : supervising.drain.tile.cq = [] := by decide +kernel
  simp [h]

theorem witness_TrapEntry :
    EntersAlone handled ∧ handled.drain.tile.core.sup = false ∧ handled.drain.tile.tvec ≠ 0xFFFFF ∧
    handled.drain.tile.cq = [] ∧ handled.drain.tile.unpins = [] ∧ PoisonKnown handled 0 ∧ EntersAlone supervising ∧
    supervising.drain.tile.core.sup = true ∧ PoisonKnown supervising 0 :=
  ⟨enters_handled, by decide +kernel, by decide +kernel, by decide +kernel, by decide +kernel,
    by unfold PoisonKnown; decide +kernel, enters_supervising, by decide +kernel, by unfold PoisonKnown; decide +kernel⟩

/-- A poisoned register, and the trap that reports it. -/
theorem witness_TrapEntry_poison :
    (let s : State := { handled with tile := { handled.tile with poison := [⟨0, 2⟩] } }
     PoisonKnown s (2 ^ 8 + 2 ^ 7) ∧ s.drain.tile.poison = [⟨0, 2⟩]) := by unfold PoisonKnown; decide +kernel

theorem witness_ReturnFromTrap :
    supervising.src.core.sup = true ∧ ReadyCtl supervising 0 (supervising.src.bOk (.imm 1)) (usesRegs (BOp.imm 1).regs []) ∧
    supervising.src.ckFresh = true := by
  unfold ReadyCtl; decide +kernel

/-- R388: `eret 1` resumes after the bundle, in task mode. -/
theorem test_eret : shows (fun t => (t.tile.core.pc, t.tile.core.sup)) (exec (.eret ⟨0, .imm 1⟩) supervising) = some (5, false) := by
  decide +kernel

end Sys2Proof.Tests


namespace Sys2Proof.Tests

open Sys2Proof.Machine Sys2Proof.Claims
set_option Elab.async false

/-! #### Vectors and the memory slot -/

/-- The row of an operation, ready with its checks. -/
def rowReady (s : State) (i : Instr) (f : VRow → Bool) : Bool :=
  match vectorRow s i with
  | some r => s.on r.g && r.ok s && s.free? r.uses && f r
  | none => false

theorem witness_VectorResult :
    (∀ i ∈ [Instr.vadd ⟨0, .row 3, .row 1, .col 2, 0⟩, .vredsum ⟨0, .col 3, .row 1⟩, .vcvt ⟨0, .diag 3, .row 1, 2⟩],
      rowReady (rows []) i (fun r => decide (r.d.stream? = none) && clean (rows []) r.reads) = true) := by decide +kernel

/-- Ports 0 (input, one vector fetched) and 1 (output) bound; each stream has eight vectors. -/
def streaming : State :=
  issuing { tile0 with core := { tile0.core with ports := Vector.ofFn fun i =>
    if i.val = 0 then ⟨true, false, List.replicate 16 0, 8, 0, [Vector.replicate 16 5], false, 0⟩
    else if i.val = 1 then ⟨true, true, List.replicate 16 0, 8, 0, [], false, 1⟩ else Port.unbound } }

theorem witness_VectorResult_stream :
    rowReady streaming (.vadd ⟨0, .row 3, .row 1, .port 0, 0⟩)
      (fun r => decide (r.d.stream? = none) && decide (r.reads.filterMap VOp.stream? = [0])) = true := by decide +kernel

theorem witness_VectorToStream :
    ∀ t ∈ [streaming.tile, streaming.tile.unbindPort 1, streaming.tile.pushVec 1 (Vector.replicate 16 7)],
      rowReady { streaming with tile := t } (.vmov ⟨0, .port 1, .row 1⟩)
        (fun r => decide (r.d.stream? = some 1) && clean streaming r.reads &&
          (!(t.core.port 1).fifo.isEmpty || t.quiet)) = true := by decide +kernel

/-- A bundle whose second word writes port 1 too. -/
theorem witness_VectorToStream_later :
    ({ streaming with iss := { streaming.iss with ops := List.replicate 2 (encode false (.vmov ⟨0, .port 1, .row 1⟩)) } } :
      State).laterPort 1 = true ∧ streaming.laterPort 1 = false := by decide +kernel

/-- R124: `vqnt` without bit 6 of the features. -/
theorem witness_VectorResult_feature :
    (issuing { tile0 with task := { tile0.task with feat := 0x3F } }).src.feat 6 = false := by decide +kernel

/-- R201, R48: a port that an earlier word of the bundle has unbound stays so. -/
theorem test_unbind_then_read :
    shows (fun t => (t.tile.core.port 0).bound) (exec (.vmov ⟨0, .row 2, .port 0⟩)
      { streaming with tile := streaming.tile.unbindPort 0 }) = some false := by decide +kernel

/-- R48, R151: the port read advances, the vector written joins the output port. -/
theorem test_stream_move :
    shows (fun t => (((t.tile.core.port 0).fifo.length, (t.tile.core.port 0).pos), (t.tile.core.port 1).fifo.map (·[7])))
      (exec (.vmov ⟨0, .port 1, .port 0⟩) streaming) = some ((0, 1), [5]) := by decide +kernel

theorem witness_ElementMoves :
    Ready (rows []) 0 ((rows []).src.regOk 4 && (rows []).src.vOk (.row 1)) ⟨[], [.row 1], [4], []⟩ ∧
    Ready (rows []) 0 ((rows []).src.vrwOk (.col 15) && (rows []).src.regOk 4) ⟨[4], [.col 15], [], [.col 15]⟩ ∧
    Ready (rows []) 0 ((rows []).src.vOk (.row 1) && (rows []).src.vOk (.diag 1)) ⟨[], [.row 1, .diag 1], [], []⟩ ∧
    clean (rows []) [.row 1, .col 15, .diag 1] = true ∧ (rows []).tile.recov.phase = .run ∧
    (rows []).rdV (.row 1) = (rows []).rdV (.row 2) ∧ (rows [(1, [1])]).rdV (.row 1) ≠ (rows [(1, [1])]).rdV (.row 2) := by
  unfold Ready; decide +kernel

/-- R167: element 1 of 16 bits. -/
theorem test_vext : onItsWay (exec (.vext ⟨0, 4, .row 1, 1, 1⟩) (rows [(1, [0xABCD1234])])) = some ([0xABCD], 0, 2) := by
  decide +kernel

/-- All that `Passes` asks of an operation, as one check. -/
def passes (s : State) (r : SlotRow) : Bool :=
  s.on r.g && r.ok && s.free? r.uses && r.aligned && inDomain s r && inBanks s r &&
    !(if r.write then s.storeWaits r.acc else s.loadWaits r.acc) && !s.accTokens r.acc && (s.accPoison r.acc).isNone &&
    clean s r.vs && decide (s.eccOf r.acc.bytes = .none) && decide (s.mergeHit s.src r.acc.bytes = .none)

theorem passes_iff {s : State} {r : SlotRow} (h : passes s r = true) : Passes s r := by
  simp only [passes, Bool.and_eq_true, Bool.not_eq_true', decide_eq_true_eq, Option.isNone_iff_eq_none] at h
  obtain ⟨⟨⟨⟨⟨⟨⟨⟨⟨⟨⟨a, b⟩, c⟩, d⟩, e⟩, f⟩, g⟩, i⟩, j⟩, k⟩, l⟩, m⟩ := h
  exact ⟨⟨a, b, c⟩, d, e, f, g, fun x => absurd x (by simp [i]), fun _ => j, k, fun _ => l, fun _ _ _ => m⟩

/-- The row of a memory-slot operation meets a check. -/
def slotMeets (s : State) (i : Instr) (f : SlotRow → Bool) : Bool :=
  match slotRow s i with
  | some r => f r
  | none => false

theorem witness_LoadGoesOut :
    (∀ i ∈ [Instr.ldw ⟨0, 4, 5, 0⟩, .ldb ⟨0, 0, 5, 3⟩, .vld ⟨0, .col 2, 5, -1⟩, .vlds ⟨0, .row 3, 4, 0⟩],
      slotMeets (regs [(5, 64)]) i (fun r => !r.write && passes (regs [(5, 64)]) r) = true) ∧ (regs [(5, 64)]).tile.loads = [] := by
  decide +kernel

/-- A vector load to an output port, the port free or written by an earlier word of the bundle. -/
theorem witness_LoadGoesOut_stream :
    ∀ t ∈ [streaming.tile, streaming.tile.pushVec 1 (Vector.replicate 16 7)],
      let s := { streaming with tile := t }
      slotMeets s (.vld ⟨0, .port 1, 0, 0⟩) (fun r => !r.write && passes s r && decide (loadTo s r = .port 1) &&
        (!(t.core.port 1).fifo.isEmpty || t.quiet)) = true ∧ t.loads = [] := by decide +kernel

/-- A load of s4 and one of a column, known but for the first byte; a fill of the load buffer. -/
def loading : State :=
  issuing { tile0 with loads :=
    [⟨.sreg 4, .bytes [(0, none), (1, some 2), (2, some 3), (3, some 4)], 0⟩,
     ⟨.lat ((List.range 16).map fun k => 16 * k), .bytes ((List.range 64).map fun k => (k, some 7)), 0⟩,
     ⟨.none, .bytes [(0, some 1)], 0⟩, ⟨.buffer 0x80000000, .bytes ((List.range 64).map fun k => (0x80000000 + k, none)), 0⟩] }

theorem witness_LoadReturns :
    loading.tile.loads[0]? = some ⟨.sreg 4, .bytes [(0, none), (1, some 2), (2, some 3), (3, some 4)], 0⟩ ∧
    (∀ k ∈ [0, 1, 2, 3], (loading.tile.loadReady k) = true) ∧
    (((List.range 16).map fun k => 16 * k).filter fun e => decide (e < 256)).Nodup ∧
    Ready (regs [(5, 0x100)]) 0 ((regs [(5, 0x100)]).src.regOk 5) (usesRegs [5] []) ∧
    (regs []).src.owns (address (regs [(5, 0x100)]) 5 0 64 / 64 * 64) = true := by
  unfold Ready; decide +kernel

/-- A vector on its way to output port 1. -/
theorem witness_LoadReturns_port :
    let s := { streaming with tile := { streaming.tile with
      loads := [⟨.port 1, .bytes ((List.range 64).map fun k => (k, some 7)), 0⟩] } }
    s.tile.loadReady 0 = true ∧ (s.tile.core.port 1).bound = true ∧ s.tile.quiet = true := by decide +kernel

theorem witness_LoadReturns_pref :
    let s := granted Mem.empty (regs [(5, 0x80000040)])
    Ready s 0 (s.src.regOk 5) (usesRegs [5] []) ∧ s.src.owns (address s 5 0 64 / 64 * 64) = false ∧
    s.slotOk s.src (address s 5 0 64 / 64 * 64) 64 false = true ∧
    (∀ k, k < 64 → s.byteHit s.src (address s 5 0 64 / 64 * 64 + k) = .none) ∧
    loading.tile.loads[3]? = some ⟨.buffer 0x80000000, .bytes ((List.range 64).map fun k => (0x80000000 + k, none)), 0⟩ := by
  unfold Ready; decide +kernel

/-- R189: a filled entry holds the near store's bytes. -/
theorem test_fill : shows (fun t => t.tile.buffered 0x80000001) (exec (.loadReturn 0)
    (granted (Mem.empty.writeNat 0x80000000 4 0x04030201) (issuing { tile0 with
      loadBuf := [(0x80000000, none)]
      loads := [⟨.buffer 0x80000000, .bytes ((List.range 64).map fun k => (0x80000000 + k, none)), 0⟩] }))) =
    some (some 2) := by decide +kernel

theorem test_load_returns : reg 4 (exec (.loadReturn 0) loading) = some 0x04030200 := by decide +kernel

theorem witness_StoreInOwnWindow :
    (∀ i ∈ [Instr.stw ⟨0, 4, 5, 0⟩, .stb ⟨0, 4, 5, -1⟩, .vst ⟨0, .col 2, 5, 0⟩],
      slotMeets (regs [(5, 64)]) i (fun r => r.write && passes (regs [(5, 64)]) r && (regs []).src.owns r.acc.ea &&
        decide ((regs []).src.ctlOff r.acc.ea = none) && decide (r.acc.parts.length = 1)) = true) ∧
    (slotMeets (regs [(5, 4)]) (.vsts ⟨0, .row 2, 4, 0⟩) (fun r => r.write && passes (regs [(5, 4)]) r &&
      (regs []).src.owns r.acc.ea && (regs []).tile.quiet)) = true ∧
    (regs [(5, 64)]).memWf = true ∧ (regs []).src.ltile = (regs []).tile.ltile := by decide +kernel

/-- R188: bytes in little-endian order, read back from the window. -/
theorem test_stw :
    shows (fun t => (t.tile.winByte 64, t.tile.winByte 67)) (exec (.stw ⟨0, 4, 5, 0⟩) (regs [(4, 0xAABBCCDD), (5, 64)])) =
      some (0xDD, 0xAA) := by decide +kernel

theorem witness_StoreElsewhere :
    let s := granted Mem.empty (regs [(5, 0x80000040)])
    (∀ i ∈ [Instr.sth ⟨0, 4, 5, 0⟩, .vst ⟨0, .row 2, 5, 0⟩],
      slotMeets s i (fun r => r.write && passes s r && !s.src.owns r.acc.ea) = true) := by decide +kernel

/-- A supervisor that stores to the region of R381. -/
theorem witness_StoreElsewhere_control :
    let s := issuing { tile0 with core := { (tile0.core.setReg 5 0x1F0008) with sup := true } }
    slotMeets s (.stw ⟨0, 4, 5, 0⟩) (fun r => r.write && passes s r && !r.vector &&
      decide (s.src.ctlOff r.acc.ea = some 8)) = true ∧ s.memWf = true := by decide +kernel

/-- R381, R5: a count keeps its nine bits, its neighbour stays. -/
theorem test_store_control :
    let s := issuing { tile0 with core := { (tile0.core.setReg 5 0x1F2A02).setReg 4 0xFFFFFFFF with
      sup := true
      flint := { Flint.reset with cnt := Vector.replicate 256 7 } } }
    shows (fun t => (t.ctlWord t.tile 0 0x2A00, t.ctlWord t.tile 0 0x2A04)) (exec (.sth ⟨0, 4, 5, 0⟩) s) =
      some (0x01FF0007, 0x00070007) := by decide +kernel

theorem witness_SlotTraps :
    slotMeets (regs [(5, 0x106)]) (.stw ⟨0, 4, 5, 0⟩) (fun r => !r.aligned) = true ∧
    slotMeets (regs [(5, 0x200000)]) (.ldw ⟨0, 4, 5, 0⟩) (fun r => r.aligned && !inDomain (regs [(5, 0x200000)]) r) = true ∧
    slotMeets (regs [(4, 0), (5, 0x600)]) (.vlds ⟨0, .row 1, 4, 0⟩)
      (fun r => r.aligned && inDomain (regs [(4, 0), (5, 0x600)]) r && !inBanks (regs [(4, 0), (5, 0x600)]) r) = true := by
  decide +kernel

/-- Wrong parity in row 1, an uncorrectable word in the scratchpad and one in the near store, tile register 0 poisoned. -/
def faulty : State :=
  let s := granted ⟨[], [], [0x80000000]⟩ (issuing { tile0 with
    latBad := [16]
    win := ⟨[], [], [0]⟩
    poison := [⟨0, 2⟩]
    core := (tile0.core.setReg 5 0x80000000).setReg 6 0x180000 })
  s

/-- A sibling with an uncorrectable word in its accumulators: the reader's load goes out (R291). -/
theorem witness_UncorrectableLoads_sibling :
    let s : State := { regs [(7, 0x403A0000)] with others := [{ tile1 with win := ⟨[], [], [0x1A0000]⟩ }] }
    slotMeets s (.ldw ⟨0, 4, 7, 0⟩) (fun r => !r.write && r.aligned && inDomain s r && inBanks s r && !s.loadWaits r.acc &&
      !s.accTokens r.acc && (s.accPoison r.acc).isNone && decide (s.eccOf r.acc.bytes = .event 0x403A0000)) = true ∧
    s.dev.evRing = none ∧ s.dev.early.length < 256 := by decide +kernel

theorem witness_UncorrectableLoads :
    rowReady faulty (.vmov ⟨0, .row 2, .row 1⟩) (fun r => !clean faulty r.reads) = true ∧ faulty.tile.recov.phase = .run ∧
    (∀ p ∈ [(Instr.ldw ⟨0, 4, 0, 0⟩, EccHit.scratch), (.ldw ⟨0, 4, 5, 0⟩, .near 0x80000000)],
      slotMeets faulty p.1 (fun r => !r.write && r.aligned && inDomain faulty r && inBanks faulty r &&
        !faulty.loadWaits r.acc && !faulty.accTokens r.acc && (faulty.accPoison r.acc).isNone &&
        decide (faulty.eccOf r.acc.bytes = p.2)) = true) ∧
    slotMeets faulty (.ldw ⟨0, 4, 6, 0⟩) (fun r => r.aligned && inDomain faulty r && !faulty.loadWaits r.acc &&
      decide (faulty.accPoison r.acc = some ⟨0, 2⟩)) = true := by decide +kernel

/-! #### Atomics, streams, jobs and fabric operations -/

/-- A near-store word in s5, a window word in s6, a job card at window address 0x200 in s7. -/
def busy : State :=
  granted Mem.empty (regs [(5, 0x80001000), (6, 0x100), (7, 0x200), (8, 0x40), (9, 0)])

theorem atomic_passes : ∀ o ∈ [(⟨0, 0, 5, .imm 3⟩ : FS), ⟨0, 0, 6, .imm 3⟩, ⟨0, 9, 5, .imm 3⟩],
    busy.on o.g = true ∧ fsOk busy o = true ∧ busy.free? (atomicUses o .incb) = true ∧
    wordOk busy (busy.rd o.a).toNat = true ∧ busy.storeWaits ⟨(busy.rd o.a).toNat, [((busy.rd o.a).toNat, 4)]⟩ = false ∧
    busy.eccOf ((List.range 4).map fun k => (busy.rd o.a).toNat + k) = .none := by decide +kernel

theorem witness_PlainAtomic : AtomicPasses busy ⟨0, 0, 5, .imm 3⟩ .incb ∧ AtomicPasses busy ⟨0, 0, 6, .imm 3⟩ .incb ∧
    busy.memWf = true ∧ busy.src.ownOff 0x100 = some 0x100 ∧ busy.src.ownOff 0x80001000 = none := by
  have h := fun o m => atomic_passes o m
  refine ⟨?_, ?_, by decide +kernel, by decide +kernel, by decide +kernel⟩
  · obtain ⟨a, b, c, d, e, f⟩ := h ⟨0, 0, 5, .imm 3⟩ (by simp); exact ⟨⟨a, b, c⟩, d, e, f⟩
  · obtain ⟨a, b, c, d, e, f⟩ := h ⟨0, 0, 6, .imm 3⟩ (by simp); exact ⟨⟨a, b, c⟩, d, e, f⟩

theorem witness_ReturningAtomic : AtomicPasses busy ⟨0, 9, 5, .imm 3⟩ .incb ∧ busy.src.ckFresh = true ∧
    (busy.src.released.any fun h => (Held.atomic .incb 0x80001000 0 0).behind busy.src h) = false ∧
    busy.tile.logged busy.iss.word false = none ∧
    (let t := { busy.tile with loads := [⟨.sreg 9, .atomic .incb 0x80001000 3 0, 0⟩] }
     t.loads[0]? = some ⟨.sreg 9, .atomic .incb 0x80001000 3 0, 0⟩ ∧ placeOf t.ltile 0x80001000 = .near 0x80001000 ∧
     t.loadReady 0 = true ∧ t.logged 0 false = none) := by
  obtain ⟨a, b, c, d, e, f⟩ := atomic_passes ⟨0, 9, 5, .imm 3⟩ (by simp)
  exact ⟨⟨⟨a, b, c⟩, d, e, f⟩, by decide +kernel, by decide +kernel, by decide +kernel, by decide +kernel⟩

/-- An atomic whose home is in the own scratchpad, and one in the sibling's. -/
def homing (a : Nat) : State :=
  issuing { tile0 with loads := [⟨.sreg 9, .atomic .incb a 3 0, 0⟩] }

theorem witness_ReturningAtomic_scratch :
    placeOf 0 0x100 = .win 0 0x100 ∧ (homing 0x100).logical 1 0 = some (homing 0x100).tile ∧
    placeOf 0 0x40200100 = .win 1 0x100 ∧ (homing 0x40200100).logical 1 1 = some tile1 ∧
    (homing 0x40200100).getTile 1 = tile1 ∧ (homing 0x100).memWf = true ∧ (homing 0x40200100).memWf = true ∧
    (homing 0x100).tile.loadReady 0 = true ∧ (homing 0x40200100).tile.loadReady 0 = true := by
  refine ⟨by decide +kernel, rfl, by decide +kernel, rfl, rfl, ?_, ?_, ?_, ?_⟩ <;> decide +kernel

/-- R191: the word of the sibling's scratchpad counts up, the old value lands. -/
theorem test_atomic_sibling :
    shows (fun t => ((t.getTile 1).win.readNat 0x100 4, t.tile.core.reg 9, t.tile.win.readNat 0x100 4))
      (exec (.loadReturn 0) (homing 0x40200100)) = some (1, 0, 0) := by decide +kernel

/-- In a rerun, with the result of word 0 logged. -/
theorem witness_ReturningAtomic_rerun :
    (let t := { tile0 with recov := ⟨.rerunA, false, false, 0, 0, 0, false, [⟨0, false, 7⟩], []⟩ }
     t.logged 0 false) = some 7 := by decide +kernel

theorem witness_FlaggedStore :
    Ready busy 0 (fsOk busy ⟨0, 4, 5, .reg 6⟩) (usesRegs [4, 5, 6] []) ∧ wordOk busy 0x80001000 = true ∧
    wordOk busy 0x100 = true ∧ busy.storeWaits ⟨0x80001000, [(0x80001000, 4), (0x100, 4)]⟩ = false ∧
    Ready (regs [(5, 2), (6, 6)]) 0 (fsOk (regs [(5, 2), (6, 6)]) ⟨0, 4, 5, .reg 6⟩) (usesRegs [4, 5, 6] []) ∧
    Ready busy 0 (fsOk busy ⟨0, 0, 5, .imm 3⟩) (atomicUses ⟨0, 0, 5, .imm 3⟩ .incb) ∧
    wordOk (regs [(5, 0x200000)]) 0x200000 = false ∧ wordOk (regs [(5, 0x200000)]) 0x100 = true := by
  unfold Ready; decide +kernel

/-- A descriptor at window address 0x40: input, near base, one dimension of eight vectors of 64 bytes. -/
def described : State :=
  let s := granted Mem.empty (regs [(5, 0x40)])
  let win := [(1, 0x80000000), (2, 8), (6, 64)].foldl
    (fun m x => Mem.writeNat m (0x40 + 4 * x.1) 4 x.2) Mem.empty
  { s with tile := { s.tile with win := win }, src := { s.src with win := win } }

theorem witness_StreamInstructions :
    Ready (regs [(5, 0x44)]) 0 ((regs [(5, 0x44)]).src.portOk 0 && (regs []).src.regOk 5 && (regs []).src.bOk (.imm 0))
      (usesRegs [5] []) ∧
    Ready streaming 0 (streaming.src.portOk 1) (usesRegs [] []) ∧ streaming.drainWaits 1 = false ∧
    (streaming.src.mq.any XOp.isTst) = false ∧
    Ready streaming 0 (streaming.src.regOk 4 && streaming.src.portOk 0 && streaming.src.bOk (.imm 2)) (usesRegs [] [4]) ∧
    (streaming.bval (.imm 3)).toNat = 3 := by
  unfold Ready; decide +kernel

theorem witness_JobsIssue :
    Ready busy 0 (fsOk busy ⟨0, 20, 7, .imm 0⟩) (usesRegs [7] [20]) ∧
    (∀ x ∈ [(0x200, 128), (0x200, 32), (1, 128), (0x80001000, 128)], busy.src.slotsFull = false ∧
      busy.tile.freeSlot.isSome = true ∧ busy.tile.quiet = true ∧ busy.src.portLoading = false ∧
      ((cardAt busy x.1 x.2).isSome = true → busy.loadWaits ⟨x.1, [(x.1, x.2)]⟩ = false ∧
        busy.eccOf ((List.range x.2).map fun k => x.1 + k) = .none)) ∧
    Ready busy 0 (busy.src.regOk 20 && busy.src.regOk 7) (usesRegs [7] [20]) ∧
    Ready busy 0 (busy.src.feat 2 && fsOk busy ⟨0, 20, 5, .reg 7⟩) (usesRegs [5, 7] [20]) ∧
    ({ tile0 with task := { tile0.task with jobs := 0 } } : Tile).slotsFull = true := by
  unfold Ready; decide +kernel

theorem witness_FabricInstructions :
    Ready busy 0 (busy.src.feat 3 && (busy.src.regOk 10 && busy.src.quadOk 4 && busy.src.pairOk 8))
      (usesRegs (quadRegs 4 ++ [8, 9]) [10]) ∧
    (∀ d ∈ [(0 : Reg), 12], Ready busy 0 (remoteOk busy ⟨0, d, 4, .imm 5⟩) (remoteUses ⟨0, d, 4, .imm 5⟩ .add)) ∧
    busy.src.ckFresh = true ∧ busy.src.slotsFull = false ∧ busy.src.portLoading = false ∧
    busy.src.logged busy.iss.word false = none := by
  unfold Ready; decide +kernel

/-- In a rerun, both results of a remote atomic logged. -/
theorem witness_FabricInstructions_rerun :
    (let t := { tile0 with recov := ⟨.rerunA, false, false, 0, 0, 0, false, [⟨0, false, 7⟩, ⟨0, true, 0⟩], []⟩ }
     (t.logged 0 false, t.logged 0 true)) = (some 7, some 0) := by decide +kernel

/-- The row of a release meets a check. -/
def releaseMeets (s : State) (i : Instr) (f : RelRow → Bool) : Bool :=
  match releaseRow s i with
  | some r => s.on r.g && r.ok && s.free? r.uses && f r
  | none => false

theorem witness_ReleasesEnter :
    (∀ i ∈ [Instr.barv ⟨0, 2, 5, .imm 1⟩, .bartx ⟨0, false, 2, 5, .imm 1⟩, .cadd ⟨0, 2, 5, .reg 8⟩],
      releaseMeets busy i (fun r => match r.at_ with
        | some (a, n, b) => syncOk busy a n true b
        | none => false) = true) ∧
    releaseMeets busy (.phaseRel ⟨0, 4⟩) (fun r => r.at_.isNone) = true ∧
    releaseMeets (regs [(5, 8)]) (.barv ⟨0, 2, 5, .imm 1⟩) (fun r => decide (r.at_ = some (8, 16, true))) = true ∧
    syncOk (regs []) 0x10 16 true true = false ∧ busy.tile.quiet = true ∧ busy.src.flagsBusy = false ∧ busy.src.portLoading = false ∧
    releaseMeets busy (.barv ⟨0, 2, 5, .imm 0⟩) (fun r => decide (r.held = .barv 2 0x80001000 0 0)) = true := by
  decide +kernel

theorem witness_WaitsEnd :
    (waitRow busy (.barw ⟨0, 10, 5, .imm 0⟩)).map (fun w => (w.1, w.2.2.2.2.2.1)) = some (⟨0, 10, 5, .imm 0⟩, false) ∧
    (waitRow busy (.wge ⟨0, 10, 5, .imm 0⟩)).map (fun w => (w.1, w.2.2.2.2.2)) = some (⟨0, 10, 5, .imm 0⟩, true, 0) ∧
    Ready busy 0 (fsOk busy ⟨0, 10, 5, .imm 0⟩) (usesRegs [5] [10]) ∧ busy.src.ckFresh = true ∧
    syncOk busy 0x80001000 16 false true = true ∧ syncOk busy 0x80001000 8 false false = true ∧
    busy.src.logged busy.iss.word false = none ∧ busy.tile.recov.phase = .run ∧ syncOk (regs []) 0x10 16 false true = false := by
  unfold Ready; decide +kernel

end Sys2Proof.Tests


namespace Sys2Proof.Tests

open Sys2Proof.Machine Sys2Proof.Claims
set_option Elab.async false

theorem witness_StreamInstructions_sbind :
    let s := described
    Ready s 0 (s.src.portOk 0 && s.src.regOk 5 && s.src.bOk (.imm 0)) (usesRegs [5] []) ∧
    (!(s.src.core.port 0).bound && decide (0x40 % 64 = 0) && s.slotOk s.src 0x40 64 false) = true ∧
    s.readWaits ⟨0x40, [(0x40, 64)]⟩ = false ∧ s.descOk (s.readDesc 0x40) 0 = true := by
  unfold Ready; decide +kernel

/-- R198: the total of the descriptor. -/
theorem test_sbind : shows (fun t => ((t.tile.core.port 0).bound, (t.tile.core.port 0).total)) (exec (.sbind ⟨0, 0, 5, .imm 0⟩) described) =
    some (true, 8) := by decide +kernel

/-! #### The matrix unit and Flint -/

/-- Little-endian words from an offset on. -/
def words (m : Mem) (a : Nat) (l : List Nat) : Mem := l.zipIdx.foldl (fun m x => m.writeNat (a + 4 * x.2) 4 x.1) m

/-- The dedup run's activation tile in t0, its patterns in t1 and configurations (t4: 2 x 4, t3: the map); weights latched. -/
def dedup : State :=
  issuing { tile0 with
    win := words (words Mem.empty 0x180000
      [0x30384038, 0x30384038, 0x30384039, 0x38303840, 0x3038C0B8, 0x38303840, 0x303C4038, 0x3038C0B8]) 0x184000
      [0x01010101, 0x0000FF01, 0xFF010000]
    core := { (tile0.core.setReg 6 0x300).setReg 4 0x100 with
      tcfg := Vector.ofFn fun i => if i.val = 0 then 0x00030703 else if i.val = 1 then 0x00030205
        else if i.val = 4 then 0x00030103 else if i.val = 3 then 0x00070007 else 0
      wbCfg0 := 0x00030103
      latValid := true
      flint := { Flint.reset with fst := 0x00003888 } } }

/-- The row of an X-pipe operation meets a check. -/
def xMeets (s : State) (i : Instr) (f : XRow → Bool) : Bool :=
  match (matrixRow s i).orElse fun _ => flintRow s i with
  | some r => s.src.feat r.bit && s.on r.g && r.ok && s.free? r.uses && decide (s.src.mq.length < 16) && s.tile.quiet && r.addr && f r
  | none => false

/-- All that the first clause of `MatrixQueues` asks. -/
def mayQueue (s : State) (i : Instr) : Bool :=
  xMeets s i (fun r => loaded s r.reads && (poisoned s r.reads).isNone && r.valid && !r.ckpt) && !readsRegs s i && readable s i &&
    !s.src.flintBad.contains 0

theorem witness_MatrixQueues :
    (∀ i ∈ [Instr.tld ⟨0, 0, 4, .imm 4⟩, .wlat ⟨0, 4⟩, .mmac ⟨0, 0, 0, 0, .imm 0⟩, .mmacz ⟨0, 1, 0, 0, .imm 0⟩, .azero ⟨0, 0, 0⟩,
        .fsig ⟨0, 0, 1⟩],
      mayQueue dedup i = true ∧ mayQueue { dedup with iss := { dedup.iss with both := true } } i = true) ∧
    dedup.iss.both = false ∧ dedup.tile.mq = [] ∧ dedup.src.mq = [] := by decide +kernel

/-- The same after grouping: eight rows in three buckets; a map of 4 x 4 in four channels described at 0x400. -/
def grouped (base : Nat) : State :=
  let t : Tile := { dedup.tile with
    win := words dedup.tile.win 0x400 [base, 4, 4, 16, 0x00040004, 0x01010101, 4, 0]
    core := { (((dedup.tile.core.setReg 8 0x100).setReg 9 0x400).setReg 4 (BitVec.ofNat 32 base)) with
      tcfg := dedup.tile.core.tcfg.set 2 0x00030203
      flint := { dedup.tile.core.flint with
        fst := fstWith 0 (some 8) (some 3) (some 3) (some 3) (some 1)
        map := Vector.ofFn fun i => [0, 0, 0, 1, 2, 1, 0, 2].getD i.val 0
        lead := Vector.ofFn fun i => [0, 3, 4].getD i.val 0
        cnt := Vector.ofFn fun i => [4, 2, 2].getD i.val 0 } } }
  { dedup with tile := t, src := t }

theorem witness_MatrixQueues_grouped :
    (∀ i ∈ [Instr.tldw ⟨0, 0, 9, .imm 0⟩, .aread ⟨0, 0, 3, 0, .imm 0⟩, .arow ⟨0, 1, 3, 8, .reg 8⟩, .fgrp ⟨0, 3, 14, .imm 3⟩,
        .frep ⟨0, 2, 0, .imm 0⟩, .fscat ⟨0, 0, 0, .imm 8⟩, .fsum ⟨0, 0, 0, .imm 8⟩],
      mayQueue (grouped 0x800) i = true) := by decide +kernel

/-- A load of a tile register from scalar registers of the own window. -/
theorem witness_MatrixQueues_registers :
    (let s := grouped 0x1E0400
     (∀ i ∈ [Instr.tld ⟨0, 0, 4, .imm 4⟩, .tldw ⟨0, 0, 9, .imm 0⟩],
       xMeets s i (fun r => r.valid) = true ∧ readsRegs s i = true ∧ readable s i = true ∧
         s.readHit s.src.landOutputs (tileSource s i).bytes = .none) ∧ s.src.mq = [] ∧ s.memWf = true) := by decide +kernel

/-- R294: an FST of bad parity. -/
theorem witness_MatrixQueues_parity :
    (let s := grouped 0x800
     let s := { s with tile := { s.tile with flintBad := [0] }, src := { s.src with flintBad := [0] } }
     readsFst s (.fscat ⟨0, 0, 0, .imm 8⟩) = true ∧ xMeets s (.fscat ⟨0, 0, 0, .imm 8⟩) (fun r => r.valid) = true ∧
     s.src.flintBad.contains 0 = true ∧ s.tile.recov.phase = .run) := by decide +kernel

theorem witness_MatrixQueues_stops :
    let s := issuing { dedup.tile with
      mq := [.tld 0 0 0 0 0 0 0]
      poison := [⟨1, 2⟩]
      core := { dedup.tile.core with latBuf := true }
      ck := { dedup.tile.core with latBuf := false } }
    xMeets s (.mmac ⟨0, 0, 0, 0, .imm 0⟩) (fun r => !loaded s r.reads) = true ∧
    xMeets s (.mmac ⟨0, 0, 1, 0, .imm 0⟩) (fun r => loaded s r.reads && decide (poisoned s r.reads = some ⟨1, 2⟩)) = true ∧
    xMeets s (.azero ⟨0, 0, 6⟩) (fun r => r.valid) = true ∧
    xMeets (regs [(6, 0xFF01)]) (.azero ⟨0, 0, 6⟩) (fun r => !r.valid) = true ∧
    xMeets s (.wlat ⟨0, 4⟩) (fun r => loaded s r.reads && (poisoned s r.reads).isNone && r.valid && r.ckpt) = true := by
  decide +kernel

theorem witness_ConfigureAndStore :
    dedup.src.feat 0 = true ∧ Ready dedup 0 (dedup.src.tregOk 2 && dedup.src.regOk 0) (usesRegs [0] []) ∧
    dedup.src.mq.length < 16 ∧ dedup.iss.both = false ∧ loaded dedup [2] = true ∧ dedup.tile.quiet = true ∧
    (Cfg.ofWord (dedup.rd 0 &&& 0x01FFFFFF)).valid = true ∧
    Ready dedup 0 (dedup.src.tregOk 0 && dedup.src.pairOk 6 && dedup.src.bOk (.imm 4)) (usesRegs [6, 7] []) ∧
    poisoned dedup [0] = none ∧ planesOk dedup (Cfg.ofWord 0x00030703) (dedup.planes ⟨0, 0, 6, .imm 4⟩) true = true ∧
    dedup.src.portLoading = false ∧
    (let p := dedup.planes ⟨0, 0, 6, .imm 4⟩
     let runs := tileRuns (Cfg.ofWord 0x00030703) p.b1 p.p1 p.b2 p.p2
     (runs.all fun r => (dedup.src.ownOff r.1).isSome) = true ∧ dedup.accVs (runsAcc p.b1.toNat runs) = false) := by
  unfold Ready; decide +kernel

/-- The dedup run with a tile to store at an address. -/
def storing (base : Word) : State :=
  let s := granted Mem.empty dedup
  let t : Tile := { s.tile with core := s.tile.core.setReg 6 base }
  { s with tile := t, src := t }

/-- What a `tst` of t0 to s6 asks, into vector or scalar registers of the own window or elsewhere. -/
def storeMeets (s : State) (regs own : Bool) : Bool :=
  let c := Cfg.ofWord 0x00030703
  let p := s.planes ⟨0, 0, 6, .imm 4⟩
  let runs := tileRuns c p.b1 p.p1 p.b2 p.p2
  let acc := runsAcc p.b1.toNat runs
  planesOk s c p true && s.accVs acc == regs && (runs.all fun r => (s.src.ownOff r.1).isSome) == own && !s.accTokens acc &&
    !s.storeWaits acc && s.src.mq.isEmpty && (runs.all fun r => (s.src.ctlOff r.1).isNone) && s.memWf &&
    sound s.src.landOutputs (.tst 0 0x00030703 p.b1 p.p1 p.b2 p.p2 none)

/-- A tile stored to the near store, and one stored to the lattice. -/
theorem witness_ConfigureAndStore_elsewhere :
    storeMeets (storing 0x80000000) false false = true ∧ storeMeets (storing 0x1E0000) true true = true := by decide +kernel

/-- The queue with one operation. -/
def queued (x : XOp) (s : State) : State := { s with tile := { s.tile with mq := [x] } }

/-- A tile loaded from the own window, from bytes of no other register. -/
theorem witness_MatrixCompletes_load :
    (let s := queued (.tld 0 0x00030703 0x100 4 0 0 0) dedup
     let c := Cfg.ofWord 0x00030703
     let runs := tileRuns c 0x100 4 0 0
     c.valid = true ∧ s.readHit s.tile (runsAcc 0 runs).bytes = .none ∧
     (runs.any fun r => ((s.tile.ownOff r.1).map fun o => overlapsTreg 0 o (o + r.2.2)).getD false) = false) ∧
    ((tileRuns (Cfg.ofWord 0x00030703) 0x80000000 4 0 0).all fun r => (dedup.tile.ownOff r.1).isNone) = true ∧
    (let t := (grouped 0x800).tile
     (List.range 3).all fun b => !(bucket t 8 b).isEmpty && decide (count t b ≠ 0)) = true ∧
    (let s := queued (.tldw 0 0x00030703 [0x800, 4, 4, 16, 0x00040004, 0x01010101, 4, 0] 0 0) (grouped 0x800)
     (Cfg.ofWord 0x00030703).valid = true ∧ windowFmt (Cfg.ofWord 0x00030703).fmt = true ∧
     s.readHit s.tile (runsAcc 0 ((WinDesc.ofWords [0x800, 4, 4, 16, 0x00040004, 0x01010101, 4, 0]).runs
       (Cfg.ofWord 0x00030703) 0)).bytes = .none ∧
     sound s.tile (.tldw 0 0x00030703 [0x800, 4, 4, 16, 0x00040004, 0x01010101, 4, 0] 0 0) = true) := by decide +kernel

theorem witness_MatrixCompletes :
    (∀ x ∈ [XOp.mmac true 0 0 0x00030703 0x00030103 false 0 0, .azero 0 0 8, .fscat 0 0 8 8, .fsig 0 1 0x00030703 0x00030205,
        .fgrp 14 3 0x00070007 8 3 false, .tst 0 0x00030703 0x80000000 4 0 0 (some 3), .wlat 0 0x00030703 true,
        .aread 3 0x00070007 0 0 0, .arow 1 3 0x00070007 0 1 0x100, .frep 2 0 0x00030203 0x00030703 8 false, .fsum 0 0 8 8 true],
      (queued x dedup).tile.mq = [x] ∧ sound (queued x dedup).tile x = true) ∧ dedup.memWf = true ∧
    (let c := Cfg.ofWord 0x00070007
     c.fmt = 7 ∧ c.valid = true ∧ c.rows = 1 ∧ 8 ≤ c.cols) ∧
    (let t := { dedup.tile with win := { dedup.tile.win with bad := [0x180000] } }
     sound t (.fsig 0 1 0x00030703 0x00030205) = false ∧ t.recov.phase = .run) := by decide +kernel

/-- R299: the signatures of the dedup run. -/
theorem test_fsig :
    shows (fun t => (List.range 8).map fun k => t.tile.core.flint.sg.getD k 0)
      (exec .matrixOpComplete (queued (.fsig 0 1 0x00030703 0x00030205) dedup)) = some [5, 5, 5, 3, 6, 3, 5, 6] := by
  decide +kernel

/-- R300: its buckets, from those signatures: MAP, LEAD, CNT and NB. -/
theorem test_fgrp :
    let s := { dedup with tile := { dedup.tile with core := { dedup.tile.core with flint := { dedup.tile.core.flint with
      sg := Vector.ofFn fun i => [5, 5, 5, 3, 6, 3, 5, 6].getD i.val 0 } } } }
    shows (fun t => ((List.range 8).map (fun k => t.tile.core.flint.map.getD k 0),
        (List.range 3).map (fun k => (t.tile.core.flint.lead.getD k 0, t.tile.core.flint.cnt.getD k 0)), t.tile.core.reg 14))
      (exec .matrixOpComplete (queued (.fgrp 14 3 0x00070007 8 3 false) s)) =
      some ([0, 0, 0, 1, 2, 1, 0, 2], [(0, 4), (3, 2), (4, 2)], 3) := by decide +kernel

/-- R83, R285: the worked multiply: the group of 32 decides column 1; NX. -/
theorem test_mmacz :
    let s := queued (.mmac true 0 0 0x003F0003 0x003F0103 false 0 0) (issuing { tile0 with
      win := (words Mem.empty 0x180000 [0x00780178]).writeNat 0x180028 4 0x78
      wb0 := ((words Mem.empty 0 [0x00F80178]).writeNat 64 4 0x178).writeNat 104 4 0xF8 })
    shows (fun t => (accWord t.tile 0 0 0, accWord t.tile 0 0 1, t.tile.core.flags)) (exec .matrixOpComplete s) =
      some (0x36800000, 0, 1) := by decide +kernel

end Sys2Proof.Tests


namespace Sys2Proof.Tests

open Sys2Proof.Machine Sys2Proof.Claims
set_option Elab.async false

/-! #### Hydin, Shale and the system instructions -/

/-- A tree of two members, tiles 0 and 1, summing i32 in segments of 64 bytes: table entry 5. -/
def pairTree : Tree where
  idx := 5
  ctx := 1
  oper := 0
  tfmt := 3
  seglog := 6
  descs := [⟨0, 0, [⟨0, 0, 0, 0⟩, ⟨0, 1, 1, 0⟩], [0xFFFF]⟩]
  prev := []
  nodes := [⟨0, 0, 0, true, false, 0, [], []⟩]
  flight := []
  results := []
  posts := []
  empties := []
  frozen := false
  freezing := none
  thawing := none
  image := (0, 0)
  misses := 0

/-- The same in supervisor mode, with the tree's handle in s5, an image address in s6 and a descriptor at 0x40. -/
def treeing (tr : Tree) : State :=
  let s := granted Mem.empty (issuing { tile0 with
    core := { ((tile0.core.setReg 5 0x1005).setReg 6 0x80000000).setReg 7 0x40 with sup := true } })
  { s with dev := { s.dev with trees := [tr] } }

theorem witness_TreeInstructions :
    let s := treeing pairTree
    TreeReady s 0 (fsOk s ⟨0, 4, 7, .reg 6⟩) (usesRegs [7, 6] [4]) ∧ Claims.descOk s (s.rd 7).toNat ∧
    TreeReady s 0 (fsOk s ⟨0, 4, 5, .reg 7⟩) (usesRegs [5, 7] [4]) ∧
    TreeReady s 0 (s.src.regOk 4 && s.src.regOk 5) (usesRegs [5] [4]) ∧
    TreeReady s 0 (fsOk s ⟨0, 4, 5, .reg 6⟩) (usesRegs [5, 6] [4]) ∧
    Ready s 0 (s.src.feat 2 && fsOk s ⟨0, 4, 5, .imm 4⟩) (usesRegs [5] [4]) ∧
    s.imageCause (s.rd 6).toNat pairTree.bound true = none ∧ s.imageCause (s.rd 6).toNat pairTree.bound false = none := by
  unfold TreeReady ReadyCk Ready Claims.descOk; decide +kernel

theorem witness_TreeInstructions_handles :
    (treeing pairTree).liveTree 1 0x1005 = some pairTree ∧ (treeing pairTree).treeFrozen pairTree = false ∧
    (treeing pairTree).liveTree 1 0x2005 = none ∧
    (treeing { pairTree with frozen := true }).treeFrozen { pairTree with frozen := true } = true ∧
    ((treeing { pairTree with frozen := true }).imageAt { pairTree with frozen := true } 0x80000000).isNone = true := by
  decide +kernel

/-- The tree frozen, with its image at 0x80000000: the header, the handle, and the bytes of freeze 7 behind them. -/
def imaged : State :=
  let s := treeing { pairTree with frozen := true }
  let near : Mem := { words Mem.empty 0x80000000 [imageMagic, 0x1005] with undef := [⟨0x80000008, 0x80001000, 7⟩] }
  { s with dev := { s.dev with near := near, images := [(7, 0x80000000, pairTree)] } }

theorem witness_TreeInstructions_thaw :
    imaged.liveTree 1 0x1005 = some { pairTree with frozen := true } ∧
    (imaged.imageAt { pairTree with frozen := true } 0x80000000).isNone = false := by
  refine ⟨by decide +kernel, ?_⟩
  have m : imaged.imageMatches 0x80000000 7 0x80000000 pairTree.bound = true := by
    have hb : pairTree.bound ≤ 0xFF8 := by decide +kernel
    simp only [State.imageMatches, List.all_eq_true, List.mem_range, decide_eq_true_eq]
    intro i hi
    have hu : imaged.dev.near.undef = [⟨0x80000008, 0x80001000, 7⟩] := rfl
    have hh : UndefRange.has ⟨0x80000008, 0x80001000, 7⟩ (0x80000000 + 8 + i) = true := by simp [UndefRange.has]; omega
    simp [Mem.readByte, hu, hh]
  have h : imaged.dev.near.readNat 0x80000000 4 = imageMagic ∧
      imaged.dev.near.word (0x80000000 + 4) = imaged.handle ({ pairTree with frozen := true } : Tree).idx := by decide +kernel
  have n : (imaged.dev.near.badWord 0x80000000 pairTree.bound).isNone = true := by decide +kernel
  have l : imaged.dev.images = [(7, 0x80000000, pairTree)] := rfl
  rw [State.imageAt, if_pos h, l]
  simp [List.find?, m, n]

/-- R328: selector 4 counts the members. -/
theorem test_hstat : reg 4 (exec (.hstat ⟨0, 4, 5, .imm 4⟩) (treeing pairTree)) = some 2 := by decide +kernel

/-- R323: an invalid descriptor and an unused context are refused. -/
theorem test_hmk : reg 4 (exec (.hmk ⟨0, 4, 7, .imm 1⟩) (treeing pairTree)) = some 2 ∧
    reg 4 (exec (.hmk ⟨0, 4, 7, .imm 2⟩) (treeing pairTree)) = some 1 := by decide +kernel

/-- An object of two layers at 0x80000000: number 3, layer 0 in the state given by its residency word, layer 1 ABSENT. -/
def layered (res : Nat) (pins : List Pin) (lim : Word) : State :=
  let near := words (words (words Mem.empty 0x80000000 [1, 2, 1]) 0x80000048 [64, 0x80001000]) 0x80000070 [res]
  let near := words near 0x80000088 [64, 0x80001040]
  let s := granted near (issuing { tile0 with
    task := { tile0.task with sctx := 3 }
    lwCount := 2000
    core := { (tile0.core.setReg 6 2) with pins := pins, lwlim := lim } })
  { s with dev := { s.dev with objs := [⟨3, 0x80000000, 1⟩] } }

theorem witness_LayerInstructions :
    (∀ p ∈ [(layered 2 [] 0, 2), (layered 3 [] 0, 3), (layered 0 [] 1, 0), (layered 0 [] 2, 0)], p.1.src.waitFailed 3 0 = false ∧
      (p.1.on 0 = true ∧ (p.1.src.feat 4 && (p.1.src.regOk 7 && p.1.src.regOk 5)) = true ∧
        p.1.free? (usesRegs [5] [7]) = true ∧ p.1.src.ckFresh = true) ∧
      (p.1.obj? p.1.src.task.sctx = some ⟨3, 0x80000000, 1⟩ ∧ p.1.src.ctx = 1 ∧ (p.1.rd 5).toNat = 0 ∧
        0 < p.1.objLayers ⟨3, 0x80000000, 1⟩) ∧
      p.1.src.logged p.1.iss.word false = none ∧ p.1.tile.recov.phase = .run ∧ pinDepth p.1.src.core 3 0 = 0 ∧
      p.1.layerState ⟨3, 0x80000000, 1⟩ 0 = p.2) ∧
    pinDepth (layered 2 [⟨3, 0, 1⟩] 0).src.core 3 0 = 1 ∧
    (layered 2 [⟨3, 0, 1⟩] 0).tile.core.pin? 3 0 = some ⟨3, 0, 1⟩ ∧ (layered 2 [] 0).tile.core.pin? 3 0 = none ∧
    ((layered 0 [] 1).src.core.lwlim.toNat * 1024 < (layered 0 [] 1).src.lwCount) ∧
    Ready (layered 2 [] 0) 0 ((layered 2 [] 0).src.feat 4 && (layered 2 [] 0).src.regOk 5) (usesRegs [5] []) ∧
    Ready (layered 2 [] 0) 0 ((layered 2 [] 0).src.feat 4 && ((layered 2 [] 0).src.regOk 5 && (layered 2 [] 0).src.bOk (.imm 2)))
      (usesRegs [5] []) ∧ ((layered 2 [] 0).rd 6).toNat = (layered 2 [] 0).objLayers ⟨3, 0x80000000, 1⟩ := by
  unfold Ready; decide +kernel

/-- A wait whose layer's load has failed since it began. -/
theorem witness_LayerInstructions_failed :
    (let t := { (layered 0 [] 0).tile with lwOn := some (3, 0, true) }
     t.waitFailed 3 0 = true ∧ pinDepth t.core 3 0 = 0) := by decide +kernel

/-- R370: a RESIDENT layer is pinned and its staging address returned. -/
theorem test_lwait :
    shows (fun t => (t.tile.core.reg 7, t.tile.core.pins)) (exec (.lwait ⟨0, 7, 5⟩) (layered 2 [] 0)) =
      some (0x80001000, [⟨3, 0, 1⟩]) := by decide +kernel

/-- R369: the layer NL is not one of the object's. -/
theorem test_lwait_bounds :
    shows (·.iss.status) (exec (.lwait ⟨0, 7, 6⟩) (layered 2 [] 0)) = some .trapExec := by decide +kernel

/-- In supervisor mode, with an image address in s6, a base and length in s8 and s9. -/
def ruling (win : Mem) : State :=
  granted Mem.empty (issuing { tile0 with
    win := win
    core := { ((tile0.core.setReg 6 0x1000).setReg 8 0x80010000).setReg 9 0x10000 with sup := true } })

theorem witness_SystemInstructions :
    let s := ruling Mem.empty
    s.src.core.sup = true ∧ ReadyCk s 0 (s.src.regOk 6 && s.src.bOk (.imm 1)) (usesRegs [6] []) ∧ s.src.flagsBusy = false ∧
    s.src.ltile = s.tile.ltile ∧ s.memWf = true ∧ partsOf 1 ≠ [] ∧ ((partsOf 1).all fun p => s.partOk 0x1000 true p) = true ∧
    ((partsOf 1).any s.src.partBad) = false ∧ ((partsOf 1).all fun p => s.partOk 0x1000 false p) = true ∧
    Ready s 0 (s.src.pairOk 8 && s.src.bOk (.reg 6)) (usesRegs [8, 9, 6] []) ∧ s.tile.quiet = true ∧
    0x80 ≤ ((0x1080 : Word).toNat % 256) ∧
    ReadyCk s 0 (s.src.regOk 4 && s.src.pairOk 8 && s.src.bOk (.imm 49)) (usesRegs [8, 9] [4]) ∧
    s.src.logged s.iss.word false = none ∧ (s.ctx? s.src.ctx).isSome = true := by
  unfold ReadyCk Ready; decide +kernel

theorem witness_SystemInstructions_ecc :
    (ruling Mem.empty).eccOf ((partsOf 1).flatMap fun p => (List.range p.size).map fun k => 0x1000 + p.off + k) = .none := by
  decide +kernel

/-- R391: the entry is written, and near store that Mynyx did not give is refused. -/
theorem test_domw :
    reg 4 (exec (.domw ⟨0, 4, 8, .imm 49⟩) (ruling Mem.empty)) = some 1 := by decide +kernel

/-! #### Checkpoints and recovery -/

/-- A tile with one store to the near store held. -/
def holding : State := granted Mem.empty (issuing { tile0 with cq := [.store (cellsOf 0x80000000 [1, 2, 3, 4]) (0, 0)] })

theorem witness_CheckpointAndNotification :
    Settles holding holding.drain ∧ holding.tile.recov.phase = .run ∧ holding.drain.tile.poison = [] ∧
    holding.drain.tile.haltDue = false ∧ holding.drain.tile.unpins = [] ∧
    holding.drain.tile.cq = [.store (cellsOf 0x80000000 [1, 2, 3, 4]) (0, 0)] ∧ holding.drain.tile.released = [] ∧
    holding.drain.barsInUse (some (holding.drain.tile.phys, (0, 0))) = [] ∧
    Settles (regs []) (regs []).drain ∧ (regs []).drain.tile.cq = [] :=
  ⟨⟨rfl, by decide +kernel, by decide +kernel, by decide +kernel, by decide +kernel, by decide +kernel, by decide +kernel,
      by decide +kernel, by decide +kernel⟩,
    by decide +kernel, by decide +kernel, by decide +kernel, by decide +kernel, by decide +kernel, by decide +kernel,
    by decide +kernel,
    ⟨rfl, by decide +kernel, by decide +kernel, by decide +kernel, by decide +kernel, by decide +kernel, by decide +kernel,
      by decide +kernel, by decide +kernel⟩,
    by decide +kernel⟩

/-- R137: the held store is in memory after the checkpoint. -/
theorem test_checkpoint :
    shows (fun t => (t.dev.near.readNat 0x80000000 4, t.tile.cq.length)) (exec .checkpoint holding) = some (0x04030201, 0) := by
  decide +kernel

/-- A held start of the sibling at packet 3; a pin given up in the interval. -/
def starting : State := issuing { tile0 with cq := [.spawn 1 3 [7]] }

def unpinning : State := let s := layered 0x10002 [] 0; { s with tile := { s.tile with unpins := [(3, 0)] } }

theorem witness_CheckpointAndNotification_spawn :
    Settles starting starting.drain ∧ starting.drain.tile.cq = [.spawn 1 3 [7]] ∧ starting.drain.tile.unpins = [] ∧
    ((starting.drain.logical starting.drain.tile.ctx 1).map (·.phys)) = some 1 ∧ starting.drain.others.map (·.phys) = [1] ∧
    starting.drain.tile.poison = [] ∧ starting.drain.tile.haltDue = false :=
  ⟨⟨rfl, by decide +kernel, by decide +kernel, by decide +kernel, by decide +kernel, by decide +kernel, by decide +kernel,
      by decide +kernel, by decide +kernel⟩, by decide +kernel, by decide +kernel, by decide +kernel, by decide +kernel, by decide +kernel, by decide +kernel⟩

theorem witness_CheckpointAndNotification_unpin :
    Settles unpinning unpinning.drain ∧ unpinning.drain.tile.cq = [] ∧ unpinning.drain.tile.unpins = [(3, 0)] ∧
    unpinning.drain.obj? 3 = some ⟨3, 0x80000000, 1⟩ ∧ 0x80000000 ≤ entryAddr ⟨3, 0x80000000, 1⟩ 0 ∧
    unpinning.tile.recov.phase = .run ∧ unpinning.drain.tile.poison = [] ∧ unpinning.drain.tile.haltDue = false :=
  ⟨⟨rfl, by decide +kernel, by decide +kernel, by decide +kernel, by decide +kernel, by decide +kernel, by decide +kernel,
      by decide +kernel, by decide +kernel⟩, by decide +kernel, by decide +kernel, by decide +kernel, by decide +kernel,
    by decide +kernel, by decide +kernel, by decide +kernel⟩

/-- R135, R139: the sibling runs from its entry once the checkpoint is taken. -/
theorem test_spawn_starts :
    shows (fun t => ((t.getTile 1).stat, (t.getTile 1).core.pc, (t.getTile 1).core.reg 48)) (exec .checkpoint starting) =
      some (.running, 3, 7) := by decide +kernel

/-- A rerun that has reached its checkpoint point. -/
theorem witness_CheckpointAndNotification_rerun :
    (let s := issuing { tile0 with recov := { Recov.idle with phase := .rerunA } }
     Settles s s.drain ∧ s.drain.tile.inRerun = true ∧ s.drain.tile.poison = []) :=
  ⟨⟨rfl, by decide +kernel, by decide +kernel, by decide +kernel, by decide +kernel, by decide +kernel, by decide +kernel,
      by decide +kernel, by decide +kernel⟩, by decide +kernel, by decide +kernel⟩

/-- In a launch that runs in supervisor mode: held at the latest `eret`, no handler running. -/
theorem witness_Notification_supervisor :
    (let c := { tile0.core with sup := true, noteDue := 1 }
     c.inHandler = false ∧ c.noteDue ≠ 0) := by decide +kernel

/-- A notification of retired tile 5, enabled, with a handler at packet 0. -/
def notified : State :=
  issuing { tile0 with tvec := 0, notes := [.retired 5], core := { tile0.core with ntmask := 2, pc := 4 } }

theorem witness_Notification :
    notified.tile.notes = [.retired 5] ∧ notified.tile.stat = .running ∧ notified.tile.core.sup = false ∧
    notified.tile.recov.phase = .run ∧ notified.ribbonOf notified.tile.phys = none ∧ notified.tile.waitsEngine = false ∧
    notified.tile.core.ntmask.getLsbD 1 = true ∧ notified.tile.tvec ≠ 0xFFFFF ∧
    notified.drain.errorPending = false ∧ notified.drain.rankPoison = none ∧
    (let u : State := { notified with tile := { notified.tile with
      notes := []
      core := { notified.tile.core with noteDue := notified.tile.core.noteDue - 1 } } }
     EntersAlone u ∧ PoisonKnown u 0 ∧ u.drain.tile.tvec = notified.tile.tvec) := by
  refine ⟨rfl, rfl, rfl, rfl, by decide +kernel, by decide +kernel, by decide +kernel, by decide +kernel, by decide +kernel,
    by decide +kernel, ?_, by unfold PoisonKnown; decide +kernel, by decide +kernel⟩
  refine ⟨by decide +kernel, by decide +kernel, by decide +kernel, by decide +kernel, by decide +kernel, ?_, by decide +kernel⟩
  have h : ({ notified with tile := { notified.tile with
      notes := []
      core := { notified.tile.core with noteDue := notified.tile.core.noteDue - 1 } } } : State).drain.tile.cq = [] := by
    decide +kernel
  simp [h]

theorem test_notification :
    shows (fun t => (t.tile.core.ecause.toNat % 64, t.tile.core.einfo, t.tile.core.epc)) (exec .notification notified) =
      some (9, 5, 4) := by decide +kernel

/-- A tile stopped by a data error, unit 64 of its scratchpad saved. -/
def struckTile : State :=
  issuing { tile0 with
    core := tile0.core.setReg 4 9
    recov := { Recov.idle with phase := .stop }
    win := Mem.empty.writeNat 64 4 7
    rb := [⟨64, [(66, 3)], [], []⟩] }

theorem witness_RestoreAndRerun :
    struckTile.ribbonOf struckTile.tile.phys = none ∧ struckTile.tile.recov.phase = .stop ∧
    struckTile.tile.waitsEngine = false ∧
    (let x := struckTile.land1
     let d := x.tile.cq.foldl (fun y h => y.discard1 x.tile.phys h) x
     d.memWf = true ∧ d.tile.phys = struckTile.tile.phys ∧ (d.tile.rb.map (·.unit)).Nodup ∧
       ∀ u ∈ d.tile.rb, u.unit % 64 = 0 ∧ u.unit + 64 ≤ 0x1A0000 ∧ cellsWf u.cells = true) := by decide +kernel

theorem test_restore :
    shows (fun t => (t.tile.core.reg 4, t.tile.win.readNat 64 4, t.tile.recov.phase)) (exec .recoveryRestore struckTile) =
      some (0, 0x30000, .rerunA) := by decide +kernel

/-- The same tile at the end of its first rerun. -/
def rerun (p : RPhase) : State := issuing { tile0 with recov := { Recov.idle with phase := p, ended := true } }

theorem witness_RerunEnd : ∀ p ∈ [RPhase.rerunA, .rerunB],
    ((rerun p).tile.stat = .running ∧ (rerun p).tile.waitsEngine = false ∧ (rerun p).ribbonOf (rerun p).tile.phys = none ∧
      (rerun p).tile.recov.phase ≠ .stop ∧ (rerun p).drain.tile.recov.phase ≠ .stop ∧
      (rerun p).drain.tile.phys = (rerun p).tile.phys ∧ (rerun p).drain.ribbonOf (rerun p).tile.phys = none ∧
      (rerun p).drain.memWf = true) ∧
    (rerun p).tile.recov.phase = (rerun p).drain.tile.recov.phase ∧ (rerun p).tile.recov.ended = true ∧
    (rerun p).drain.tile.cq = [] ∧ (rerun p).drain.tile.unpins = [] ∧ (rerun p).drain.tile.haltDue = false := by decide +kernel

end Sys2Proof.Tests


namespace Sys2Proof.Tests

open Sys2Proof.Machine Sys2Proof.Claims
set_option Elab.async false

/-! #### Events of jobs, streams, releases and trees -/

/-- A job in slot 0 whose status goes to s20. -/
def jobOf (k : JobKind) (st : SlotState) (card : Option (List Word)) (xl : List TlbEntry) : Job where
  slot := 0
  sq := 0
  kind := k
  state := st
  tok := some 20
  cardAddr := 0x200
  card := card
  early := 0
  status := 0
  edges := []
  reads := []
  writes := []
  xl := xl
  parkVa := 0
  parkWr := false
  acks := []
  phase := 0
  scan := false
  sup := false
  frame := none
  asked := []
  sent := []

/-- A copy of 16 bytes from 0x80000000 to 0x80000100, through the on-chip aperture. -/
def copyCard : List Word :=
  [0, 0, 0x80000000, 0x01FFFFFF, 0x80000100, 0x01FFFFFF, 16] ++ List.replicate 25 0

/-- A tile with one job. -/
def working (j : Job) : State :=
  granted (words Mem.empty 0x80000000 [0x04030201])
    (issuing { tile0 with pasid := 1, jobs := [j], core := { tile0.core with tokPend := [⟨20, 0⟩] } })

/-- Where no soft error has struck, the copies of every machine agree. -/
theorem agreed_of {s : State} (h : s.dev.machines = []) (v : Voted) : Agreed s v s.counted := by
  have m : ∀ n, s.dev.machine n = ⟨n, .triplex, 0, Config.machineQueues n⟩ := fun n => by simp [Device.machine, h]
  have : (s.dev.votedBy v).struck = 0 ∧ (s.dev.votedBy v).state = .triplex := by
    cases v <;> simp [Device.votedBy, h, m]
  exact ⟨this.1, .inl ⟨this.2, rfl⟩⟩

/-- A machine that the host has stopped. -/
theorem stopped_of {s : State} {v : Voted} (hv : ∀ q, v ≠ .processor q)
    (h : s.dev.machines = [⟨Config.machineNumber v.key.1 v.key.2, .stopped, 0, []⟩]) : (s.dev.votedBy v).state = .stopped := by
  cases v <;> simp_all [Device.votedBy, Device.machine]

theorem witness_JobEvents_machines :
    (∀ j, Agreed (working j) (.walker 0) (working j).counted) ∧
    ∀ v ∈ [Voted.walker 0, .migration], (({ State.reset with dev := { Device.reset with
      machines := [⟨Config.machineNumber v.key.1 v.key.2, .stopped, 0, []⟩] } } : State).dev.votedBy v).state = .stopped := by
  refine ⟨fun j => agreed_of rfl _, fun v hv => stopped_of (fun q e => by simp [e] at hv) rfl⟩

/-- The second rerun disagrees: the firmware's copies agree on the retirement, or the firmware is stopped. -/
theorem witness_RerunEnd_firmware : Agreed (rerun .rerunB).drain .firmware (rerun .rerunB).drain.counted ∧
    ({ State.reset with dev := { Device.reset with machines := [⟨Config.machineNumber Voted.firmware.key.1 Voted.firmware.key.2,
      .stopped, 0, []⟩] } } : State).dev.votedBy .firmware = ⟨Config.machineNumber Voted.firmware.key.1 Voted.firmware.key.2,
        .stopped, 0, []⟩ :=
  ⟨agreed_of (by decide +kernel) _, by simp [Device.votedBy, Device.machine]⟩

/-- A gather whose list has still to be read. -/
theorem witness_JobEvents_scan :
    (let j := { jobOf .cgat .waiting (some copyCard) [] with scan := true }
     (working j).tile.job? 0 = some j ∧ (working j).tile.edgesLeft j = [] ∧ (working j).tile.writesPending = false) ∧
    (let t := { (working (jobOf .cpy .waiting (some copyCard) [])).tile with released := [.phaseRel 2] }
     t.writesPending = true ∧ t.returns (jobOf .cpy .waiting (some copyCard) []) = false) := by decide +kernel

/-- A copy job held, ready to leave the commit queue. -/
def heldJob : State :=
  let s := working (jobOf .cpy .held (some copyCard) [])
  { s with tile := { s.tile with cq := [.job 0] } }

theorem witness_CheckpointAndNotification_job :
    Settles heldJob heldJob.drain ∧ heldJob.drain.tile.cq = [.job 0] ∧
    heldJob.drain.tile.job? 0 = some (jobOf .cpy .held (some copyCard) []) ∧ heldJob.drain.tile.unpins = [] ∧
    heldJob.drain.tile.poison = [] ∧ heldJob.drain.tile.haltDue = false :=
  ⟨⟨rfl, by decide +kernel, by decide +kernel, by decide +kernel, by decide +kernel, by decide +kernel, by decide +kernel,
      by decide +kernel, by decide +kernel⟩, by decide +kernel, by decide +kernel, by decide +kernel, by decide +kernel,
    by decide +kernel⟩

/-- R227: the job waits once it has left the queue. -/
theorem test_job_released : shows (fun t => (t.tile.job? 0).map (·.state)) (exec .checkpoint heldJob) = some (some .waiting) := by
  decide +kernel

theorem witness_JobEvents :
    (working (jobOf .cpy .waiting (some copyCard) [])).tile.edgesLeft (jobOf .cpy .waiting (some copyCard) []) = [] ∧
    (working (jobOf .cpy .waiting (some copyCard) [])).tile.writesPending = false ∧
    (let j := jobOf .cpy .running (some copyCard) []
     (working j).jobMiss (working j).tile j = some (apertureBase + 0x80000000, false) ∧
     (working j).walk 1 (apertureBase + 0x80000000) = some (apertureLeaf 1)) ∧
    (let j := jobOf .cpf .running (some ([0, 0, 0x1000, 0, 0x80000100, 0x01FFFFFF, 16] ++ List.replicate 25 0)) []
     (working j).jobMiss (working j).tile j = some (0x1000, false) ∧ (working j).walk 1 0x1000 = none) ∧
    (let j := jobOf .cpy .running (some copyCard) [apertureLeaf 1]
     let s := working j
     s.tile.job? 0 = some j ∧ (Card.ofWords copyCard).mode = 0 ∧ (Card.ofWords copyCard).sf = 0 ∧ s.memWf = true ∧ j.acks = [] ∧ j.phase ≠ 2 ∧
     s.barsInUse none = [] ∧ s.jobStatus s.tile j (Card.ofWords copyCard) = 0 ∧ ∀ k, k < 16 →
       s.jobLoc s.tile j ((Card.ofWords copyCard).src + k) = some (.chip (0x80000000 + k)) ∧
       s.jobLoc s.tile j ((Card.ofWords copyCard).dst + k) = some (.chip (0x80000100 + k))) ∧
    (let j := jobOf .cfence .running none []
     (working j).tile.job? 0 = some j ∧ j.card = none ∧ j.early = 0 ∧ j.tok ≠ none) := by decide +kernel

/-- R214, R234: the bytes are copied and the token lands 0. -/
theorem test_job_complete :
    shows (fun t => (t.dev.near.readNat 0x80000100 4, t.tile.core.reg 20, t.tile.jobs.length))
      (exec (.jobComplete 0) (working (jobOf .cpy .running (some copyCard) [apertureLeaf 1]))) = some (0x04030201, 0, 0) := by
  decide +kernel

/-- A page of 4 KiB at virtual address 0 in host memory at 0x5000, its tables in LPDDR at 0x10000 and on. -/
def paged : State :=
  let s := working (jobOf .cpy .waiting none [])
  let pte (pfn flags : Nat) : Nat := pfn * 2 ^ 12 + flags
  let lp := ((((Mem.empty.writeNat 0x10000 8 (pte (0x11000 / 2 ^ 11) 1)).writeNat 0x11000 8 (pte (0x12000 / 2 ^ 11) 1)).writeNat
    0x12000 8 (pte (0x13000 / 2 ^ 11) 1)).writeNat 0x13000 8 (pte (0x14000 / 2 ^ 11) 1)).writeNat 0x14000 8
    (pte (0x5000 / 2 ^ 11) 0x3B)
  { s with dev := { s.dev with lpddr := lp, ctxs := s.dev.ctxs.map fun c => { c with ptroot := 0x10000 } } }

theorem witness_JobEvents_migration :
    (let m : MigrateArgs := ⟨1, 0, 0, 2, 0, 0x7000⟩
     let e : TlbEntry := { pasid := 1, va := 0, t := 0, base := 0x5000, cls := 2, dev := 0, w := true, rd := true, cnt := false }
     paged.walk m.pasid m.va = some e ∧ paged.ptroot 1 = some 0x10000 ∧ e.t = m.t ∧ paged.memWf = true ∧
     m.base % 2 ^ (12 + e.t) = 0 ∧ paged.dev.classMem 2 0 0x5000 = some (paged.dev.hostMem, 0x5000) ∧
     paged.dev.classMem 2 0 0x7000 = some (paged.dev.hostMem, 0x7000) ∧
     tableGo paged.dev.lpddr 1 0 0 4 0x10000 = some 0x14000 ∧ paged.dev.hostMem.undef = []) := by decide +kernel

theorem witness_StreamEvents :
    (let q : Port := ⟨true, false, (List.replicate 16 0).set 2 8, 8, 0, [], false, 0⟩
     let s := { streaming with tile := { streaming.tile with core := streaming.tile.core.setPort 0 q } }
     let p := s.tile.core.port 0
     s.tile.portLoading = false ∧ (∀ r, r < 12 → s.tile.outPending r = false) ∧ p.bound = true ∧ p.out = false ∧ p.fifo.length < 8 ∧ p.pos + p.fifo.length < p.total ∧
     (s.tile.mq.any XOp.isTst) = false ∧
     ∀ i, i < 64 → ({ s with src := s.tile }).eccByte (p.addrOf (p.pos + p.fifo.length) + i) = .none) := by decide +kernel

/-- Output port 1 with one vector written. -/
def outgoing (base : Word) : State :=
  let p : Port := ⟨true, true, [1, base, 8, 0, 0, 0, 64, 0, 0, 0, 0, 0, 0, 0, 0, 0], 8, 1, [Vector.replicate 16 5], false, 1⟩
  issuing { tile0 with core := tile0.core.setPort 1 p }

theorem witness_StreamEvents_land :
    ((outgoing 0x400).tile.core.port 1).bound = true ∧ ((outgoing 0x400).tile.core.port 1).out = true ∧
    ((outgoing 0x400).tile.core.port 1).fifo = [Vector.replicate 16 5] ∧ (outgoing 0x400).memWf = true ∧
    (outgoing 0x400).tile.stat = .running ∧ ((outgoing 0x400).tile.core.port 1).addrOf 0 = 0x400 ∧
    (outgoing 0x400).tile.ownOff 0x400 = some 0x400 := by decide +kernel

theorem witness_StreamEvents_held :
    ((outgoing 0x80000000).tile.core.port 1).addrOf 0 = 0x80000000 ∧ (outgoing 0x80000000).tile.ownOff 0x80000000 = none := by
  decide +kernel

/-- An action released. -/
def releasing (h : Held) : State :=
  granted (words Mem.empty 0x80000400 [0x00020002, 0, 0, 0]) (issuing { tile0 with released := [h] })

/-- What `Acts` asks of the only released action. -/
theorem acts_of {h : Held} (m : (releasing h).tile.canPerform 0 = true) (w : h.isWrite = false) : Acts (releasing h) 0 h :=
  ⟨rfl, m, rfl, by simpa [releasing, granted, issuing] using w,
    show (releasing (.phaseRel 0)).memWf = true by decide +kernel⟩

theorem witness_ReleaseEvents :
    Acts (releasing (.barv 2 0x80000400 1 0)) 0 (.barv 2 0x80000400 1 0) ∧
    Acts (releasing (.bartx 2 0x80000400 1 64)) 0 (.bartx 2 0x80000400 1 64) ∧
    Acts (releasing (.cadd 2 0x80000400 1)) 0 (.cadd 2 0x80000400 1) ∧ Acts (releasing (.phaseRel 2)) 0 (.phaseRel 2) ∧
    Acts (releasing (.trig 0)) 0 (.trig 0) ∧ tile0.task.spawned = false ∧
    Acts (releasing (.stf (cellsOf 0x100 [1, 2, 3, 4]) 0x108 (0, 0))) 0 (.stf (cellsOf 0x100 [1, 2, 3, 4]) 0x108 (0, 0)) ∧
    Acts (releasing (.streamDone 0x80000400 1)) 0 (.streamDone 0x80000400 1) :=
  ⟨acts_of (by decide +kernel) rfl, acts_of (by decide +kernel) rfl, acts_of (by decide +kernel) rfl,
    acts_of (by decide +kernel) rfl, acts_of (by decide +kernel) rfl, rfl, acts_of (by decide +kernel) rfl,
    acts_of (by decide +kernel) rfl⟩

theorem witness_ReleaseEvents_places :
    (0x80000400 % 16 + 16 ≤ 16 ∧ 0x80000000 ≤ 0x80000400 ∧ 0x80000400 < 0x100000000) ∧
    (∀ a ∈ [0x100, 0x108], (releasing (.phaseRel 2)).tile.ownOff a = some a) ∧
    (releasing (.stf (cellsOf 0x100 [1, 2, 3, 4]) 0x108 (0, 0))).barsInUse (some (0, (0, 0))) = [] ∧
    (releasing (.phaseRel 2)).tile.canon 0x100 + 4 ≤ (releasing (.phaseRel 2)).tile.canon 0x108 := by decide +kernel

/-- R249: an arrival of one of two. -/
theorem test_barv :
    shows (fun t => t.dev.near.readNat 0x80000400 4) (exec (.releasePerform 0) (releasing (.barv 2 0x80000400 1 0))) =
      some 0x00020001 := by decide +kernel

/-- R193: data, then the flag. -/
theorem test_stf :
    shows (fun t => (t.tile.win.readNat 0x100 4, t.tile.win.readNat 0x108 4))
      (exec (.stfRelease 0) (releasing (.stf (cellsOf 0x100 [1, 2, 3, 4]) 0x108 (0, 0)))) = some (0x04030201, 1) := by decide +kernel

/-- The tree with both members' posts of segment 0 released, tile 0's source at 0x300 with its result for 0x80002000. -/
def posted (read : Bool) (rcv : Nat) : Tree :=
  { pairTree with posts := [⟨0, 0, 0, 0, 0x300, 64, rcv, 0, read, true⟩, ⟨0, 0, 1, 0, 0x300, 64, 0, 0, read, true⟩] }

/-- A running post of tile 0. -/
def posting (tr : Tree) : State :=
  let s := working (jobOf (.post 0x1005) .running none [])
  { s with dev := { s.dev with trees := [tr] } }

theorem witness_TreeEvents_tile (tr : Tree) :
    (posting tr).logical 1 0 = some (posting tr).tile ∧ (posting tr).getTile 0 = (posting tr).tile := ⟨rfl, rfl⟩

theorem witness_TreeEvents_post : ∀ rcv ∈ [0, 0x80002000],
    (posting (posted false rcv)).tile.job? 0 = some (jobOf (.post 0x1005) .running none []) ∧
    ((posting (posted false rcv)).postOf (posting (posted false rcv)).tile 0).isSome = true ∧
    (posting (posted false rcv)).treeFrozen (posted false rcv) = false ∧
    (posting (posted false rcv)).pathDown (posted false rcv) 0 = false ∧
    ((posted false rcv).posts.all fun p => !(posted false rcv).sendsLater p) = true ∧
    ∀ i, i < 64 → (posting (posted false rcv)).mapBad 1 0 (0x300 + i) 1 = none := by decide +kernel

/-- The tree with child 0's data on its way to node 0, whose record is there or missing. -/
def flying (present : Bool) : Tree :=
  { pairTree with
    nodes := [⟨0, 0, 0, present, !present, 0, [], []⟩]
    flight := [⟨0, 0, 0, [1, 2]⟩] }

theorem witness_TreeEvents_flit :
    (∀ p ∈ [true, false], (posting (flying p)).tree? 5 = some (flying p) ∧ (posting (flying p)).treeFrozen (flying p) = false ∧
      ((flying p).flight.find? fun d => decide (d.node = 0) && decide (d.child = 0) && decide (d.seg % 2 ^ 32 = 0)) =
        some ⟨0, 0, 0, [1, 2]⟩ ∧ ((flying p).node 0 0).present = p ∧ ((flying p).node 0 0).missing = !p) ∧
    ({ flying true with flight := [] }.accept ⟨0, 0, 0, [1, 2]⟩).isSome = true := by decide +kernel

theorem witness_TreeEvents_refill : Agreed (posting (flying false)) .refill (posting (flying false)).counted ∧
    (((flying false).nodes.find? fun x => decide (x.node = 0) && x.missing).map (·.eff)) = some 0 := ⟨agreed_of rfl _, rfl⟩

/-- Four later segments at the node and data of segment 4: it waits at the child's output. -/
theorem witness_TreeEvents_full :
    (let tr := { flying true with nodes := [⟨0, 0, 0, true, false, 0, (List.range 4).map fun k => ⟨k, 0, [], [], []⟩, []⟩] }
     (tr.accept ⟨0, 0, 4, [1, 2]⟩).isNone) = true := by decide +kernel

/-- The tree with the result of segment 0. -/
def answered : Tree := { posted true 0x80002000 with results := [(0, [7, 8])] }

theorem witness_TreeEvents_delivery :
    let s := posting answered
    s.tree? 5 = some answered ∧ s.treeFrozen answered = false ∧
    (answered.posts.find? fun p => decide (p.seg % 2 ^ 32 = 0) && decide (p.tile = 0) && p.read && decide (p.rcv ≠ 0) &&
      answered.results.any fun r => decide (r.1 = p.seg)) =
      some ⟨0, 0, 0, 0, 0x300, 64, 0x80002000, 0, true, true⟩ ∧
    (answered.results.find? fun r => decide (r.1 = 0)) = some (0, [7, 8]) ∧
    (s.getTile 0).job? 0 = some (jobOf (.post 0x1005) .running none []) ∧ (s.getTile 0).stat = .running ∧ s.memWf = true ∧
    s.dev.near.bad = [] ∧ 0x80002000 + (tBytes 0 3 [7, 8]).length ≤ 0x100000000 := by decide +kernel

theorem test_delivery :
    shows (fun t => (t.dev.near.readNat 0x80002000 4, t.dev.near.readNat 0x80002004 4, t.tile.core.reg 20))
      (exec (.treeDelivery 5 0 0) (posting answered)) = some (7, 8, 0) := by decide +kernel

theorem witness_TreeEvents_freeze :
    (let tr := { pairTree with freezing := some 0x80003000 }
     (posting tr).tree? 5 = some tr ∧ tr.freezing = some 0x80003000 ∧ (posting tr).memWf = true) ∧
    (let tr := { pairTree with frozen := true, thawing := some 0x80003000 }
     (posting tr).tree? 5 = some tr ∧ tr.thawing = some 0x80003000) := by decide +kernel

end Sys2Proof.Tests


namespace Sys2Proof.Tests

open Sys2Proof.Machine Sys2Proof.Claims
set_option Elab.async false

/-! #### Lelum, layers, commands and the platform -/

/-- Device 7; port 9 is joined to device 9 in the first of two slots, port 2 to device 8 in the second. Pair 9 has sent flit 3 and
owes an acknowledgement; port 0's inputs are in each state; a flit for device 8 is held for relay. -/
def flit (dst sq type : Nat) : Flit := mkFlit (flitHeader dst 9 sq type 0 0 0) (List.replicate 128 0)

def lelum : State :=
  { State.reset with dev := { Device.reset with
    devid := 7
    rotor := some [List.replicate 9 none ++ [some (9, 4)], [none, none, some (8, 0)]]
    pairs := [⟨9, 9, 4, [mkFlit (flitHeader 9 7 3 0 0 0 0) (List.replicate 128 0)], [], [], 0, [], true, 0, false, none⟩]
    lports := [⟨0, #v[.lit, .fading, .dark, .waking], 5, 0, false⟩]
    relay := [flit 8 0 1] } }

theorem witness_LelumEvents :
    (lelum.dev.rotor).map List.length = some 2 ∧ ({ flit 7 0 1 with crc := 0 } : Flit).crcOk = false ∧
    (let f := flit 8 0 1
     f.crcOk = true ∧ f.type < 3 ∧ f.dst ≠ lelum.dev.devid.toNat ∧ f.hop = 0 ∧ 1 ≤ f.hopped.hop ∧ lelum.regionFull = false) ∧
    ((flit 7 0 2).dst = lelum.dev.devid.toNat ∧ (flit 7 0 2).type = 2 ∧ (flit 7 0 2).crcOk = true) ∧
    ((flit 7 0 1).crcOk = true ∧ ahead lelum (flit 7 0 1) = 0 ∧ (lelum.pair 9).reorder = []) ∧
    ((flit 7 2 1).crcOk = true ∧ 0 < ahead lelum (flit 7 2 1) ∧ ahead lelum (flit 7 2 1) < 2 ^ 23) ∧
    ((flit 7 0xFFFFFF 1).crcOk = true ∧ 2 ^ 23 ≤ ahead lelum (flit 7 0xFFFFFF 1)) ∧
    (lelum.pair 9).owed = true ∧ lelum.carries (lelum.pair 9).port 9 = true ∧ (lelum.pair 9).unacked ≠ [] ∧
    (lelum.pair 9).unreachable = false ∧ lelum.dev.evRing = none ∧ lelum.treePosts 9 = [] ∧
    (lelum.lport 0).inputs.getD 1 .dark = .fading ∧ (lelum.lport 0).inputs.getD 3 .dark = .waking ∧
    (lelum.dev.pairs.map (·.dev)).Nodup := by decide +kernel

/-- A port that the slot joins to none; and one post of a tree with a member on the unreachable device. -/
theorem witness_LelumEvents_pairs :
    ({ lelum with dev := { lelum.dev with rotorSlot := 1 } } : State).carries 9 9 = false ∧
    (let tr := { posted false 0 with
       descs := [⟨0, 0, [⟨0, 0, 0, 0⟩, ⟨9, 1, 1, 0⟩], [0xFFFF]⟩]
       posts := [⟨0, 0, 0, 0, 0x300, 64, 0, 0, false, true⟩] }
     let s := posting tr
     let s := { s with dev := { s.dev with pairs := lelum.dev.pairs } }
     s.treePosts 9 = [(5, ⟨0, 0, 0, 0, 0x300, 64, 0, 0, false, true⟩)] ∧
     ((s.getTile 0).job? 0).isSome = true ∧ (s.getTile 0).stat = .running ∧ (s.pair 9).unacked ≠ []) := by decide +kernel

/-- R342: an acknowledgement of 4 covers flit 3. -/
theorem test_ack : shows (fun t => (t.pair 9).unacked) (exec (.ackReceive 9 4) lelum) = some [] := by decide +kernel

/-- R336: the relayed flit leaves in the slot that joins its destination, on the port's first wavelength, one hop later. -/
theorem test_relay :
    shows (fun t => t.dev.sent.map fun x => (x.port, x.wave, x.peer, x.flit.dst)) (exec .rotorSlotStart
      { lelum with dev := { lelum.dev with pairs := [] } }) = some [(2, 0, 8, 8)] := by decide +kernel

/-- R339: the published check value of this CRC-64, over the characters 1 to 9. -/
theorem test_crc64 : crc64 ((List.range 9).map fun i => BitVec.ofNat 8 (0x31 + i)) = 0x62EC59E3F1A4F00A := by decide +kernel

/-- The object of two layers with a request for layer 0, or its load; the context has a page of host memory at address 0. -/
def loadQueue (prio : Nat) (wsrc : Nat) (loading : Bool) : State :=
  let s := layered (if loading then 1 else 0) [] 0
  let near := (s.dev.near.writeNat 0x80000004 4 (2 + prio * 2 ^ 16)).writeNat 0x80000040 8 wsrc
  let near := (near.writeNat 0x80000050 4 0x00010303).writeNat 0x80000054 4 16
  { s with dev := { s.dev with
    near := near
    lpddr := paged.dev.lpddr
    ctxs := s.dev.ctxs.map fun c => { c with
      ptroot := 0x10000
      grants := Vector.replicate 16 ⟨0, 0, 0⟩
      alloc := #v[(0x80000000, 0x10000), (0, 0), (0, 0), (0, 0)] }
    reqs := if loading then [] else [⟨3, 0, true, 0⟩]
    loading := if loading then [⟨3, 0, true, 0⟩] else [] } }

theorem witness_LayerEvents :
    (∀ w ∈ [0x40, 0x41], let s := loadQueue 3 w false
     s.dev.loading.length < 8 ∧ s.dev.reqs = [⟨3, 0, true, 0⟩] ∧ s.obj? 3 = some ⟨3, 0x80000000, 1⟩ ∧ s.memWf = true ∧
     s.dev.evRing = none ∧ s.loadRefused ⟨3, 0x80000000, 1⟩ 0 = (if w = 0x40 then none else some 1)) ∧
    (∀ w ∈ [0x40, 0x41], (loadQueue 3 w false).startRoom ⟨3, 0x80000000, 1⟩ 0 = some []) ∧
    (let s := loadQueue 3 0x40 true
     s.loadingLayer 3 0 = some (⟨3, 0x80000000, 1⟩, ⟨3, 0, true, 0⟩) ∧ s.memWf = true ∧ s.dev.evRing = none ∧
     s.loadFails ⟨3, 0x80000000, 1⟩ ⟨3, 0, true, 0⟩ = none ∧
     0x80000000 + 64 * (s.objLayers ⟨3, 0x80000000, 1⟩ + 1) ≤ s.layerStage ⟨3, 0x80000000, 1⟩ 0) ∧
    (loadQueue 3 0x1000 true).loadFails ⟨3, 0x80000000, 1⟩ ⟨3, 0, true, 0⟩ = some 3 := by decide +kernel

theorem witness_LayerEvents_machines : ∀ w b, Agreed (loadQueue 3 w b) .layers (loadQueue 3 w b).counted :=
  fun _ _ => agreed_of rfl _

/-- R362: ABSENT to LOADING. -/
theorem test_load_start :
    shows (fun t => (t.layerState ⟨3, 0x80000000, 1⟩ 0, t.dev.reqs.length)) (exec .layerLoadStart (loadQueue 3 0x40 false)) =
      some (1, 0) := by decide +kernel

theorem witness_LayerEvents_rest :
    (let s := issuing { tile0 with lwCount := 2000, core := { tile0.core with pc := 4, lwlim := 1 } }
     let s := { s with iss := { s.iss with raw := 0x5C01C500 } }
     s.tile.stat = .running ∧ s.tile.core.lwlim ≠ 0 ∧ 1024 * s.tile.core.lwlim.toNat < s.tile.lwCount ∧
     s.iss.pc = s.tile.core.pc ∧ (decodeWord s.iss.raw).toOption = some (.lwait ⟨0, 7, 5⟩)) ∧
    (let d := { Device.reset with machines := [⟨2, .resync, 0, []⟩, ⟨3, .stopped, 0, []⟩] }
     (d.machine 2).state = .resync ∧ (d.machine 2).struck = 0 ∧ (d.machine 3).state = .stopped) := by decide +kernel

/-- A fetched command. -/
def cmdOf (sq : Nat) (l : List Word) : Cmd := ⟨sq, l ++ List.replicate (16 - l.length) 0, .fetched, 0, false, 0, [], 0, none, [], []⟩

/-- The device in operation, with queue 0, privileged, and queue 1 of context 1, each with one fetched command. -/
def commanding (c : Cmd) (f : Device → Device) : State :=
  let s := granted Mem.empty (regs [])
  let q (n : Nat) : Queue := ⟨n, 0x1000, 4, n = 0, if n = 0 then 0 else 1, 0, 0, 0, c.sq + 1, .active, 0, 0, [c]⟩
  { s with dev := f { s.dev with host := { s.dev.host with stage := 6 }, queues := [q 0, q 1] } }

/-- What `Turn` asks, as one check. -/
def turned (s : State) (q sq typ sub : Nat) (f : Queue → Cmd → Bool) : Bool :=
  match s.queue? q, s.cmd? q sq with
  | some x, some c => c.typ == typ && c.sub == sub && s.mayStart x c && c.bodyOk && f x c
  | _, _ => false

theorem turn_of {s : State} {q sq typ sub : Nat} {f : Queue → Cmd → Bool} (h : turned s q sq typ sub f = true)
    (m : s.dev.machines = []) : ∃ x c, Turn s s.counted q sq typ x c ∧ c.sub = sub ∧ f x c = true := by
  unfold turned at h
  split at h
  · rename_i x c hx hc
    simp only [Bool.and_eq_true, beq_iff_eq] at h
    exact ⟨x, c, ⟨hx, hc, h.1.1.1.1, h.1.1.2, h.1.2, agreed_of m _⟩, h.1.1.1.2, h.2⟩
  · cases h

theorem witness_Commands :
    turned (commanding (cmdOf 0 [8]) id) 0 0 8 0 (fun x c => (x.cmds.all fun e => decide (0 ≤ e.sq)) &&
      decide (c.word 0 / 2 ^ 8 % 2 = 0)) = true ∧
    turned (commanding (cmdOf 0 [0x108, 0, 0x2000]) id) 0 0 8 0 (fun _ c => decide (c.word 0 / 2 ^ 8 % 2 = 1)) = true ∧
    turned (commanding (cmdOf 0 [3, 0, 0, 0, 0x2000, 0, 5]) id) 0 0 3 0 (fun _ c => decide (c.dword 0x10 % 8 = 0)) = true ∧
    turned (commanding (cmdOf 0 [4, 0, 0, 0, 0x2000]) id) 0 0 4 0 (fun _ c => decide (c.dword 0x10 % 8 = 0)) = true ∧
    turned (commanding (cmdOf 0 [4, 0, 0, 0, 0x2000, 0, 5]) id) 0 0 4 0 (fun _ c => decide (c.dword 0x10 % 8 = 0)) = true ∧
    turned (commanding (cmdOf 0 [7, 0, 0, 0, 3]) id) 0 0 7 0 (fun x _ => x.priv) = true := by decide +kernel

theorem witness_Commands_fetch :
    let s := commanding (cmdOf 0 [8]) fun d => { d with host := { d.host with dbell := [(0, 2)] } }
    (s.queue? 0).isSome = true ∧ s.dev.host.stage = 6 ∧ 1 % 2 ^ 4 ≠ s.dev.doorbell 0 % 2 ^ 4 ∧
    ((s.queue? 0).map fun x => (x.head, x.logn, x.cmds.find? fun c => !c.known && s.mayStart x c)) = some (1, 4, none) := by
  decide +kernel

/-- The machines of `commanding` agree; a WAIT under way; a command whose machine is stopped, and one whose machine is not. -/
theorem witness_Commands_machines :
    (∀ c v, Agreed (commanding c id) v (commanding c id).counted) ∧
    (let s := commanding { cmdOf 0 [4, 0, 0, 0, 0x2000] with state := .started } id
     ((s.cmd? 0 0).map fun c => decide (c.typ = 4) && decide (c.state = .started) && decide (c.dword 0x18 = 0)) = some true) ∧
    (let s := commanding (cmdOf 0 [8]) fun d => { d with machines := [⟨5, .stopped, 0, [0, 1]⟩] }
     ((s.cmd? 0 0).map fun c => decide ((s.dev.votedBy (c.by 0)).state = .stopped)) = some true) :=
  ⟨fun _ _ => agreed_of rfl _, by decide +kernel, by decide +kernel⟩

/-- R400: a SIGNAL adds 5 to its counter. -/
theorem test_signal :
    shows (fun t => t.dev.hostMem.readNat 0x2000 8) (exec (.signal 0 0) (commanding (cmdOf 0 [3, 0, 0, 0, 0x2000, 0, 5]) id)) =
      some 5 := by decide +kernel

/-- R399: the completion word of a FENCE with NTF, sequence number 3. -/
theorem test_completion :
    shows (fun t => t.dev.hostMem.readNat 0x2000 8) (exec (.fence 0 3) (commanding (cmdOf 3 [0x108, 0, 0x2000]) id)) = some 3 := by
  decide +kernel

/-- The card of a COPY at 0x80005000, through the aperture. -/
def copying : State :=
  commanding (cmdOf 0 [2, 0, 0, 0, 0x80005000, 0x01FFFFFF]) fun d =>
    { d with
      near := words (words Mem.empty 0x80000000 [0x04030201]) 0x80005000 (copyCard.map BitVec.toNat)
      xtlb := [apertureLeaf 1] }

/-- Every byte of the copy is translated to its place. -/
def translated (v : State) (t : Tile) (j : Job) : Bool :=
  (List.range 16).all fun k =>
    v.jobLoc t j (j.cardOf.src + k) == some (.chip (0x80000000 + k)) && v.jobLoc t j (j.cardOf.dst + k) == some (.chip (0x80000100 + k))

/-- What a COPY of its card asks. -/
def copyMeets (u : State) (c : Cmd) (k : Ctx) (bs : List Byte) : Bool :=
  let j := migrationJob 1 c ((List.range 32).map fun i => BitVec.ofNat 32 (fieldAt bs (4 * i) 4))
  let v := { u with free := u.free + 2 }
  let t := u.migrator k
  c.early == 0 && c.acks.isEmpty && c.phase == 0 && u.barsInUse none == [] && c.dword 0x10 % 16 == 0 && j.cardOf.mode == 0 && j.cardOf.ext.getD 0 0 == 16 &&
    !j.cardOf.refused .cpy [] && v.jobStatus t j j.cardOf == 0 && translated v t j

theorem witness_Commands_copy :
    turned copying 1 0 2 0 (fun x c =>
      let u := copying.counted.beginCmd 1 c
      match u.ctx? x.ctx with
      | none => false
      | some k =>
        match u.cmdRead k.pasid (c.dword 0x10) 128 with
        | .error _ => false
        | .ok bs => copyMeets u c k bs) = true ∧
    copying.memWf = true := by decide +kernel

/-- A header with no reserved bit, then the image's VA. -/
def launchBlock : List Nat :=
  [0x0101, 0, 1, 0, 0, 0, 0x00000440, 1, 0x1000, 0, 0, 0, 0, 0, 0, 0, 0x80006000, 0x01FFFFFF, 0, 0, 0, 0, 0, 0, 0, 0]

/-- A launch block at 0x80005000: one identifier field of no bits, image of one packet at 0x80006000. -/
def launching : State :=
  commanding (cmdOf 0 [1, 0, 0, 0, 0x80005000, 0x01FFFFFF, 1]) fun d =>
    { d with near := words Mem.empty 0x80005000 launchBlock }

theorem witness_Commands_launch :
    turned launching 1 0 1 0 (fun x c =>
      let u := launching.counted.beginCmd 1 c
      match u.ctx? x.ctx with
      | none => false
      | some k =>
        match u.cmdRead k.pasid (c.dword 0x10) 0x68 with
        | .error _ => false
        | .ok lb =>
          let h := Header.ofBytes lb
          let list := u.placements k.num (if c.word 0x20 % 65536 = 0 then k.ntile else c.word 0x20 % 65536) h.rlen
          x.depOk c && (h.refused (c.dword 0x18)).isNone && decide (c.dword 0x18 ≠ 0) && decide (list = [0, 1]) &&
            (match u.cmdRead k.pasid (fieldAt lb 0x40 8) (12 * h.size) with
              | .ok _ => true
              | .error _ => false) &&
            (u.codeRoom h.size).isSome && decide (u.dev.binds.length + (u.bindsOf k.num u.dev.lseq h.rlen list).length ≤ 4096) &&
            (u.launch? 1 0).isNone && decide (fieldAt lb 0x58 4 = 0) && decide (fieldAt lb 0x5C 4 = 0)) = true := by
  decide +kernel

/-- R400, R122: the launch is started, and its first identifier binds to an idle tile. -/
theorem test_launch :
    shows (fun t => (t.dev.launches.map fun l => (l.n, l.list, l.started))) (exec (.launch 1 0) launching) =
      some [(1, [0, 1], true)] := by decide +kernel

/-- A launch ready to bind on the idle sibling. -/
def binding (started : Bool) (dep : Option Nat) : State :=
  commanding (cmdOf 0 [1]) fun d => { d with
    launches := [⟨1, 0, 1, 0, [], { Task.none with q := 1 }, 5, 2, 0, [1], 0, 0, dep, started, [0], ⟨0, 0, 0, 0, 0, 0⟩⟩]
    binds := [⟨1, 1, 1, true, 0, 0, 0⟩] }

theorem witness_Commands_bind :
    (((binding true none).dev.launches[0]?).map fun l => l.started && decide (l.next < l.n) && decide (l.task.rlen = 1) &&
      (binding true none).ctxRuns l.ctx &&
      decide (((binding true none).bindPlace l).map (fun x => (x.1, x.2.map (·.phys))) = some (0, [1]))) = some true ∧
    (((binding false none).dev.launches[0]?).map fun l => !l.started && (binding false none).depMet l && (binding false none).ctxRuns l.ctx &&
      decide (l.image.spadSz = 0) && decide (l.image.nearSz = 0)) = some true ∧
    (((binding false (some 0)).dev.launches[0]?).map fun l => (binding false (some 0)).depMet l) = some false := by
  decide +kernel

theorem test_task_bind :
    shows (fun t => ((t.getTile 1).stat, (t.getTile 1).core.pc, (t.dev.launches.map (·.next)))) (exec (.taskBind 0) (binding true none)) =
      some (.running, 5, [1]) := by decide +kernel

theorem witness_Commands_tree : ∀ p ∈ [(0 : Nat), 1, 2],
    turned (commanding (cmdOf 0 [5 + BitVec.ofNat 32 p * 0x10000, 0, 0, 0, 0x80007000, 0, 0, 0, 1]) id) 1 0 5 p
      (fun x c => decide (c.dword 0x18 = 0) && decide (c.word 0x20 = x.ctx) && decide (c.word 0x10 % 64 = 0) &&
        (commanding (cmdOf 0 [5]) id).nearRange 1 (c.word 0x10) 64) = true := by decide +kernel

/-- A CTX command of queue 0 with its body. -/
def ctxCmd (sub : Word) (body : List Word) (f : Device → Device) : State :=
  commanding (cmdOf 0 ([6 + sub * 0x10000, 0, 0, 0] ++ body)) f

theorem witness_ContextCommands :
    turned (ctxCmd 0 [0x00020002, 2, 0x10000, 0, 0x20000, 0] id) 0 0 6 0 (fun x c => x.priv &&
      decide (c.word 0x10 / 2 ^ 16 % 1024 = 2) && ((ctxCmd 0 [] id).ctx? 2).isNone && decide (c.dword 0x20 % 4096 = 0)) = true ∧
    turned (ctxCmd 1 [1] id) 0 0 6 1 (fun x c => x.priv && ((ctxCmd 1 [] id).ctx? (c.word 0x10)).isSome) = true ∧
    turned (ctxCmd 2 [1] id) 0 0 6 2 (fun _ c => ((ctxCmd 2 [] id).queue? (c.word 0x10)).any fun y => decide (y.state ≠ .dead)) = true ∧
    turned (ctxCmd 5 [1] fun d => { d with queues := d.queues.map fun x => { x with state := .faulted } }) 0 0 6 5
      (fun x c => x.priv && decide (c.word 0x10 = 1)) = true ∧
    turned (ctxCmd 6 [1, 0x80010000, 0x10000] id) 0 0 6 6 (fun x c => x.priv && decide (c.word 0x14 % 65536 = 0)) = true ∧
    turned (ctxCmd 10 [0x08080808, 0x08080808] id) 0 0 6 10 (fun x _ => x.priv) = true ∧
    turned (ctxCmd 11 [1, 0, 0x1000, 0, 0x1000, 0] id) 0 0 6 11 (fun x c => decide (c.dword 0x20 % 4096 = 0) && x.priv) = true ∧
    turned (ctxCmd 13 [0x3000, 0, 4] id) 0 0 6 13 (fun x c => x.priv && decide (c.word 0x18 = 4)) = true := by decide +kernel

theorem witness_ContextCommands_objects :
    turned (ctxCmd 4 [0x4000, 0] fun d => { d with
        queues := d.queues.take 1
        hostMem := words Mem.empty 0x4000 [0, 0, 0x4004, 0, 0, 0, 0, 0] }) 0 0 6 4 (fun x c => x.priv && decide (c.dword 0x10 % 64 = 0) &&
      (queueOf 0 (bytesOfNat 8 0 ++ bytesOfNat 4 0x4004)).descOk) = true ∧
    turned (ctxCmd 7 [1, 1, 0, 0, 0x5000, 0] id) 0 0 6 7 (fun x c => x.priv && decide (c.dword 0x20 % 4096 = 0) &&
      ((ctxCmd 7 [] id).runningCtx (c.word 0x10)).isSome && ((ctxCmd 7 [] id).codeRoom 1).isSome) = true ∧
    turned (ctxCmd 8 [1, 0x80000000] id) 0 0 6 8 (fun x c => x.priv && decide (c.word 0x14 % 64 = 0)) = true ∧
    turned (ctxCmd 9 [3] fun d => { d with objs := [⟨3, 0x80000000, 1⟩] }) 0 0 6 9 (fun x c => x.priv && decide (c.word 0x10 = 3)) =
      true ∧
    (let s := layered 0 [] 0
     (s.dev.objs.head?.map fun o => s.objLayers o) = some 2) := by decide +kernel

/-- A parked job of tile 0, answered by CTX FAULT. -/
theorem witness_ContextCommands_fault :
    let j := { jobOf .cpy .parked (some copyCard) [] with parkVa := 0x1000 }
    let s := ctxCmd 12 [1, 0, 0, 1] id
    let s := { s with tile := { s.tile with jobs := [j] } }
    turned s 0 0 6 12 (fun x c => x.priv && decide (c.word 0x18 = 0)) = true ∧
    ((s.logical 1 0).bind fun y => y.job? 0) = some j := by decide +kernel

/-- Context 2, saved with image number 9 at 0x100000 in host memory, here or by another device; and the RESTORE of it. -/
def pausedCtx (c : Ctx) : Ctx :=
  { c with
    num := 2
    ntile := 1
    state := .preempted
    grants := Vector.replicate 16 ⟨0, 0, 0⟩
    saveSeed := 9
    savePages := pagesFrom 0x100000 0x210000 }

def restoreCmd : Cmd := cmdOf 0 [0x30006, 0, 0, 0, 2, 0, 0x1000, 0, 0x100000, 0]

def restoring (brought : Bool) : State :=
  ctxCmd 3 [2, 0, 0x1000, 0, 0x100000, 0] fun d => { d with
    hostMem := { d.hostMem with undef := [⟨0x100000, 0x400000, 9⟩] }
    ctxs := d.ctxs ++ if brought then [] else d.ctxs.map pausedCtx
    brought := if brought then d.ctxs.map fun c => ⟨pausedCtx c, [], [], [], [], Mem.empty, Mem.empty, [], []⟩ else [] }

/-- An image stands where every byte is the one that the save left. -/
theorem saveStands_of {s : State} {c : Ctx} {n va hi : Nat} (hu : s.dev.hostMem.undef = [⟨va, hi, c.saveSeed⟩])
    (hn : va + (n + 4095) / 4096 * 4096 ≤ hi) (hp : c.savePages = pagesFrom va n) : s.saveStands 0 va c n = true := by
  simp only [State.saveStands, List.all_eq_true]
  intro p hm
  obtain ⟨i, h1, h2⟩ := List.getElem_of_mem hm
  have hl : i < (n + 4095) / 4096 := by simpa [pagesFrom] using h1
  have e : p = (va + 4096 * i, i) := by rw [← h2]; simp [pagesFrom]
  subst e
  simp only [State.cmdLoc, if_true, Device.locMem, List.all_eq_true, List.mem_range, decide_eq_true_eq]
  intro j hj
  have hh : UndefRange.has ⟨va, hi, c.saveSeed⟩ (va + 4096 * i + j) = true := by
    simp [UndefRange.has]; omega
  simp [Mem.readByte, hu, hh, hp, pagesFrom, hl]

theorem witness_ContextCommands_restore :
    turned (restoring false) 0 0 6 3 (fun x c => x.priv && decide (c.dword 0x20 = 0x100000) && decide (c.word 0x10 = 2)) = true ∧
    (restoring false).cmd? 0 0 = some restoreCmd ∧
    (let u := (restoring false).counted.beginCmd 0 restoreCmd
     (u.savedAt 0 0x100000).map (·.num) = some 2 ∧ ∀ old ∈ u.dev.ctxs.drop 1, u.savedFeat old &&& 0x7F = u.savedFeat old ∧
        u.placement old = some []) := by
  refine ⟨by decide +kernel, by decide +kernel, ?_⟩
  intro u
  have hu : u.dev.hostMem.undef = [⟨0x100000, 0x400000, 9⟩] := by decide +kernel
  have hx : u.dev.ctxs = (restoring false).dev.ctxs := by decide +kernel
  constructor
  · have l : (restoring false).dev.ctxs.length = 2 := by decide +kernel
    have m : (restoring false).dev.ctxs[0]?.map (·.state) = some .run := by decide +kernel
    match h : (restoring false).dev.ctxs, l, m with
    | [a, b], _, m =>
      have hb : (restoring false).dev.ctxs[1]?.map (fun c => (c.state, c.saveSeed, c.num)) = some (.preempted, 9, 2) := by
        decide +kernel
      have hp : (restoring false).dev.ctxs[1]?.map (fun c => decide (c.savePages = pagesFrom 0x100000 0x210000) &&
        decide (c.saveBytes [] = 0x210000)) = some true := by decide +kernel
      rw [h] at hb hp
      simp at m hb hp
      have st : u.saveStands 0 0x100000 b (u.saveNeed b) = true := by
        have : u.saveNeed b = 0x210000 := hp.2
        rw [this]
        exact saveStands_of (by rw [hu, hb.2.1]) (by decide) hp.1
      rw [State.savedAt, hx, h]
      simp [List.find?, m, hb, st]
  · decide +kernel

theorem broughtAt_of {u : State} {i : SavedImage} {va n hi : Nat} (h : u.dev.brought = [i]) (hn : i.ctx.saveBytes i.trees = n)
    (hu : u.dev.hostMem.undef = [⟨va, hi, i.ctx.saveSeed⟩]) (hr : va + (n + 4095) / 4096 * 4096 ≤ hi)
    (hp : i.ctx.savePages = pagesFrom va n) : u.broughtAt 0 va = some i := by
  have st : u.saveStands 0 va i.ctx (i.ctx.saveBytes i.trees) = true := by rw [hn]; exact saveStands_of hu hr hp
  rw [State.broughtAt, h]
  exact List.find?_cons_of_pos (p := fun i : SavedImage => u.saveStands 0 va i.ctx (i.ctx.saveBytes i.trees)) st

/-- The state that the RESTORE of the image of another device finds. -/
def bringing : State := (restoring true).counted.beginCmd 0 restoreCmd

/-- All that the second clause on RESTORE asks. -/
theorem witness_ContextCommands_brought :
    turned (restoring true) 0 0 6 3 (fun x _ => x.priv) = true ∧ (restoring true).cmd? 0 0 = some restoreCmd ∧
    bringing.savedAt 0 0x100000 = none ∧ (bringing.ctx? 2).isNone = true ∧ bringing.dev.brought.length = 1 ∧
    ∀ i ∈ bringing.dev.brought, featUnion i.launches &&& 0x7F = featUnion i.launches ∧ bringing.placement i.ctx = some [] ∧
      bringing.imageFits i = true ∧ i.ctx.saved = [] ∧ (placeImages bringing.usedCode i.images).isSome = true := by decide +kernel

theorem witness_ContextCommands_stands (i : SavedImage) (h : bringing.dev.brought = [i]) :
    bringing.broughtAt 0 0x100000 = some i := by
  have l : ∀ i ∈ bringing.dev.brought, i.ctx.saveBytes i.trees = 0x210000 ∧
      bringing.dev.hostMem.undef = [⟨0x100000, 0x400000, i.ctx.saveSeed⟩] ∧ i.ctx.savePages = pagesFrom 0x100000 0x210000 := by
    decide +kernel
  obtain ⟨a, b, c⟩ := l i (by rw [h]; exact List.mem_singleton.mpr rfl)
  exact broughtAt_of h a b (by decide) c

/-- R401: GRANT places one range of the context's near store. -/
theorem test_ctx_grant :
    shows (fun t => t.dev.ctxs.map fun c => c.alloc[0]) (exec (.ctxGrant 0 0) (ctxCmd 6 [1, 0x80010000, 0x10000] id)) =
      some [(0x80010000, 0x10000)] := by decide +kernel

/-- Context 1 on a rung of the ladder. -/
def laddered (st : CtxState) (t2 : Nat) : State :=
  let s := commanding (cmdOf 0 [8]) id
  { s with dev := { s.dev with ctxs := s.dev.ctxs.map fun c => { c with state := st, t2 := t2 } } }

theorem witness_LadderAndPlatform :
    (∀ st ∈ [CtxState.drain, .save, .reset], ((laddered st 5).ctx? 1).map (·.state) = some st ∧
      (laddered st 5).dev.tripped = false) ∧
    (∀ y ∈ (laddered .save 5).tilesOf 1, y.recov.phase = .run) ∧
    (((laddered .reset 5).ctx? 1).map fun k => (laddered .reset 5).flitsDone k) = some true ∧
    (((laddered .reset 5).ctx? 1).map (·.doom)) = some none ∧
    State.reset.dev.host.stage = 0 ∧ State.reset.dev.host.go = false ∧ State.reset.dev.host.fail = false ∧
    State.reset.dev.host.rschpa = 0 ∧ State.reset.dev.near.bad = [] ∧ State.reset.dev.tripped = false ∧ State.reset.memWf = true ∧
    State.reset.dev.evRing = none := by decide +kernel

/-- Context 1 in Save with room in its save area, its tiles at rest. -/
def saving : State :=
  let s := laddered .save 5
  { s with dev := { s.dev with ctxs := s.dev.ctxs.map fun c => { c with saveVa := 0x100000, saveSz := 0x1000000 } } }

theorem witness_LadderAndPlatform_save :
    Agreed saving .firmware saving.counted ∧ Agreed (saving.settleTiles 1) .firmware (saving.settleTiles 1).counted ∧
    (∀ k ∈ saving.dev.ctxs, saving.ctx? 1 = some k ∧ (saving.settleTiles 1).saveFits k = true) ∧
    ((saving.settleTiles 1).ctx? 1).isSome = true ∧ (saving.settleTiles 1).saveReady 1 = true ∧
    (saving.settleTiles 1).memWf = true ∧ (saving.settleTiles 1).dev.evRing = none :=
  ⟨agreed_of rfl _, agreed_of (by decide +kernel) _, by decide +kernel, by decide +kernel, by decide +kernel, by decide +kernel,
    by decide +kernel⟩

/-- Machine 5 serves queue 0: copies struck by one soft error, by two, a resynchronisation struck, a stopped machine. -/
theorem witness_LadderAndPlatform_votes :
    (∀ m ∈ [(⟨5, .triplex, 1, [0]⟩ : Machine), ⟨5, .triplex, 2, [0]⟩, ⟨5, .resync, 1, [0]⟩, ⟨5, .stopped, 0, [0]⟩],
      ({ Device.reset with machines := [m] } : Device).votedBy (.processor 0) = m ∧
        ({ Device.reset with machines := [m] } : Device).machine 5 = m) ∧ State.reset.dev.evRing = none ∧
    ([(⟨5, .triplex, 1, [0]⟩ : Machine), ⟨5, .triplex, 2, [0]⟩, ⟨5, .resync, 1, [0]⟩].map (·.agrees)) = [true, false, false] ∧
    State.reset.barsInUse none = [] := by decide +kernel

/-- The command that waits for operating point 3. -/
theorem witness_LadderAndPlatform_point :
    let s := commanding { cmdOf 0 [7, 0, 0, 0, 3] with state := .started } fun d => { d with pointNext := [(0, 0, 3)] }
    s.dev.pointNext = [(0, 0, 3)] ∧ ((s.cmd? 0 0).map (·.state)) = some .started ∧ s.dev.tripped = false ∧
      Agreed s .firmware s.counted := ⟨by decide +kernel, by decide +kernel, by decide +kernel, agreed_of (by decide +kernel) _⟩

theorem test_operating_point :
    shows (fun t => (t.dev.point, (t.cmd? 0 0).map (·.state))) (exec .operatingPointInForce
      (commanding { cmdOf 0 [7, 0, 0, 0, 3] with state := .started } fun d => { d with pointNext := [(0, 0, 3)] })) =
      some (3, some .done) := by decide +kernel

/-- R425: an address beyond the decoder faults. -/
theorem test_cxl_absent : (match exec (.cxlMemRead true 0x80000000 1) State.reset with
    | .fault .hostAddressAbsent => true
    | _ => false) = true := by decide +kernel

/-- R430: stage by stage to the operating state. -/
theorem test_bringup : shows (·.dev.host.stage) (exec (.bringupStageDone true) State.reset) = some 1 := by decide +kernel

/-! #### The outside world -/

/-- R142: a data error stops issue. -/
theorem test_upset_data_error :
    shows (·.tile.recov.phase) (step { regs [] with sched := [.upset (.tile 0)] }) = some .stop := by decide +kernel

/-- R179: the aligned word that an error strikes is uncorrectable. -/
theorem test_upset_window : shows (·.tile.win.bad) (step { regs [] with sched := [.upset (.window 0 0x103)] }) = some [0x100] := by
  decide +kernel

/-- R393: after a soft error in one copy, the next vote starts the resynchronisation. -/
theorem test_upset_machine : shows (fun t => (((t.vote (t.dev.machine 3)).1.dev.machine 3).state, (t.vote (t.dev.machine 3)).2))
    (step { State.reset with sched := [.upset (.machine 3)] }) = some (.resync, true) := by decide +kernel

theorem test_host_store : shows (·.dev.hostMem.read 0x1000 3)
    (step { State.reset with sched := [.hostStore 0x1000 [7, 8]] }) = some [7, 8, 0] := by decide +kernel

end Sys2Proof.Tests
end

section
/-! PROOFS. What a step does with the first input of its schedule (log entry 6). -/

namespace Sys2Proof.Machine

/-- A step with a schedule is the effect of its first input, the rest still scheduled. -/
theorem step_of_sched_cons {s : State} {x : Input} {rest : List Input} (h : s.sched = x :: rest) :
    step s = { s with sched := rest }.input x := by
  simp only [step, h]

/-- R433: only an event of a stopped clock is held back, and one of those only while the device is tripped. -/
theorem State.happen_eq (s : State) (e : Instr) :
    s.happen e = if s.dev.tripped = true ∧ clocked e = true then .next s else exec e s := by
  simp only [State.happen, Bool.and_eq_true]

/-- A reading of 105 °C (1680 sixteenths) or more is none outside a trip or once the device has cooled; any other is the
temperature that the host reads. -/
theorem State.reading_eq (s : State) (t : Nat) :
    s.reading t = if 1680 ≤ t ∧ (s.dev.tripped = false ∨ s.dev.cool = true) then s
      else { s with dev := { s.dev with host := { s.dev.host with temp := BitVec.ofNat 16 t } } } := rfl

/-- Settles O7: the step is the input's effect, case by case; an event turns on its clock, a reading on the trip. -/
theorem stepTakesInput : Obligations.StepTakesInput := by
  intro s x rest hsched u
  rw [step_of_sched_cons hsched]
  cases x with
  | event e => exact u.happen_eq e
  | temperature t => exact congrArg Host.Outcome.next (u.reading_eq t)
  | focus p => rfl
  | hostStore a bs => rfl
  | remoteStore d a bs => rfl
  | remotePost tree dev tile seg bs => rfl
  | image i => rfl
  | upset e => rfl

end Sys2Proof.Machine
end

section
/-! PROOFS. What a write of a control register does to the machine: the fields it sets, what it leaves unchanged, and what is
read afterwards (R113 to R116, R379). -/

namespace Sys2Proof.Machine

open Sys2Proof.Claims

/-! ### The fields under a write -/

section Fields

variable (c : Core) (d : Device) (n : Nat) (v : Word)

@[simp] theorem Core.writeCr_s : (c.writeCr n v).s = c.s := by unfold Core.writeCr; split <;> rfl
@[simp] theorem Core.writeCr_lat : (c.writeCr n v).lat = c.lat := by unfold Core.writeCr; split <;> rfl
@[simp] theorem Core.writeCr_ports : (c.writeCr n v).ports = c.ports := by unfold Core.writeCr; split <;> rfl
@[simp] theorem Core.writeCr_sup : (c.writeCr n v).sup = c.sup := by unfold Core.writeCr; split <;> rfl
@[simp] theorem Core.writeCr_flags : (c.writeCr n v).flags = if n = 1 then v &&& flagsMask else c.flags := by
  unfold Core.writeCr; split <;> simp_all
@[simp] theorem Core.writeCr_fpctl : (c.writeCr n v).fpctl = if n = 2 then v &&& 0xF else c.fpctl := by
  unfold Core.writeCr; split <;> simp_all
@[simp] theorem Core.writeCr_p : (c.writeCr n v).p = if n = 3 then v.setWidth 8 ||| 1 else c.p := by
  unfold Core.writeCr; split <;> simp_all
@[simp] theorem Core.writeCr_lwlim : (c.writeCr n v).lwlim = if n = 6 then v else c.lwlim := by
  unfold Core.writeCr; split <;> simp_all
@[simp] theorem Core.writeCr_epc : (c.writeCr n v).epc = if n = 0x100 then v.setWidth 20 else c.epc := by
  unfold Core.writeCr; split <;> simp_all
@[simp] theorem Core.writeCr_ecause : (c.writeCr n v).ecause = if n = 0x101 then v else c.ecause := by
  unfold Core.writeCr; split <;> simp_all
@[simp] theorem Core.writeCr_einfo : (c.writeCr n v).einfo = if n = 0x102 then v else c.einfo := by
  unfold Core.writeCr; split <;> simp_all
@[simp] theorem Core.writeCr_ntmask : (c.writeCr n v).ntmask = if n = 0x113 then v &&& 3 else c.ntmask := by
  unfold Core.writeCr; split <;> simp_all
@[simp] theorem Core.writeCr_ss (i : Nat) (hi : i < 4) : (c.writeCr n v).ss[i] = if n = 0x104 + i then v else c.ss[i] := by
  unfold Core.writeCr; split <;> simp_all [Vector.getElem_set] <;> grind

@[simp] theorem Device.writeCr_near : (d.writeCr n v).near = d.near := by unfold Device.writeCr; split <;> rfl
@[simp] theorem Device.writeCr_votes : (d.writeCr n v).votes = d.votes := by unfold Device.writeCr; split <;> rfl
@[simp] theorem Device.writeCr_vdis : (d.writeCr n v).vdis = d.vdis := by unfold Device.writeCr; split <;> rfl
@[simp] theorem Device.writeCr_vres : (d.writeCr n v).vres = d.vres := by unfold Device.writeCr; split <;> rfl
@[simp] theorem Device.writeCr_vstop : (d.writeCr n v).vstop = d.vstop := by unfold Device.writeCr; split <;> rfl
@[simp] theorem Device.writeCr_devid : (d.writeCr n v).devid = d.devid := by unfold Device.writeCr; split <;> rfl
@[simp] theorem Device.writeCr_xrun : (d.writeCr n v).xrun = if n = 0x140 then v &&& 0xFFFF else d.xrun := by
  unfold Device.writeCr; split <;> simp_all
@[simp] theorem Device.writeCr_xcont : (d.writeCr n v).xcont = if n = 0x141 then v &&& 0xFFFF else d.xcont := by
  unfold Device.writeCr; split <;> simp_all
@[simp] theorem Device.writeCr_xacc : (d.writeCr n v).xacc = if n = 0x142 then v else d.xacc := by
  unfold Device.writeCr; split <;> simp_all
@[simp] theorem Device.writeCr_lbud : (d.writeCr n v).lbud = if n = 0x148 then v &&& 0xFFFF else d.lbud := by
  unfold Device.writeCr; split <;> simp_all

end Fields

/-! ### Reading after a write -/

/-- A register but the one written reads as before. -/
theorem readCr_writeCr_other (s : State) (n m : Nat) (v : Word) (pc : BitVec 20) (h : m ≠ n) :
    (s.writeCr n v).readCr (s.writeCr n v).tile pc m = s.readCr s.tile pc m := by
  unfold State.readCr
  split
  all_goals simp [State.writeCr, Core.predsWord, h.symm]

/-- cr.preds keeps bits 7 to 1 of what is written, and p0 reads true (R95, R116). -/
theorem predsWord_writeCr (c : Core) (v : Word) : (c.writeCr 3 v).predsWord = v &&& 0xFE ||| 1 := by
  have mask : ∀ i < 32, (0xFE : Word).getLsbD i = (decide (i < 8) && !decide (i = 0)) := by decide
  rw [Core.predsWord, Core.writeCr_p, if_pos rfl]
  apply BitVec.eq_of_getLsbD_eq
  intro i hi
  rw [BitVec.getLsbD_or, BitVec.getLsbD_and, mask i hi]
  by_cases h0 : i = 0
  · subst h0; simp
  · simp [h0, hi, Bool.and_comm]

/-- cr.epc keeps the low 20 bits of what is written. -/
theorem setWidth_epc_eq_and (v : Word) : ((v.setWidth 20).setWidth 32 : Word) = v &&& 0xFFFFF := by
  apply BitVec.eq_of_toNat_eq
  rw [BitVec.toNat_setWidth, BitVec.toNat_setWidth, BitVec.toNat_and]
  have hmod : v.toNat % 2 ^ 20 < 2 ^ 32 := by omega
  calc v.toNat % 2 ^ 20 % 2 ^ 32 = v.toNat % 2 ^ 20 := Nat.mod_eq_of_lt hmod
    _ = v.toNat &&& (2 ^ 20 - 1) := (Nat.and_two_pow_sub_one_eq_mod v.toNat 20).symm

theorem and_fullMask (v : Word) : v &&& 0xFFFFFFFF#32 = v := BitVec.and_allOnes

/-- The register written reads back what was written, but for its reserved bits and for p0 (R113, R116). -/
theorem readCr_writeCr_same (s : State) (n : Nat) (v : Word) (pc : BitVec 20) (h : rwCr n = true) :
    (s.writeCr n v).readCr (s.writeCr n v).tile pc n = if n = 3 then v &&& crMask n ||| 1 else v &&& crMask n := by
  simp only [rwCr, List.contains_iff_mem, List.mem_cons, List.not_mem_nil, or_false] at h
  rcases h with h | h | h | h | h | h | h | h | h | h | h | h | h | h | h | h
  all_goals
    subst h
    simp [State.readCr, State.writeCr, crMask, flagsMask, predsWord_writeCr, setWidth_epc_eq_and, and_fullMask]

/-- Flags merged into cr.flags show there. -/
theorem readCr_flags_orFlags (s : State) (f : Word) (pc : BitVec 20) :
    { s with tile := s.tile.orFlags f }.readCr (s.tile.orFlags f) pc 1 = s.readCr s.tile pc 1 ||| f := rfl

/-- Flags merged into cr.flags show in no other register. -/
theorem readCr_orFlags_other (s : State) (f : Word) (pc : BitVec 20) (m : Nat) (h : m ≠ 1) :
    { s with tile := s.tile.orFlags f }.readCr (s.tile.orFlags f) pc m = s.readCr s.tile pc m := by
  unfold State.readCr
  split
  case h_2 => exact absurd rfl h
  all_goals rfl

@[simp] theorem readCr_markDue (s : State) (b : Bool) (pc : BitVec 20) (m : Nat) :
    (s.markDue b).readCr (s.markDue b).tile pc m = s.readCr s.tile pc m := by cases b <;> rfl

@[simp] theorem rest_markDue (s : State) (b : Bool) : (s.markDue b).tile.rest = s.tile.rest := by cases b <;> rfl

/-! ### `wrcr` -/

/-- What `wrcr` leaves of a write of `v` to register `n`: the register written, and after a write of cr.flags the flags of its own
bundle merged (R82). -/
def State.wrcrDone (s : State) (n : Nat) (v : Word) : State :=
  if n = 1 then { s.writeCr n v with tile := (s.writeCr n v).tile.orFlags s.iss.fl } else s.writeCr n v

/-- The checks and waits of `wrcr`: its fields and its number (R113, R115), and for cr.flags the flags to come (R82). -/
def State.wrcrGate (s : State) (o : FAB) : Gate :=
  let u := usesRegs (o.a :: o.b.regs) []
  { s.gate o.g (s.crCheck (s.src.regOk o.a && s.src.bOk o.b) true o.b u) u with
    wait := decide ((s.bval o.b).toNat = 1) && s.src.flagsBusy }

theorem exec_wrcr (o : FAB) (s : State) :
    exec (.wrcr o) s = s.runOp (s.wrcrGate o) fun x => .ok (x.wrcrDone (s.bval o.b).toNat (x.rd o.a)) := rfl

theorem firstCause_eq_none {l : List (Bool × Cause)} : firstCause l = none ↔ ∀ p ∈ l, p.1 = true := by
  induction l with
  | nil => simp [firstCause]
  | cons p l ih => cases h : p.1 <;> simp [firstCause, h, ih]

/-- A register that passes the checks of a write is a read-write one. -/
theorem rwCr_of_crAllowed {s : State} {b : BOp} (h : crAllowed s true b = true) : rwCr (s.bval b).toNat = true := by
  have checks := firstCause_eq_none.mp (Option.isNone_iff_eq_none.mp h)
  exact checks (!true || rwCr (s.bval b).toNat, .illegalOperand) (by simp)

theorem crCheck_none {s : State} {ok write : Bool} {b : BOp} {u : Uses} (hok : ok = true)
    (h : crAllowed s write b = true) : s.crCheck ok write b u = none := by
  have hc : crCause s.src.core.sup write (s.bval b) = none := Option.isNone_iff_eq_none.mp h
  simp [State.crCheck, hc, hok]

/-- A `wrcr` that is ready, and finds no flags to wait for (R82), writes its register. -/
theorem exec_wrcr_ready {s : State} {o : FAB}
    (hr : Ready s o.g (s.src.regOk o.a && s.src.bOk o.b && crAllowed s true o.b) (usesRegs (o.a :: o.b.regs) []))
    (hw : (s.bval o.b).toNat = 1 → s.src.flagsBusy = false) :
    exec (.wrcr o) s = .next ((s.wrcrDone (s.bval o.b).toNat (s.rd o.a)).markDue
      (s.readsToken (usesRegs (o.a :: o.b.regs) []))) := by
  obtain ⟨hon, hok, hfree⟩ := hr
  obtain ⟨hfields, hallowed⟩ := Bool.and_eq_true_iff.mp hok
  have hchk : (s.wrcrGate o).chk = none := crCheck_none hfields hallowed
  have hflags : (s.wrcrGate o).wait = false := by simpa [State.wrcrGate] using hw
  have hck : (s.wrcrGate o).ckop = true → s.src.ckFresh = true := fun h => nomatch (h : false = true)
  rw [exec_wrcr, runOp_go hchk hon hflags hck hfree]
  rfl

/-- What a `wrcr` leaves unchanged (the claim's frame): the general registers, the lattice, the stream ports, the memories, the
rest of the tile, what is on its way there, and the other tiles. -/
structure KeepsBesideCr (s t : State) : Prop where
  reg : ∀ r, t.tile.core.reg r = s.tile.core.reg r
  lat : ∀ i, t.tile.core.latEl i = s.tile.core.latEl i
  port : ∀ q, t.tile.core.port q = s.tile.core.port q
  mem : ∀ a, t.tile.win.readByte a = s.tile.win.readByte a ∧ t.dev.near.readByte a = s.dev.near.readByte a
  rest : t.tile.rest = s.tile.rest
  pend : t.tile.pend = s.tile.pend
  loads : t.tile.loads = s.tile.loads
  others : t.others = s.others

theorem keepsBesideCr_wrcr (s : State) (n : Nat) (v : Word) (b : Bool) :
    KeepsBesideCr s ((s.wrcrDone n v).markDue b) := by
  unfold State.wrcrDone
  split
  all_goals
    exact
      { reg := fun r => by simp [Core.reg, State.writeCr]
        lat := fun i => by simp [Core.latEl, State.writeCr]
        port := fun q => by simp [Core.port, State.writeCr]
        mem := fun a => by simp [State.writeCr]
        rest := by rw [rest_markDue]; rfl
        pend := by simp [State.writeCr]
        loads := by simp [State.writeCr]
        others := by simp }

/-- After `wrcr` the register reads back what was written; cr.flags has the bundle's own flags besides (R82, R113). -/
theorem readCr_wrcrDone_same (s : State) (n : Nat) (v : Word) (pc : BitVec 20) (h : rwCr n = true) :
    (s.wrcrDone n v).readCr (s.wrcrDone n v).tile pc n =
      if n = 1 then v &&& crMask n ||| s.iss.fl else if n = 3 then v &&& crMask n ||| 1 else v &&& crMask n := by
  unfold State.wrcrDone
  by_cases h1 : n = 1
  · subst h1
    rw [if_pos rfl, if_pos rfl, readCr_flags_orFlags, readCr_writeCr_same s 1 v pc h]
    rfl
  · rw [if_neg h1, if_neg h1, readCr_writeCr_same s n v pc h]

/-- After `wrcr` every other register reads as before. -/
theorem readCr_wrcrDone_other (s : State) (n m : Nat) (v : Word) (pc : BitVec 20) (h : m ≠ n) :
    (s.wrcrDone n v).readCr (s.wrcrDone n v).tile pc m = s.readCr s.tile pc m := by
  unfold State.wrcrDone
  by_cases h1 : n = 1
  · rw [if_pos h1, readCr_orFlags_other _ _ _ _ (h1 ▸ h), readCr_writeCr_other s n m v pc h]
  · rw [if_neg h1, readCr_writeCr_other s n m v pc h]

/-- Settles O15: a ready `wrcr` ends in the state of `wrcrDone`, whose registers the two lemmas on reading give; everything else
stands. -/
theorem writeControlRegister : Obligations.WriteControlRegister := by
  intro s o hready hwait n v
  have ⟨_, hok, _⟩ := hready
  have hrw : rwCr n = true := rwCr_of_crAllowed (Bool.and_eq_true_iff.mp hok).2
  have keeps := keepsBesideCr_wrcr s n (s.rd o.a) (s.readsToken (usesRegs (o.a :: o.b.regs) []))
  refine ⟨_, exec_wrcr_ready hready hwait, fun pc => ?same, fun pc m hm => ?other, keeps.reg, keeps.lat, keeps.port, keeps.mem,
    keeps.rest, keeps.pend, keeps.loads, keeps.others⟩
  case same => rw [readCr_markDue]; exact readCr_wrcrDone_same s n _ pc hrw
  case other => rw [readCr_markDue]; exact readCr_wrcrDone_other s n m _ pc hm

end Sys2Proof.Machine
end

section
/-! PROOFS. What an operation does whose only effect is a scalar result of bound 1, or a predicate: the registers it writes and
what it leaves unchanged (R46, R49, R53, R98). -/

namespace Sys2Proof.Machine

open Sys2Proof.Claims

/-! ### An operation that changes nothing -/

@[simp] theorem written_nil : written [] [] = [] := rfl

/-- No element is among none, so a filter that leaves those out keeps everything. -/
theorem filter_not_mem_nil {α β : Type} [BEq β] (l : List α) (f : α → β) :
    (l.filter fun x => !([] : List β).contains (f x)) = l :=
  List.filter_eq_self.mpr fun _ _ => rfl

@[simp] theorem Pending.kill_nil (p : Pending) : p.kill [] = p :=
  congrArg (fun ds => { p with dsts := ds }) (filter_not_mem_nil p.dsts Prod.fst)

@[simp] theorem LoadDst.kill_nil (d : LoadDst) : d.kill [] = d := by cases d <;> simp [LoadDst.kill]

@[simp] theorem XOp.kill_nil (x : XOp) : x.kill [] = x := by cases x <;> simp [XOp.kill]

/-- Nothing changes from a state to itself. -/
theorem Frame.refl (s : State) : Frame s s [] [] [] [] 0 where
  reg _ _ := rfl
  lat _ _ := rfl
  pred _ _ := rfl
  port _ _ := rfl
  flags := by simp
  special := rfl
  tokens := (filter_not_mem_nil s.tile.core.tokPend fun k => Dst.sreg k.reg).symm
  mem _ := rfl
  near _ := rfl
  pend := by simp [funext Pending.kill_nil]
  loads := by simp
  queue := by simp [funext XOp.kill_nil]
  parity := (filter_not_mem_nil s.tile.latBad id).symm
  rest := rfl
  dev := rfl
  others := rfl

/-! ### Scalar results of bound 1 -/

/-- A write of s0 among the results changes nothing (R94). -/
theorem putAll_filter_zero (c : Core) (ws : List (Dst × Word)) :
    c.putAll (ws.filter fun d => decide (d.1 ≠ .sreg 0)) = c.putAll ws := by
  induction ws generalizing c with
  | nil => rfl
  | cons d ws ih =>
    by_cases h : d.1 = .sreg 0
    · have hput : c.put d = c := by simp [Core.put, h, Core.setReg]
      rw [List.filter_cons_of_neg (by simp [h]), ih, putAll_cons, hput]
    · rw [List.filter_cons_of_pos (by simpa using h), putAll_cons, putAll_cons, ih]

/-- The two halves of a pair stand at once (R49): the first register keeps its value where the second is another. -/
theorem deliver_now_pair (s : State) {d e : Reg} (h : d ≠ e) (v w fl : Word) :
    (s.deliver 1 [(.sreg d, v), (.sreg e, w)] fl).tile.core.reg d = valueOf d v ∧
      (s.deliver 1 [(.sreg d, v), (.sreg e, w)] fl).tile.core.reg e = valueOf e w := by
  simp only [State.deliver, Nat.le_refl, if_true, Tile.orFlags_core, Tile.putAll_core, putAll_filter_zero]
  show (((_ : Core).setReg d v).setReg e w).reg d = _ ∧ (((_ : Core).setReg d v).setReg e w).reg e = _
  simp only [reg_setReg, if_true, if_neg h, and_self]

/-- The elements that scalar results write: their registers, s0 left out. -/
theorem map_fst_filter_sregs (l : List (Reg × Word)) :
    ((l.map fun x => (Dst.sreg x.1, x.2)).filter fun d => decide (d.1 ≠ .sreg 0)).map Prod.fst =
      written (l.map Prod.fst) [] := by
  simp [written, List.filter_map, Function.comp_def]

/-- Scalar results change their registers and no other state. -/
theorem deliver_regs_frame (s : State) (l : List (Reg × Word)) (fl : Word) :
    Frame s (s.deliver 1 (l.map fun x => (Dst.sreg x.1, x.2)) fl) (l.map Prod.fst) [] [] [] fl :=
  deliver_frame s 1 _ fl _ [] (map_fst_filter_sregs l)

/-! ### Running an operation -/

/-- An operation on scalar registers, whose only decode trap is illegal-operand, does what its body does once it is ready. -/
theorem runOp_ready {s t : State} {g : Guard} {ok : Bool} {srcs dsts : List Reg} {body : State → Body}
    (h : Ready s g ok (usesRegs srcs dsts)) (hbody : body s = .ok t) :
    s.runOp (s.gate g (operandCheck ok) (usesRegs srcs dsts)) body =
      .next (t.markDue (s.readsToken (usesRegs srcs dsts))) := by
  obtain ⟨hon, hok, hfree⟩ := h
  have hchk : operandCheck ok = none := by simp [operandCheck, firstCause, hok]
  have hck : (s.gate g (operandCheck ok) (usesRegs srcs dsts)).ckop = true → s.src.ckFresh = true := fun h => nomatch h
  have hpop : s.popUses (s.gate g (operandCheck ok) (usesRegs srcs dsts)).uses = s := popUses_none rfl
  rw [runOp_go (x := s.gate g (operandCheck ok) (usesRegs srcs dsts)) hchk hon rfl hck hfree, hpop, hbody]
  rfl

/-- An operation whose decode check fails takes its trap, whatever its guard (R46, R56). -/
theorem runOp_check {s : State} {x : Gate} {c : Cause} {body : State → Body} (h : x.chk = some c) :
    s.runOp x body = .next (s.trapAt c s.iss.raw 0 0 .trapDecode) := by
  unfold State.runOp
  rw [h]

/-- Outcome `o` is a next state in which sD holds `v`, a write to s0 being discarded, and nothing else has changed. -/
def WritesReg (s : State) (o : Host.Outcome State Fault Refusal) (d : Reg) (v : Word) : Prop :=
  ∃ t, o = .next t ∧ t.tile.core.reg d = valueOf d v ∧ Frame s t [d] [] [] [] 0

/-- A ready operation whose body delivers `v` to sD at the end of its cycle writes sD. -/
theorem writesReg_of_deliver {s : State} {g : Guard} {ok : Bool} {srcs : List Reg} {d : Reg} {v : Word} {body : State → Body}
    (h : Ready s g ok (usesRegs srcs [d])) (hbody : body s = .ok (s.deliver 1 [(.sreg d, v)] 0)) :
    WritesReg s (s.runOp (s.gate g (operandCheck ok) (usesRegs srcs [d])) body) d v :=
  ⟨_, runOp_ready h hbody, by rw [State.markDue_tile_core, deliver_now_reg], (deliver_regs_frame s [(d, v)] 0).markDue _⟩

/-- A ready integer operation on sA and Bval writes sD. -/
theorem writesReg_alu {s : State} {o : FS} (h : FsReady s o) (f : Word → Word → Word) :
    WritesReg s (s.alu o 1 (noFlags f)) o.d (f (s.rd o.a) (s.bval o.b)) :=
  writesReg_of_deliver h rfl

/-- A ready integer operation on sA alone writes sD. -/
theorem writesReg_alu1 {s : State} {o : FDA}
    (h : Ready s o.g (s.src.regOk o.d && s.src.regOk o.a) (usesRegs [o.a] [o.d])) (f : Word → Word) :
    WritesReg s (s.alu1 o f) o.d (f (s.rd o.a)) :=
  writesReg_of_deliver h rfl

theorem exec_mov (o : FDB) (s : State) :
    exec (.mov o) s = s.runOp (s.gate o.g (operandCheck (s.src.regOk o.d && s.src.bOk o.b)) (usesRegs o.b.regs [o.d]))
      fun x => .ok (x.deliver 1 [(.sreg o.d, x.bval o.b)] 0) := rfl

/-- A ready `mov` writes sD. -/
theorem writesReg_mov {s : State} {o : FDB} (h : Ready s o.g (s.src.regOk o.d && s.src.bOk o.b) (usesRegs o.b.regs [o.d])) :
    WritesReg s (exec (.mov o) s) o.d (s.bval o.b) := by
  rw [exec_mov]
  exact writesReg_of_deliver h rfl

end Sys2Proof.Machine
end

section
/-! PROOFS. The integer instructions (R99 to R105): what each row computes as a number is what the model computes on words. -/

namespace Sys2Proof.Machine

open Sys2Proof.Claims

/-! ### The two-source instructions and the shifts as functions on words -/

theorem sub_eq_ofInt (a b : Word) : a - b = BitVec.ofInt 32 ((a.toNat : Int) - b.toNat) := by
  apply BitVec.eq_of_toNat_eq
  rw [BitVec.toNat_sub, BitVec.toNat_ofInt]
  omega

theorem minWord_eq (a b : Word) : minWord a b = if a.toInt < b.toInt then a else b := by
  unfold minWord
  rcases Int.lt_trichotomy a.toInt b.toInt with h | h | h
  · rw [if_pos (Int.le_of_lt h), if_pos h]
  · rw [BitVec.toInt_inj.mp h]; simp
  · rw [if_neg (by omega), if_neg (by omega)]

theorem maxWord_eq (a b : Word) : maxWord a b = if a.toInt < b.toInt then b else a := by
  unfold maxWord
  rcases Int.lt_trichotomy a.toInt b.toInt with h | h | h
  · rw [if_pos (Int.le_of_lt h), if_pos h]
  · rw [BitVec.toInt_inj.mp h]; simp
  · rw [if_neg (by omega), if_neg (by omega)]

theorem shiftLeft_eq_ofNat (a : Word) (n : Nat) : a <<< n = BitVec.ofNat 32 (a.toNat * 2 ^ n) := by
  apply BitVec.eq_of_toNat_eq
  rw [BitVec.toNat_shiftLeft, BitVec.toNat_ofNat, Nat.shiftLeft_eq]

theorem shiftRight_eq_ofNat (a : Word) (n : Nat) : a >>> n = BitVec.ofNat 32 (a.toNat / 2 ^ n) := by
  apply BitVec.eq_of_toNat_eq
  have hlt : a.toNat / 2 ^ n < 2 ^ 32 := Nat.lt_of_le_of_lt (Nat.div_le_self _ _) a.isLt
  rw [BitVec.toNat_ushiftRight, BitVec.toNat_ofNat, Nat.shiftRight_eq_div_pow, Nat.mod_eq_of_lt hlt]

theorem sshiftRight_eq_ofInt (a : Word) (n : Nat) : a.sshiftRight n = BitVec.ofInt 32 (a.toInt / 2 ^ n) := by
  rw [BitVec.sshiftRight_eq, Int.shiftRight_eq_div_pow, Int.natCast_pow]
  rfl

/-- Instruction i runs as the integer operation `f` on sA and Bval, whose value on `a` and `b` is `v`. -/
def RunsAlu (i : Instr) (o : FS) (a b v : Word) : Prop :=
  ∃ f : Word → Word → Word, (∀ s, exec i s = s.alu o 1 (noFlags f)) ∧ f a b = v

/-- Each row of R99 is the model's function of its instruction. -/
theorem runsAlu_of_twoSource {i : Instr} {o : FS} {a b v : Word} (h : twoSource i a b = some (o, v)) : RunsAlu i o a b v := by
  unfold twoSource at h
  split at h
  all_goals cases h
  case h_1 => exact ⟨(· + ·), fun _ => rfl, by rw [BitVec.ofNat_add]; simp⟩
  case h_2 => exact ⟨(· - ·), fun _ => rfl, sub_eq_ofInt a b⟩
  case h_3 => exact ⟨(· &&& ·), fun _ => rfl, rfl⟩
  case h_4 => exact ⟨(· ||| ·), fun _ => rfl, rfl⟩
  case h_5 => exact ⟨(· ^^^ ·), fun _ => rfl, rfl⟩
  case h_6 => exact ⟨minWord, fun _ => rfl, minWord_eq a b⟩
  case h_7 => exact ⟨maxWord, fun _ => rfl, maxWord_eq a b⟩

/-- Each row of R100 is the model's function of its instruction. -/
theorem runsAlu_of_shift {i : Instr} {o : FS} {a b v : Word} (h : shift i a b = some (o, v)) : RunsAlu i o a b v := by
  unfold shift at h
  split at h
  all_goals cases h
  case h_1 => exact ⟨shlWord, fun _ => rfl, by rw [← shiftLeft_eq_ofNat]; rfl⟩
  case h_2 => exact ⟨shrWord, fun _ => rfl, by rw [← shiftRight_eq_ofNat]; rfl⟩
  case h_3 => exact ⟨sraWord, fun _ => rfl, by rw [← sshiftRight_eq_ofInt]; rfl⟩

/-- An instruction that runs as an integer operation writes its value to sD. -/
theorem RunsAlu.writesReg {i : Instr} {s : State} {o : FS} {v : Word} (h : RunsAlu i o (s.rd o.a) (s.bval o.b) v)
    (hready : FsReady s o) : WritesReg s (exec i s) o.d v := by
  obtain ⟨f, hexec, rfl⟩ := h
  rw [hexec]
  exact writesReg_alu hready f

/-- Settles O10: each row is the function that the model runs, and an integer operation writes sD and nothing else. -/
theorem integerResult : Obligations.IntegerResult := by
  intro i s o v hrow hready
  have hruns : RunsAlu i o (s.rd o.a) (s.bval o.b) v := hrow.elim runsAlu_of_twoSource runsAlu_of_shift
  exact hruns.writesReg hready

/-! ### Fields, addresses and counts as functions on words -/

/-- A field that is not empty has at least one bit in range (R103). -/
theorem fieldBits_pos {b : Word} (h : fieldLen b ≠ 0) : 0 < fieldBits b := by
  unfold fieldBits fieldPos
  omega

/-- The field sign-extended (R103): its top bit counts negatively. -/
theorem sextN_of_lt {k f : Nat} (hk : 0 < k) (hf : f < 2 ^ k) :
    sextN k f = if 2 ^ (k - 1) ≤ f then (f : Int) - 2 ^ k else f := by
  have hpow : 2 ^ k = 2 * 2 ^ (k - 1) := by rw [← Nat.pow_succ', Nat.succ_eq_add_one, Nat.sub_add_cancel hk]
  unfold sextN
  rw [Nat.mod_eq_of_lt hf]
  by_cases h : 2 ^ (k - 1) ≤ f
  · rw [if_pos h]; exact if_pos (by omega)
  · rw [if_neg h]; exact if_neg (by omega)

/-- The field that Bval gives, as a number (R103). -/
def fieldOf (a b : Word) : Nat := a.toNat / 2 ^ fieldPos b % 2 ^ fieldBits b

/-- `bext` extends the field of Bval by zeros, or by its own top bit (R103). -/
theorem bextWord_eq (a b : Word) :
    bextWord a b =
      if fieldLen b = 0 then 0
      else if b.getLsbD 11 ∧ 2 ^ (fieldBits b - 1) ≤ fieldOf a b then BitVec.ofInt 32 ((fieldOf a b : Int) - 2 ^ fieldBits b)
      else BitVec.ofNat 32 (fieldOf a b) := by
  have hword : bextWord a b = if fieldLen b = 0 then 0
    else if b.getLsbD 11 then BitVec.ofInt 32 (sextN (fieldBits b) (fieldOf a b)) else BitVec.ofNat 32 (fieldOf a b) := rfl
  rw [hword]
  by_cases hlen : fieldLen b = 0
  · rw [if_pos hlen, if_pos hlen]
  · have hlt : fieldOf a b < 2 ^ fieldBits b := Nat.mod_lt _ (Nat.two_pow_pos _)
    rw [if_neg hlen, if_neg hlen, sextN_of_lt (fieldBits_pos hlen) hlt]
    by_cases htop : 2 ^ (fieldBits b - 1) ≤ fieldOf a b
    · simp [htop]
    · simp [htop]

/-- `lea` places the tile number in bits 29 to 21 and the offset in bits 20 to 0 of a window address (R104). -/
theorem leaWord_eq (a b : Word) :
    leaWord a b = BitVec.ofNat 32 (0x40000000 + a.toNat % 512 * 2 ^ 21 + b.toNat % 2 ^ 21) := by
  apply BitVec.eq_of_toNat_eq
  have htile : (a &&& 0x1FF).toNat = a.toNat % 512 := by
    rw [BitVec.toNat_and]; exact Nat.and_two_pow_sub_one_eq_mod a.toNat 9
  have hoff : (b &&& 0x1FFFFF).toNat = b.toNat % 2 ^ 21 := by
    rw [BitVec.toNat_and]; exact Nat.and_two_pow_sub_one_eq_mod b.toNat 21
  have hshift : ((a &&& 0x1FF) <<< 21).toNat = 2 ^ 21 * (a.toNat % 512) := by
    rw [BitVec.toNat_shiftLeft, htile, Nat.shiftLeft_eq]; omega
  have hword : leaWord a b = BitVec.ofNat 32 (2 ^ 30 * 1) ||| ((a &&& 0x1FF) <<< 21 ||| (b &&& 0x1FFFFF)) := rfl
  rw [hword, BitVec.toNat_or, BitVec.toNat_or, hshift, hoff, ← Nat.two_pow_add_eq_or_of_lt (by omega), BitVec.toNat_ofNat,
    BitVec.toNat_ofNat, Nat.mod_eq_of_lt (by omega), ← Nat.two_pow_add_eq_or_of_lt (by omega)]
  omega

theorem clzWord_eq (a : Word) : clzWord a = BitVec.ofNat 32 (if a.toNat = 0 then 32 else 31 - Nat.log2 a.toNat) := by
  unfold clzWord nat32 bitLen
  by_cases h : a.toNat = 0
  · rw [if_pos h, if_pos h]
  · rw [if_neg h, if_neg h, show 32 - (Nat.log2 a.toNat + 1) = 31 - Nat.log2 a.toNat by omega]

/-- The one bits among some positions, counted or added up. -/
theorem length_filter_getLsbD (a : Word) (l : List Nat) :
    (l.filter fun k => a.getLsbD k).length = (l.map fun k => a.toNat / 2 ^ k % 2).sum := by
  induction l with
  | nil => rfl
  | cons k l ih =>
    have hbit : a.getLsbD k = decide (a.toNat / 2 ^ k % 2 = 1) := by
      rw [← BitVec.testBit_toNat, Nat.testBit_eq_decide_div_mod_eq]
    rw [List.map_cons, List.sum_cons, ← ih]
    by_cases h : a.toNat / 2 ^ k % 2 = 1
    · rw [List.filter_cons_of_pos (by simp [hbit, h]), List.length_cons]; omega
    · rw [List.filter_cons_of_neg (by simp [hbit, h])]; omega

theorem popcWord_eq (a : Word) :
    popcWord a = BitVec.ofNat 32 ((List.range 32).map fun k => a.toNat / 2 ^ k % 2).sum :=
  congrArg (BitVec.ofNat 32) (length_filter_getLsbD a (List.range 32))

/-- The rows of `bext` and `lea` are the model's functions. -/
theorem runsAlu_of_fieldAddr {i : Instr} {o : FS} {a b v : Word} (h : fieldAddr i a b = some (o, v)) : RunsAlu i o a b v := by
  unfold fieldAddr at h
  split at h
  all_goals cases h
  case h_1 => exact ⟨bextWord, fun _ => rfl, bextWord_eq a b⟩
  case h_2 => exact ⟨leaWord, fun _ => rfl, leaWord_eq a b⟩

/-- `clz` and `popc` write what their rows give. -/
theorem writesReg_of_oneSource {i : Instr} {s : State} {o : FDA} {v : Word} (h : oneSource i (s.rd o.a) = some (o, v))
    (hready : Ready s o.g (s.src.regOk o.d && s.src.regOk o.a) (usesRegs [o.a] [o.d])) : WritesReg s (exec i s) o.d v := by
  unfold oneSource at h
  split at h
  all_goals cases h
  case h_1 => rw [← clzWord_eq]; exact writesReg_alu1 hready clzWord
  case h_2 => rw [← popcWord_eq]; exact writesReg_alu1 hready popcWord

/-! ### `bins` -/

/-- The mask of `bins` has ones at the positions of the field (R103). -/
theorem getLsbD_fieldMask (b : Word) {k : Nat} (hk : k < 32) :
    (nat32 ((2 ^ fieldBits b - 1) * 2 ^ fieldPos b)).getLsbD k = decide (fieldPos b ≤ k ∧ k < fieldTop b) := by
  have htop : fieldBits b = fieldTop b - fieldPos b := rfl
  rw [nat32, BitVec.getLsbD_ofNat, Nat.testBit_mul_two_pow, Nat.testBit_two_pow_sub_one, Bool.eq_iff_iff]
  simp only [Bool.and_eq_true, decide_eq_true_eq]
  omega

/-- `bins` takes the low bits of sA at the positions of the field, and the bits of sD elsewhere (R103). -/
theorem getLsbD_binsWord (d a b : Word) {k : Nat} (hk : k < 32) :
    (binsWord d a b).getLsbD k =
      if fieldPos b ≤ k ∧ k < fieldTop b then a.getLsbD (k - fieldPos b) else d.getLsbD k := by
  unfold binsWord
  simp only [BitVec.getLsbD_or, BitVec.getLsbD_and, BitVec.getLsbD_not, BitVec.getLsbD_shiftLeft, getLsbD_fieldMask b hk]
  by_cases h : fieldPos b ≤ k ∧ k < fieldTop b
  · simp [h, hk]
  · simp [h, hk]

/-- What `bins` leaves: an empty field writes nothing. -/
def State.binsDone (s : State) (o : FS) : State :=
  if fieldLen (s.bval o.b) = 0 then s
  else s.deliver 1 [(.sreg o.d, binsWord (s.rd o.d) (s.rd o.a) (s.bval o.b))] 0

theorem exec_bins (o : FS) (s : State) :
    exec (.bins o) s = s.runOp (s.gate o.g (operandCheck (fsOk s o)) (usesRegs (o.d :: o.a :: o.b.regs) [o.d]))
      fun x => .ok (x.binsDone o) := rfl

/-! ### `add64` -/

theorem rdPair_toNat (s : State) (r : Reg) : (s.rdPair r).toNat = pairNat s r := by
  have hlo : (s.rd r).toNat < 2 ^ 32 := (s.rd r).isLt
  unfold State.rdPair pairNat pairHi
  rw [BitVec.toNat_append, Nat.shiftLeft_eq, Nat.mul_comm, ← Nat.two_pow_add_eq_or_of_lt hlo, Nat.add_comm]

theorem bval64_toNat (s : State) (b : BOp) : (s.bval64 b).toNat = pairB s b := by
  cases b with
  | reg r => exact rdPair_toNat s r
  | pool k => exact BitVec.toNat_ofInt _
  | imm v => exact BitVec.toNat_ofInt _

/-- The registers of a pair differ, and the odd one is not s0. -/
theorem even_ne_or_one {r : Reg} (h : isEven r = true) : r ≠ r ||| 1 := by
  revert r; decide

theorem or_one_ne_zero (r : Reg) : r ||| 1 ≠ 0 := by
  revert r; decide

/-- The low and the high word of a 64-bit value, as numbers. -/
theorem setWidth_low (v : BitVec 64) : v.setWidth 32 = BitVec.ofNat 32 v.toNat := rfl

theorem setWidth_high (v : BitVec 64) : (v >>> 32).setWidth 32 = BitVec.ofNat 32 (v.toNat / 2 ^ 32) := by
  rw [← BitVec.ofNat_toNat, BitVec.toNat_ushiftRight, Nat.shiftRight_eq_div_pow]

/-- The sum that `add64` writes (R105). -/
def State.sum64 (s : State) (o : FS) : BitVec 64 := s.rdPair o.a + s.bval64 o.b

theorem sum64_toNat (s : State) (o : FS) : (s.sum64 o).toNat = (pairNat s o.a + pairB s o.b) % 2 ^ 64 := by
  rw [State.sum64, BitVec.toNat_add, rdPair_toNat, bval64_toNat]

/-- What `add64` leaves: the two halves of the sum in the pair sD. -/
def State.add64Done (s : State) (o : FS) : State :=
  s.deliver 1 [(.sreg o.d, (s.sum64 o).setWidth 32), (.sreg (o.d ||| 1), (s.sum64 o >>> 32).setWidth 32)] 0

theorem exec_add64 (o : FS) (s : State) :
    exec (.add64 o) s = s.runOp (s.gate o.g (operandCheck (s.src.pairOk o.d && s.src.pairOk o.a && s.src.b64Ok o.b))
      (usesRegs (o.a :: (o.a ||| 1) :: o.b.regs64) [o.d, o.d ||| 1])) fun x => .ok (x.add64Done o) := rfl

/-- The pair checks of `add64` fail where a pair is odd (R36). -/
theorem add64_fields_of_odd {t : Tile} {o : FS} (h : (isEven o.d && isEven o.a && o.b.regs.all isEven) = false) :
    (t.pairOk o.d && t.pairOk o.a && t.b64Ok o.b) = false := by
  have hB : t.b64Ok o.b = true → o.b.regs.all isEven = true := by
    cases o.b <;> simp_all [Tile.b64Ok, Tile.pairOk, BOp.regs]
  rw [Bool.eq_false_iff] at h ⊢
  simp only [Tile.pairOk, Bool.and_eq_true, ne_eq] at h ⊢
  rintro ⟨⟨⟨⟨hd, -⟩, -⟩, ⟨ha, -⟩, -⟩, hb⟩
  exact h ⟨⟨hd, ha⟩, hB hb⟩

/-- Settles O11: `bext` and `lea` run as the functions of their rows, `clz`, `popc` and `mov` deliver theirs, `bins` takes its bits
from the mask of the field, and `add64` delivers the halves of one sum, or traps at an odd pair. -/
theorem fieldAndMoveResult : Obligations.FieldAndMoveResult := by
  refine ⟨fun i s o v hrow hready => (runsAlu_of_fieldAddr hrow).writesReg hready,
    fun i s o v hrow hready => writesReg_of_oneSource hrow hready, fun s o hready => writesReg_mov hready,
    fun s o hready => ?bins, fun s o hready => ?add64, fun s o hodd => ?odd⟩
  case bins =>
    intro b p
    refine ⟨_, (exec_bins o s).trans (runOp_ready hready rfl), fun hempty => ?empty, fun hfield hd k hk => ?bits,
      fun hfield => ?frame⟩
    case empty =>
      rw [State.binsDone, if_pos (show fieldLen (s.bval o.b) = 0 from hempty)]
      exact ⟨by rw [State.markDue_tile_core], (Frame.refl s).markDue _⟩
    case bits =>
      rw [State.binsDone, if_neg (show ¬ fieldLen (s.bval o.b) = 0 from hfield), State.markDue_tile_core, deliver_now_reg,
        valueOf, if_neg hd]
      exact getLsbD_binsWord _ _ _ hk
    case frame =>
      rw [State.binsDone, if_neg (show ¬ fieldLen (s.bval o.b) = 0 from hfield)]
      exact (deliver_regs_frame s [(o.d, _)] 0).markDue _
  case add64 =>
    intro v
    have ⟨_, hfields, _⟩ := hready
    have heven : isEven o.d = true := by simp_all [Tile.pairOk]
    obtain ⟨hlow, hhigh⟩ := deliver_now_pair s (even_ne_or_one heven) ((s.sum64 o).setWidth 32)
      ((s.sum64 o >>> 32).setWidth 32) 0
    refine ⟨_, (exec_add64 o s).trans (runOp_ready hready rfl), ?low, ?high,
      (deliver_regs_frame s [(o.d, _), (o.d ||| 1, _)] 0).markDue _⟩
    case low => rw [State.markDue_tile_core, State.add64Done, hlow, setWidth_low, sum64_toNat]
    case high =>
      rw [State.markDue_tile_core, State.add64Done, hhigh, valueOf, if_neg (or_one_ne_zero o.d), setWidth_high, sum64_toNat]
  case odd =>
    rw [exec_add64]
    refine runOp_check ?_
    show operandCheck (s.src.pairOk o.d && s.src.pairOk o.a && s.src.b64Ok o.b) = some .illegalOperand
    rw [add64_fields_of_odd hodd]
    rfl

end Sys2Proof.Machine
end

section
/-! PROOFS. The checks of a control register's number (R113, R115, R379): the causes that the tables give, and the trap they raise
whatever the guard. -/

namespace Sys2Proof.Machine

open Sys2Proof.Claims

/-! ### The tables -/

/-- A task number is one that the table of R114 lists. -/
theorem taskCr_iff (n : Nat) : taskCr n = true ↔ n ∈ taskNumbers := by
  simp only [taskCr, taskNumbers, Bool.or_eq_true, Bool.and_eq_true, decide_eq_true_eq, List.mem_append, List.mem_map,
    List.mem_range, List.mem_cons, List.not_mem_nil, or_false]
  constructor
  · rintro (h | ⟨hlo, hhi⟩)
    · omega
    · exact .inr ⟨n - 8, by omega, by omega⟩
  · rintro (h | ⟨k, hk, rfl⟩)
    · omega
    · exact .inr ⟨by omega, by omega⟩

/-- A number of the tables is a task or a supervisor register of the model. -/
theorem listedCr_iff (n : Nat) : (taskCr n || supCr n) = true ↔ n ∈ taskNumbers ++ supervisorNumbers := by
  rw [Bool.or_eq_true, List.mem_append, taskCr_iff, supCr, List.contains_iff_mem, supervisorNumbers]

/-- A listed register is writable unless the tables give it as read-only. -/
theorem rwCr_of_listed : ∀ n ∈ taskNumbers ++ supervisorNumbers, rwCr n = !decide (n ∈ readOnlyNumbers) := by decide

/-! ### The cause of a number -/

/-- A supervisor number in a task raises privilege before anything else. -/
theorem crCause_privilege (write : Bool) (num : Word) (hlo : 0x100 ≤ num.toNat) (hhi : num.toNat < 0x400) :
    crCause false write num = some .privilege := by
  have hsup : (false || decide (num.toNat < 0x100) || decide (0x400 ≤ num.toNat)) = false := by
    simp only [Bool.false_or, Bool.or_eq_false_iff, decide_eq_false_iff_not]; omega
  simp only [crCause, firstCause, hsup, Bool.false_eq_true, if_false]

/-- Outside that case the cause is that of the tables. -/
theorem crCause_of_reachable {sup : Bool} {num : Word} (write : Bool)
    (h : num.toNat < 0x100 ∨ 0x400 ≤ num.toNat ∨ sup = true) :
    crCause sup write num =
      firstCause [(taskCr num.toNat || supCr num.toNat, .illegalOperand), (!write || rwCr num.toNat, .illegalOperand)] := by
  have hsup : (sup || decide (num.toNat < 0x100) || decide (0x400 ≤ num.toNat)) = true := by
    rcases h with h | h | h
    · simp only [decide_eq_true h, Bool.or_true, Bool.true_or]
    · simp only [decide_eq_true h, Bool.or_true]
    · simp only [h, Bool.true_or]
  simp only [crCause, firstCause, hsup, if_true]

theorem crCause_unlisted {sup : Bool} {num : Word} (write : Bool)
    (h : num.toNat < 0x100 ∨ 0x400 ≤ num.toNat ∨ sup = true) (hn : num.toNat ∉ taskNumbers ++ supervisorNumbers) :
    crCause sup write num = some .illegalOperand := by
  have hlisted : (taskCr num.toNat || supCr num.toNat) = false := Bool.eq_false_iff.mpr (mt (listedCr_iff _).mp hn)
  simp only [crCause_of_reachable write h, firstCause, hlisted, Bool.false_eq_true, if_false]

theorem crCause_listed {sup : Bool} {num : Word} (write : Bool)
    (h : num.toNat < 0x100 ∨ sup = true) (hn : num.toNat ∈ taskNumbers ++ supervisorNumbers) :
    crCause sup write num = if write = true ∧ num.toNat ∈ readOnlyNumbers then some .illegalOperand else none := by
  have hlisted : (taskCr num.toNat || supCr num.toNat) = true := (listedCr_iff _).mpr hn
  rw [crCause_of_reachable write (h.imp_right .inr)]
  simp only [firstCause, hlisted, if_true, rwCr_of_listed _ hn]
  by_cases hro : num.toNat ∈ readOnlyNumbers
  · cases write <;> simp [hro]
  · cases write <;> simp [hro]

/-! ### The trap -/

/-- Once its operands are ready and its fields pass, the check of a register operation is that of its number. -/
theorem crCheck_of_ready {s : State} {ok write : Bool} {b : BOp} {u : Uses} (hok : ok = true) (hw : s.waits u = false) :
    s.crCheck ok write b u = crCause s.src.core.sup write (s.bval b) := by
  simp [State.crCheck, hok, hw]

/-- The checks and waits of `rdcr`: its fields and its number (R113, R115), and for cr.flags the flags to come (R82). -/
def State.rdcrGate (s : State) (o : FDB) : Gate :=
  let u := usesRegs o.b.regs [o.d]
  { s.gate o.g (s.crCheck (s.src.regOk o.d && s.src.bOk o.b) false o.b u) u with
    wait := decide ((s.bval o.b).toNat = 1) && s.src.flagsBusy }

/-- A `rdcr` whose check fails takes its trap. -/
theorem exec_rdcr_check {s : State} {o : FDB} {c : Cause} (h : (s.rdcrGate o).chk = some c) :
    exec (.rdcr o) s = .next (s.trapAt c s.iss.raw 0 0 .trapDecode) := by
  show execRdcr o s = _
  unfold execRdcr
  exact runOp_check h

/-- A `wrcr` whose check fails takes its trap. -/
theorem exec_wrcr_check {s : State} {o : FAB} {c : Cause} (h : (s.wrcrGate o).chk = some c) :
    exec (.wrcr o) s = .next (s.trapAt c s.iss.raw 0 0 .trapDecode) := by
  rw [exec_wrcr, runOp_check h]

/-- Settles O16: the trap is the decode check of the number, and its cause that of the tables. -/
theorem controlRegisterTraps : Obligations.ControlRegisterTraps := by
  refine ⟨fun s o c hc hw hok => exec_rdcr_check ((crCheck_of_ready hok hw).trans hc),
    fun s o c hc hw hok => exec_wrcr_check ((crCheck_of_ready hok hw).trans hc), crCause_privilege,
    fun sup write num h hn => crCause_unlisted write h hn, fun sup num h hn => ⟨?read, ?write⟩⟩
  case read => rw [crCause_listed false h hn]; simp
  case write => rw [crCause_listed true h hn]; simp

end Sys2Proof.Machine
end

section
/-! PROOFS. The compares and the predicate instructions (R108 to R112): the predicate and the flags they write, and the words
that are no instruction. -/

namespace Sys2Proof.Machine

open Sys2Proof.Claims

/-! ### Writing a predicate -/

theorem pred_putPred (s : State) (pd : BitVec 3) (v : Bool) (fl : Word) :
    (s.putPred pd v fl).tile.core.pred pd = (decide (pd = 0) || v) := by
  have h : (s.putPred pd v fl).tile.core.pred pd = (s.tile.core.setPred pd v).pred pd := rfl
  rw [h, pred_setPred, if_pos rfl]

/-- A write of a predicate, with its flags, changes that predicate and the flags alone. -/
theorem putPred_frame (s : State) (pd : BitVec 3) (v : Bool) (fl : Word) :
    Frame s (s.putPred pd v fl) [] [] [pd] [] fl := by
  have h := deliver_regs_frame { s with tile := { s.tile with core := s.tile.core.setPred pd v } } [] fl
  exact
    { h with
      reg := fun r hr => (h.reg r hr).trans (by simp [Core.reg])
      lat := fun i hi => (h.lat i hi).trans (by simp [Core.latEl])
      pred := fun p hp => (h.pred p List.not_mem_nil).trans
        ((pred_setPred _ pd p v).trans (if_neg (List.ne_of_not_mem_cons hp)))
      port := fun q hq => (h.port q hq).trans (by simp [Core.port])
      flags := h.flags.trans (by simp)
      special := h.special.trans (by simp [Core.special])
      tokens := h.tokens.trans (by simp) }

/-- Outcome `o` is a next state in which PD holds `v` (p0 is always true), the flags are `fl` more, and nothing else has changed. -/
def WritesPred (s : State) (o : Host.Outcome State Fault Refusal) (pd : BitVec 3) (v : Bool) (fl : Word) : Prop :=
  ∃ t, o = .next t ∧ t.tile.core.pred pd = (decide (pd = 0) || v) ∧ Frame s t [] [] [pd] [] fl

/-- A ready operation whose body writes PD and flags does that and no more. -/
theorem writesPred_of_putPred {s : State} {g : Guard} {ok : Bool} {srcs : List Reg} {pd : BitVec 3} {v : Bool} {fl : Word}
    {body : State → Body} (h : Ready s g ok (usesRegs srcs [])) (hbody : body s = .ok (s.putPred pd v fl)) :
    WritesPred s (s.runOp (s.gate g (operandCheck ok) (usesRegs srcs [])) body) pd v fl :=
  ⟨_, runOp_ready h hbody, by rw [State.markDue_tile_core, pred_putPred], (putPred_frame s pd v fl).markDue _⟩

/-- A ready compare writes PD and its flags from sA and Bval. -/
theorem writesPred_compare {s : State} {o : FC}
    (h : Ready s o.g (s.src.regOk o.a && s.src.bOk o.b) (usesRegs (o.a :: o.b.regs) [])) (f : Word → Word → Bool × Word) :
    WritesPred s (s.compare o f) o.pd (f (s.rd o.a) (s.bval o.b)).1 (f (s.rd o.a) (s.bval o.b)).2 :=
  writesPred_of_putPred h rfl

/-- An operation that names no register waits for nothing but its guard. -/
theorem ready_of_on {s : State} {g : Guard} (h : s.on g = true) : Ready s g true (usesRegs [] []) :=
  ⟨h, rfl, by simp [State.free?, State.waits, State.tokenCheckpoint, State.streamFault, usesRegs]⟩

/-! ### The conditions -/

theorem ccInt_eq (cc : BitVec 3) (a b : Int) : ccInt cc a b = holdsInt cc.toNat a b := by
  unfold ccInt holdsInt
  generalize cc.toNat = k
  match k with
  | 0 | 1 | 2 | 3 | 4 | _ + 5 => rfl

/-- The exponent and the fraction of an f32 pattern (R68). -/
def exp32 (x : Word) : Nat := x.toNat / 2 ^ 23 % 2 ^ 8
def frac32 (x : Word) : Nat := x.toNat % 2 ^ 23

/-- The magnitude of an f32 pattern is its exponent followed by its fraction. -/
theorem mag32_eq (x : Word) : x.toNat % 2 ^ 31 = exp32 x * 2 ^ 23 + frac32 x := by
  unfold exp32 frac32
  omega

theorem exp32_le (x : Word) : exp32 x ≤ 255 := by unfold exp32; omega

theorem frac32_lt (x : Word) : frac32 x < 2 ^ 23 := by unfold frac32; omega

/-- The quiet bit of a NaN is the top bit of its fraction (R70). -/
theorem quiet32_iff (x : Word) : x.getLsbD 22 = true ↔ 2 ^ 22 ≤ frac32 x := by
  rw [← BitVec.testBit_toNat, Nat.testBit_eq_decide_div_mod_eq, decide_eq_true_eq, frac32]
  omega

/-- The value of an f32 pattern (R68 to R70), by exponent and fraction. -/
theorem decode_f32 (x : Word) :
    FFmt.f32.decode x.toNat =
      if exp32 x = 255 then
        if frac32 x = 0 then .inf (decide (x.toNat / 2 ^ 31 % 2 = 1))
        else .nan (decide (FFmt.f32 ≠ .e5m2 ∧ frac32 x < 2 ^ 22))
      else if exp32 x = 0 then .fin (decide (x.toNat / 2 ^ 31 % 2 = 1)) (frac32 x) (1 - 127 - 23)
      else .fin (decide (x.toNat / 2 ^ 31 % 2 = 1)) (2 ^ 23 + frac32 x) ((exp32 x : Int) - 127 - 23) := rfl

theorem nan32_eq (x : Word) : nan32 x = decide (exp32 x = 255 ∧ frac32 x ≠ 0) := by
  have hexp := exp32_le x
  have hfrac := frac32_lt x
  rw [nan32, mag32_eq, decide_eq_decide]
  omega

theorem special32_eq (x : Word) : special32 x = decide (exp32 x = 255) := by
  have hexp := exp32_le x
  have hfrac := frac32_lt x
  rw [special32, mag32_eq, decide_eq_decide]
  omega

/-- The kinds of f32 patterns (R70): infinities, NaNs and numbers. -/
theorem decode_f32_cases (x : Word) :
    (exp32 x = 255 ∧ frac32 x = 0 ∧ ∃ n, FFmt.f32.decode x.toNat = .inf n) ∨
    (exp32 x = 255 ∧ frac32 x ≠ 0 ∧ FFmt.f32.decode x.toNat = .nan (decide (FFmt.f32 ≠ .e5m2 ∧ frac32 x < 2 ^ 22))) ∨
    (exp32 x ≠ 255 ∧ ∃ n m e, FFmt.f32.decode x.toNat = .fin n m e) := by
  rw [decode_f32]
  by_cases hexp : exp32 x = 255
  · by_cases hfrac : frac32 x = 0
    · exact .inl ⟨hexp, hfrac, _, (if_pos hexp).trans (if_pos hfrac)⟩
    · exact .inr (.inl ⟨hexp, hfrac, (if_pos hexp).trans (if_neg hfrac)⟩)
  · by_cases hzero : exp32 x = 0
    · exact .inr (.inr ⟨hexp, _, _, _, (if_neg hexp).trans (if_pos hzero)⟩)
    · exact .inr (.inr ⟨hexp, _, _, _, (if_neg hexp).trans (if_neg hzero)⟩)

theorem isNan_f32 (x : Word) : (FFmt.f32.decode x.toNat).isNan = nan32 x := by
  rw [nan32_eq]
  rcases decode_f32_cases x with ⟨_, hfrac, n, h⟩ | ⟨hexp, hfrac, h⟩ | ⟨hexp, n, m, e, h⟩
  · rw [h]; exact (decide_eq_false fun hc => hc.2 hfrac).symm
  · rw [h]; exact (decide_eq_true ⟨hexp, hfrac⟩).symm
  · rw [h]; exact (decide_eq_false fun hc => hexp hc.1).symm

theorem isSnan_f32 (x : Word) : (FFmt.f32.decode x.toNat).isSnan = snan32 x := by
  rw [snan32, ← isNan_f32]
  rcases decode_f32_cases x with ⟨_, _, n, h⟩ | ⟨_, _, h⟩ | ⟨_, n, m, e, h⟩
  · rw [h]; rfl
  · rw [h, FVal.isSnan, FVal.isNan, Bool.true_and, Bool.eq_iff_iff, decide_eq_true_eq, Bool.not_eq_true', ← Bool.not_eq_true,
      quiet32_iff, Nat.not_le]
    exact ⟨And.right, fun hf => ⟨nofun, hf⟩⟩
  · rw [h]; rfl

theorem nonFinite_f32 (x : Word) : (FFmt.f32.decode x.toNat).nonFinite = special32 x := by
  rw [special32_eq]
  rcases decode_f32_cases x with ⟨hexp, _, n, h⟩ | ⟨hexp, _, h⟩ | ⟨hexp, n, m, e, h⟩
  · rw [h]; exact (decide_eq_true hexp).symm
  · rw [h]; exact (decide_eq_true hexp).symm
  · rw [h]; exact (decide_eq_false hexp).symm

theorem ord_f32 (x : Word) : FFmt.f32.ord x.toNat = order32 x := by
  have hsign : x.getLsbD 31 = decide (x.toNat / 2 ^ 31 % 2 = 1) := by
    rw [← BitVec.testBit_toNat, Nat.testBit_eq_decide_div_mod_eq]
  rw [order32, hsign]
  simp only [decide_eq_true_eq]
  rfl

/-- A signalling NaN is a NaN. -/
theorem nan32_of_snan32 {x : Word} (h : snan32 x = true) : nan32 x = true := (Bool.and_eq_true_iff.mp h).1

/-- The invalid flag of `cmp.f32` (R110): the ordered conditions raise it for any NaN, the others for a signalling one. -/
theorem invalid_eq (k : Nat) (a b : Word) :
    (snan32 a || snan32 b || (nan32 a || nan32 b) && decide (2 ≤ k) && decide (k ≤ 5)) =
      if 2 ≤ k ∧ k ≤ 5 then nan32 a || nan32 b else snan32 a || snan32 b := by
  have ha := nan32_of_snan32 (x := a)
  have hb := nan32_of_snan32 (x := b)
  by_cases h : 2 ≤ k ∧ k ≤ 5
  · rw [if_pos h, decide_eq_true h.1, decide_eq_true h.2]
    grind
  · rw [if_neg h]
    grind

/-- `cmp.f32` is its table (R110). -/
theorem cmpF32_eq (cc : BitVec 3) (a b : Word) : cmpF32 cc a b = floatCompare cc.toNat a b := by
  unfold cmpF32 floatCompare
  simp only [isNan_f32, isSnan_f32, nonFinite_f32, ord_f32, ccInt_eq, invalid_eq]
  refine Prod.ext ?pred rfl
  case pred =>
    generalize (nan32 a || nan32 b) = nan
    generalize cc.toNat = k
    match k with
    | 6 => rfl
    | 7 => rfl
    | 1 => cases nan <;> rfl
    | 0 | 2 | 3 | 4 | 5 | _ + 8 => cases nan <;> rfl

/-! ### The compares -/

/-- Each row of the compare class is what the model writes. -/
theorem writesPred_of_compareRow {i : Instr} {s : State} {o : FC} {r : Bool} {fl : Word}
    (h : compareRow i (s.rd o.a) (s.bval o.b) = some (o, r, fl))
    (hready : Ready s o.g (s.src.regOk o.a && s.src.bOk o.b) (usesRegs (o.a :: o.b.regs) [])) :
    WritesPred s (exec i s) o.pd r fl := by
  unfold compareRow at h
  split at h
  all_goals cases h
  case h_1 =>
    rw [← ccInt_eq]
    exact writesPred_compare hready fun a b => (ccInt o.cc a.toInt b.toInt, 0)
  case h_2 =>
    rw [← ccInt_eq]
    exact writesPred_compare hready fun a b => (ccInt o.cc a.toNat b.toNat, 0)
  case h_3 =>
    have hwrites := writesPred_compare hready (cmpF32 o.cc)
    rw [cmpF32_eq] at hwrites
    exact hwrites
  case h_4 => exact writesPred_compare hready fun a b => (a.getLsbD (b.toNat % 32) == decide (o.cc = 1), 0)

/-! ### Words that are no instruction -/

theorem decodeWord_none {w : Word} (h : (Raw.ofWord w).toInstr = none) : (decodeWord w).toOption = none := by
  unfold decodeWord
  simp only [h]
  split <;> rfl

/-- The high part of a six-bit field, as bits of the word. -/
theorem extractLsb'_high3 (w : Word) (k : Nat) : (w.extractLsb' k 6).extractLsb' 3 3 = w.extractLsb' (k + 3) 3 := by
  ext i hi
  simp [show 3 + i < 6 by omega, Nat.add_assoc]

/-- The shapes of the fields of `pand`, `por`, `pxor`, `pnot` and `btst` (R111, R112). -/
theorem toInstr_of_op (r : Raw) :
    (r.op = 0x33 → r.toInstr = ofFP .pand r) ∧ (r.op = 0x34 → r.toInstr = ofFP .por r) ∧
    (r.op = 0x35 → r.toInstr = ofFP .pxor r) ∧ (r.op = 0x36 → r.toInstr = ofFN .pnot r) ∧
    (r.op = 0x37 → r.toInstr = ofFC2 .btst r) := by
  obtain ⟨op, g, d, a, b, m⟩ := r
  refine ⟨?_, ?_, ?_, ?_, ?_⟩
  all_goals
    intro h
    change op = _ at h
    subst h
    exact rfl

/-- Reserved bits of a two-source predicate word make it no instruction (R111). -/
theorem ofFP_none {k : FP → Instr} {r : Raw} (h : r.a.extractLsb' 3 3 ≠ 0 ∨ r.b.extractLsb' 3 3 ≠ 0 ∨ r.m ≠ 0) :
    ofFP k r = none := by
  unfold ofFP
  exact if_neg fun ⟨ha, hb, hm⟩ => h.elim (· ha) (·.elim (· hb) (· hm))

/-- Reserved bits of a `pnot` word make it no instruction (R111). -/
theorem ofFN_none {k : FN → Instr} {r : Raw} (h : r.a.extractLsb' 3 3 ≠ 0 ∨ r.b.extractLsb' 3 3 ≠ 0 ∨ r.m ≠ 0) :
    ofFN k r = none := by
  unfold ofFN
  refine if_neg fun ⟨_, ha, hb, hm⟩ => h.elim (· ha) (·.elim (fun hb' => hb' ?_) (· hm))
  rw [hb]
  rfl

/-- A condition other than 000 and 001 makes a `btst` word no instruction (R112). -/
theorem ofFC2_none {k : FC → Instr} {r : Raw} (h : 2 ≤ (r.d.extractLsb' 3 3).toNat) : ofFC2 k r = none :=
  if_neg (Nat.not_lt.mpr h)

/-- Settles O17: each compare writes its row, `cmp.f32` by its table; the decoder refuses another CC of `btst`. -/
theorem compareResult : Obligations.CompareResult := by
  refine ⟨fun i s o r fl hrow hready => writesPred_of_compareRow hrow hready, fun w hop hcc => decodeWord_none ?_⟩
  obtain ⟨_, _, _, _, hbtst⟩ := toInstr_of_op (Raw.ofWord w)
  rw [hbtst hop]
  exact ofFC2_none ((congrArg BitVec.toNat (extractLsb'_high3 w 14)).symm ▸ hcc)

/-! ### The predicate instructions -/

/-- A two-source predicate instruction whose guard is true writes f of its sources, each negated as its bit says (R111). -/
theorem writesPred_predOp {s : State} {o : FP} (h : s.on o.g = true) (f : Bool → Bool → Bool) :
    WritesPred s (s.predOp o f) o.pd
      (f (s.src.core.pred o.a ^^ o.k.getLsbD 0) (s.src.core.pred o.b ^^ o.k.getLsbD 1) ^^ o.k.getLsbD 2) 0 :=
  writesPred_of_putPred (ready_of_on h) rfl

/-- Each row of R111 is what the model writes, negated as NR says. -/
theorem writesPred_of_predicateRow {i : Instr} {s : State} {o : FP} {r : Bool}
    (h : predicateRow i (s.src.core.pred o.a ^^ o.k.getLsbD 0) (s.src.core.pred o.b ^^ o.k.getLsbD 1) = some (o, r))
    (hon : s.on o.g = true) : WritesPred s (exec i s) o.pd (r ^^ o.k.getLsbD 2) 0 := by
  unfold predicateRow at h
  split at h
  all_goals cases h
  case h_1 => exact writesPred_predOp hon (· && ·)
  case h_2 => exact writesPred_predOp hon (· || ·)
  case h_3 => exact writesPred_predOp hon (· != ·)

theorem exec_pnot (o : FN) (s : State) :
    exec (.pnot o) s = s.runOp (s.gate o.g (operandCheck true) (usesRegs [] []))
      fun x => .ok (x.putPred o.pd (!x.src.core.pred o.a) 0) := rfl

/-- Settles O18: the two-source instructions write their rows, `pnot` the negation; the decoder refuses the reserved bits. -/
theorem predicateResult : Obligations.PredicateResult := by
  refine ⟨fun i s o r hrow hon => writesPred_of_predicateRow hrow hon, fun s o hon => ?pnot,
    fun w hop hbits => decodeWord_none ?reserved⟩
  case pnot =>
    rw [exec_pnot]
    exact writesPred_of_putPred (ready_of_on hon) rfl
  case reserved =>
    obtain ⟨hpand, hpor, hpxor, hpnot, _⟩ := toInstr_of_op (Raw.ofWord w)
    have hfields : (Raw.ofWord w).a.extractLsb' 3 3 ≠ 0 ∨ (Raw.ofWord w).b.extractLsb' 3 3 ≠ 0 ∨ (Raw.ofWord w).m ≠ 0 :=
      hbits.imp ((extractLsb'_high3 w 8).symm ▸ ·) (Or.imp_left ((extractLsb'_high3 w 2).symm ▸ ·))
    simp only [List.mem_cons, List.not_mem_nil, or_false] at hop
    rcases hop with hop | hop | hop | hop
    · rw [hpand hop]; exact ofFP_none hfields
    · rw [hpor hop]; exact ofFP_none hfields
    · rw [hpxor hop]; exact ofFP_none hfields
    · rw [hpnot hop]; exact ofFN_none hfields

end Sys2Proof.Machine
end

section
/-! PROOFS. A vector result for an output stream (R151, R205), refuted: an unbound port that still holds a vector. -/

namespace Sys2Proof.Machine

open Sys2Proof.Claims

/-! ### The counterexample

A vector for a port that an earlier word has unbound is written all the same, and with it every output vector that waits lands
(`State.pushPort`, log entry 107). The statement rules out such vectors of other ports by asking that the port written holds a vector
or that none waits; an unbound port that holds one meets this while a vector of another port waits. That other port is read here: it
must stay as it is, and loses its vector. -/

/-- A port bound to a stream of eight vectors, at vector `pos`, with the vectors in its FIFO. -/
def streamPort (out : Bool) (pos : Nat) (fifo : List Vec) : Port := ⟨true, out, List.replicate 16 0, 8, pos, fifo, false, 0⟩

/-- The reset tile with these stream ports 0 and 1. -/
def tileWithPorts (p0 p1 : Port) : Tile :=
  { Tile.reset 0 with core := (Core.reset.setPort 0 p0).setPort 1 p1 }

/-- The bundle found input port 0 with a vector and output port 1; now port 0 is an output port whose vector waits to land, and port 1
is unbound but holds a vector. -/
def unboundHolding : State :=
  { State.reset with
    src := tileWithPorts (streamPort false 0 [vecZero]) (streamPort true 0 [])
    tile := tileWithPorts (streamPort true 1 [vecZero]) { Port.unbound with fifo := [vecZero] } }

/-- The operands of `vmov` from port 0 to port 1. -/
def moveBetweenPorts : FVA := ⟨0, .port 1, .port 0⟩

/-- The row of a `vmov` (R168). -/
def vmovRow (s : State) (o : FVA) : VRow :=
  ⟨o.g, o.d, [], [o.a], false, 2, packed 32, lanesOf (s.rdV o.a), allFlags 16 fun _ => 0⟩

theorem vectorRow_vmov (s : State) (o : FVA) : vectorRow s (.vmov o) = some (vmovRow s o) := rfl

theorem ready_moveBetweenPorts :
    Ready unboundHolding 0 ((vmovRow unboundHolding moveBetweenPorts).ok unboundHolding)
      (vmovRow unboundHolding moveBetweenPorts).uses := by
  unfold Ready; decide +kernel

theorem clean_moveBetweenPorts : clean unboundHolding (vmovRow unboundHolding moveBetweenPorts).reads = true := by decide +kernel

/-- The FIFO of port 0 after an outcome. -/
def fifoAfter : Host.Outcome State Fault Refusal → Option (List Vec)
  | .next t => some (t.tile.core.port 0).fifo
  | .fault _ => none
  | .refused _ => none

/-- The vector of port 0 lands with the one written to port 1. -/
theorem fifoAfter_moveBetweenPorts : fifoAfter (exec (.vmov moveBetweenPorts) unboundHolding) = some [] := by decide +kernel

/-- Refutes O28: where the port written is unbound but holds a vector, a vector of the port read lands, which `Advanced` has stay. -/
theorem not_vectorToStream : ¬ Obligations.VectorToStream := by
  intro h
  obtain ⟨t, v, hexec, -, -, hadvanced, -⟩ :=
    h (.vmov moveBetweenPorts) unboundHolding (vmovRow unboundHolding moveBetweenPorts) 1 (vectorRow_vmov _ _) rfl
      ready_moveBetweenPorts clean_moveBetweenPorts (.inl (List.cons_ne_nil vecZero []))
  have hlanded : (t.tile.core.port 0).fifo = [] := by
    have hafter := fifoAfter_moveBetweenPorts
    rw [hexec] at hafter
    exact Option.some.inj hafter
  have hstays : t.tile.core.port 0 = streamPort true 1 [vecZero] :=
    (hadvanced 0 List.mem_cons_self).2 (by decide +kernel)
  rw [hstays] at hlanded
  exact List.cons_ne_nil vecZero [] hlanded

end Sys2Proof.Machine
end

section
/-! PROOFS. The waits of `barw` and `wge`, and `phase.acq` (R256, R257, R259): checkpointing operations that end at once or leave
their bundle to wait. -/

namespace Sys2Proof.Machine

open Sys2Proof.Claims

/-! ### Checkpointing operations -/

/-- What comes of the answer of a checkpointing operation's body: its effect ends the interval (R137). -/
def State.answerCk (s : State) : Body → Host.Outcome State Fault Refusal
  | .ok t => .next (t.markDue true)
  | .trap c info bits code => .next (s.trapAt c info bits code .trapExec)
  | .stall => .next (s.setStatus .stall)
  | .waiting t => .next (t.setStatus .stall)
  | .ckpt => .next (s.setStatus .ckpt)

/-- A checkpointing operation on scalar registers, the checkpoint before it taken, does what its body does. -/
theorem runOp_ckop {s : State} {g : Guard} {chk : Option Cause} {srcs dsts : List Reg} (body : State → Body)
    (hchk : chk = none) (hon : s.on g = true) (hfree : s.free? (usesRegs srcs dsts) = true) (hck : s.src.ckFresh = true) :
    s.runOp { s.gate g chk (usesRegs srcs dsts) with ckop := true } body = s.answerCk (body s) := by
  have hpop : s.popUses (usesRegs srcs dsts) = s := popUses_none rfl
  rw [runOp_go (x := { s.gate g chk (usesRegs srcs dsts) with ckop := true }) hchk hon rfl (fun _ => hck) hfree]
  simp only [State.gate, hpop]
  cases body s <;> rfl

/-! ### The checks of R254 -/

section SyncChecks

variable {s : State} {a n : Nat} {write barrier : Bool} (go : Body)

theorem syncBody_misaligned (h : a % n ≠ 0) : s.syncBody a n write barrier go = .trap .misaligned (nat32 a) 0 0 := by
  simp [State.syncBody, State.syncCause, firstCause, h]

theorem syncBody_accessFault (ha : a % n = 0) (h : syncOk s a n write barrier = false) :
    s.syncBody a n write barrier go = .trap .accessFault (nat32 a) 0 0 := by
  rw [syncOk, decide_eq_true ha, Bool.true_and] at h
  simp [State.syncBody, State.syncCause, firstCause, ha, h]

theorem syncBody_of_syncOk (h : syncOk s a n write barrier = true) : s.syncBody a n write barrier go = go := by
  obtain ⟨ha, hin⟩ := Bool.and_eq_true_iff.mp h
  simp only [State.syncBody, State.syncCause, firstCause, ha, hin, if_true]

end SyncChecks

/-! ### What the object shows -/

/-- The generations from g to the object's, counted modulo 2^32 (R256). -/
theorem toNat_nat32_sub (k : Nat) (g : Word) : ((nat32 k - g).toNat : Int) = ((k : Int) - g.toNat) % 2 ^ 32 := by
  rw [BitVec.toNat_sub, nat32, BitVec.toNat_ofNat]
  have := g.isLt
  omega

theorem phaseDone_nat32 (k : Nat) (g : Word) :
    phaseDone (nat32 k) g =
      (decide (1 ≤ ((k : Int) - g.toNat) % 2 ^ 32) && decide (((k : Int) - g.toNat) % 2 ^ 32 ≤ 2 ^ 31)) := by
  rw [phaseDone, ← toNat_nat32_sub]
  congr 2 <;> simp only [eq_iff_iff] <;> omega

theorem nat32_mapNat_one (s : State) (ctx own a : Nat) : nat32 (s.mapNat ctx own a 1) = (s.mapByte ctx own a).setWidth 32 :=
  BitVec.ofNat_toNat _ _

theorem bval64z_toNat (s : State) (b : BOp) : (s.bval64z b).toNat = wide s b := by
  cases b with
  | reg r => exact rdPair_toNat s r
  | pool k => exact BitVec.toNat_setWidth_of_le (by decide)
  | imm v => exact BitVec.toNat_setWidth_of_le (by decide)

/-! ### The body of a wait -/

/-- A wait on the n bytes at sA: `late` says that the object allows it to end, with the value `v`; a logged result ends it too
(R140). -/
def State.waitBody (s : State) (o : FS) (n : Nat) (bar late : Bool) (v : Word) (x : State) : Body :=
  s.syncBody (s.rd o.a).toNat n false bar <|
    match s.src.logged s.iss.word false with
    | some w => .ok (x.deliver 1 [(.sreg o.d, w)] 0)
    | none => if late then .ok (x.endWait o.d v) else .stall

theorem waitBody_logged {s x : State} {o : FS} {n : Nat} {bar late : Bool} {v w : Word}
    (hok : syncOk s (s.rd o.a).toNat n false bar = true) (hlog : s.src.logged s.iss.word false = some w) :
    s.waitBody o n bar late v x = .ok (x.deliver 1 [(.sreg o.d, w)] 0) := by
  rw [State.waitBody, syncBody_of_syncOk _ hok, hlog]

theorem waitBody_unlogged {s x : State} {o : FS} {n : Nat} {bar late : Bool} {v : Word}
    (hok : syncOk s (s.rd o.a).toNat n false bar = true) (hlog : s.src.logged s.iss.word false = none) :
    s.waitBody o n bar late v x = if late then .ok (x.endWait o.d v) else .stall := by
  rw [State.waitBody, syncBody_of_syncOk _ hok, hlog]

/-- The gate of `barw` and `wge`: a checkpointing operation (R137). -/
def State.waitGate (s : State) (o : FS) (ok : Bool) (srcs : List Reg) : Gate :=
  { s.gate o.g (operandCheck ok) (usesRegs srcs [o.d]) with ckop := true }

theorem exec_barw (o : FS) (s : State) :
    exec (.barw o) s = s.runOp (s.waitGate o (fsOk s o) (o.a :: o.b.regs))
      (s.waitBody o 16 true
        (phaseDone (nat32 (s.atIssue.mapNat s.src.ctx s.src.ltile ((s.rd o.a).toNat + 12) 4)) (s.bval o.b))
        (nat32 (s.atIssue.mapNat s.src.ctx s.src.ltile ((s.rd o.a).toNat + 9) 1))) := rfl

theorem exec_wge (o : FS) (s : State) :
    exec (.wge o) s = s.runOp (s.waitGate o (s.src.regOk o.d && s.src.regOk o.a && s.src.b64Ok o.b) (o.a :: o.b.regs64))
      (s.waitBody o 8 false
        (decide ((s.bval64z o.b).toNat ≤ s.atIssue.mapNat s.src.ctx s.src.ltile (s.rd o.a).toNat 8))
        (nat32 (s.atIssue.mapNat s.src.ctx s.src.ltile (s.rd o.a).toNat 8))) := by
  show execWge o s = _
  unfold execWge State.waitGate State.waitBody
  simp only [decide_eq_true_eq] <;> rfl

/-- The instructions of `waitRow` run the body of their row. -/
theorem exec_of_waitRow {i : Instr} {s : State} {o : FS} {ok : Bool} {u : Uses} {n : Nat} {bar late : Bool} {v : Word}
    (hrow : waitRow s i = some (o, ok, u, n, bar, late, v)) :
    ∃ srcs, u = usesRegs srcs [o.d] ∧ exec i s = s.runOp (s.waitGate o ok srcs) (s.waitBody o n bar late v) := by
  unfold waitRow at hrow
  split at hrow
  case h_1 =>
    cases hrow
    exact ⟨_, rfl, by rw [exec_barw, phaseDone_nat32, nat32_mapNat_one]⟩
  case h_2 =>
    cases hrow
    exact ⟨_, rfl, by rw [exec_wge, bval64z_toNat]; rfl⟩
  case h_3 => nomatch hrow

/-- A ready wait, the checkpoint before it taken, answers as its body does. -/
theorem exec_wait {i : Instr} {s : State} {o : FS} {ok : Bool} {u : Uses} {n : Nat} {bar late : Bool} {v : Word}
    (hrow : waitRow s i = some (o, ok, u, n, bar, late, v)) (hready : Ready s o.g ok u) (hck : s.src.ckFresh = true) :
    exec i s = s.answerCk (s.waitBody o n bar late v s) := by
  obtain ⟨srcs, rfl, hexec⟩ := exec_of_waitRow hrow
  obtain ⟨hon, hok, hfree⟩ := hready
  have hchk : operandCheck ok = none := by simp [operandCheck, firstCause, hok]
  rw [hexec, State.waitGate, runOp_ckop _ hchk hon hfree hck]

/-! ### The end of a wait -/

theorem logResult_of_none {t : Tile} {word : Nat} {hi : Bool} (v : Word) (h : t.logged word hi = none) :
    t.logResult word hi v = { t with recov := { t.recov with log := t.recov.log ++ [⟨word, hi, v⟩] } } := by
  rw [Tile.logResult, h]

/-- The log of an interval's results is no part of a frame. -/
theorem Frame.of_log {s t : State} {regs els preds ports fl} (l : List LogEntry)
    (h : Frame { s with tile := { s.tile with recov := { s.tile.recov with log := l } } } t regs els preds ports fl) :
    Frame s t regs els preds ports fl :=
  { h with rest := h.rest }

/-- A wait that ends writes sD, logs the value and changes nothing else (R140). -/
theorem endWait_spec {s : State} (d : Reg) (v : Word) (h : s.tile.logged s.iss.word false = none) :
    (s.endWait d v).tile.core.reg d = valueOf d v ∧
      (s.endWait d v).tile.recov.log = s.tile.recov.log ++ [⟨s.iss.word, false, v⟩] ∧
      Frame s (s.endWait d v) [d] [] [] [] 0 := by
  rw [State.endWait, logResult_of_none v h]
  exact ⟨deliver_now_reg _ d v 0, rfl, Frame.of_log _ (deliver_regs_frame _ [(d, v)] 0)⟩

/-! ### `phase.acq` -/

theorem exec_phaseAcq (o : FG) (s : State) :
    exec (.phaseAcq o) s = s.runOp { s.gate o.g none (usesRegs [] []) with ckop := true } fun x => .ok x := rfl

/-- An operation that names no register and no stream has nothing to wait for. -/
theorem free?_nil (s : State) : s.free? (usesRegs [] []) = true := by
  simp [State.free?, State.waits, State.tokenCheckpoint, State.streamFault, usesRegs]

/-- Settles O43: a wait answers as its body does: the trap of its address, the logged result, the value that the object shows, or
a stall. -/
theorem waitsEnd : Obligations.WaitsEnd := by
  refine ⟨fun i s o ok u n bar late v hrow hready hck => ?wait, fun s o hon hck => ?acq⟩
  case wait =>
    have hexec := exec_wait hrow hready hck
    have haddr : nat32 (s.rd o.a).toNat = s.rd o.a := by rw [nat32, BitVec.ofNat_toNat, BitVec.setWidth_eq]
    refine ⟨fun hmis => ?misaligned, fun hal hout => ?outside, fun hok hlog hlate htile => ?ends,
      fun hok hlog hlate => ?waits, fun w hok hlog => ?rerun⟩
    case misaligned => rw [hexec, State.waitBody, syncBody_misaligned _ hmis, haddr]; rfl
    case outside => rw [hexec, State.waitBody, syncBody_accessFault _ hal hout, haddr]; rfl
    case ends =>
      obtain ⟨hreg, hlogged, hframe⟩ := endWait_spec o.d v htile
      rw [hexec, waitBody_unlogged hok hlog, if_pos hlate]
      exact ⟨_, rfl, hreg, hlogged, rfl, hframe.markDue true⟩
    case waits => rw [hexec, waitBody_unlogged hok hlog, hlate]; rfl
    case rerun =>
      rw [hexec, waitBody_logged hok hlog]
      exact ⟨_, rfl, deliver_now_reg s o.d w 0, (deliver_regs_frame s [(o.d, w)] 0).markDue true⟩
  case acq =>
    rw [exec_phaseAcq, runOp_ckop _ rfl hon (free?_nil s) hck]
    rfl

end Sys2Proof.Machine
end

section
/-! PROOFS. What goes into the own window by `tst` (R279), refuted: a task that declares more scratchpad than a window has. -/

namespace Sys2Proof.Machine

open Sys2Proof.Claims

/-! ### The counterexample

A plane that starts in the scratchpad is checked against the declared `spad` alone (R178). Where that is at most the 0x180000 bytes of a
scratchpad, as in every launch that is accepted (R120, R121), the plane stays there; the statement does not ask it. A task of larger
`spad` may store rows from the scratchpad on over the scalar registers into the reserved range above them, whose bytes read zero whatever
is stored (R175). -/

/-- A task with a scratchpad of a whole window. -/
def wideTask : Task := { Task.none with feat := 1, spad := 0x200000 }

/-- Register 0 holds fifteen f32 rows of one column, the last of them 1; s4 and s6 are the base and the pitch of a store of it. -/
def wideStore : Tile :=
  { Tile.reset 0 with
    stat := .running
    ntile := 1
    task := wideTask
    win := Mem.empty.writeByte 0x180038 1
    core := { (Core.reset.setReg 4 0x178438).setReg 6 0x7FFC with tcfg := Core.reset.tcfg.set 0 0x0E00 } }

/-- The store at issue. -/
def storingWide : State := { State.reset with tile := wideStore, src := wideStore }

/-- `tst` of register 0 to s4, with its pitch in s6: row 13 is s1, row 14 the reserved word at 0x1E8400. -/
def storeWide : FXY := ⟨0, 0, 4, .reg 6⟩

theorem ready_storeWide :
    Ready storingWide storeWide.g
      (storingWide.src.tregOk storeWide.y && storingWide.src.pairOk storeWide.a && storingWide.src.bOk storeWide.b)
      (usesRegs (storeWide.a :: (storeWide.a ||| 1) :: storeWide.b.regs) []) := by
  unfold Ready; decide +kernel

/-- The reserved range of a window reads zero (R175). -/
theorem Tile.winByte_reserved (t : Tile) {off : Nat} (h : regionOf off = .reserved) : t.winByte off = 0 := by
  rw [Tile.winByte, h]

/-- Refutes O45: a byte stored to the reserved range is not there afterwards, and a `tst` may reach that range where the task's `spad` is
larger than a scratchpad. -/
theorem not_configureAndStore : ¬ Obligations.ConfigureAndStore := by
  intro h
  obtain ⟨-, -, hregs⟩ := h.2 storingWide storeWide (by decide +kernel) ready_storeWide (by decide +kernel) rfl (by decide +kernel)
    (by decide +kernel) (by decide +kernel) (by decide +kernel) (by decide +kernel) (by decide +kernel) rfl
  obtain ⟨t, -, -, -, -, -, -, -, hwin, -⟩ := hregs (by decide +kernel) (by decide +kernel) rfl (by decide +kernel) (by decide +kernel)
    (by decide +kernel) (by decide +kernel)
  have hbyte := hwin 0x1E8400
  rw [t.tile.winByte_reserved (by decide)] at hbyte
  exact absurd hbyte (by decide +kernel)

end Sys2Proof.Machine
end

section
/-! PROOFS. The completion of X-pipe operations (R273), refuted: a `tst` that meets a data error over a barrier object in use. -/

namespace Sys2Proof.Machine

open Sys2Proof.Claims

/-! ### The counterexample

A `tst` whose register cannot be read is a data error and stores nothing (R291). The words of a barrier object in use that it names as its
destination become undefined all the same when it completes (R250, `State.runHead`), where the statement has the window stay as it was. The
bytes left there are free values, so the difference shows in the mark of an uncorrectable word, which the write takes away (R179). -/

/-- A store of one word of tile register 0 to the scratchpad at 0x100. -/
def storeOverBarrier : XOp := .tst 0 0 0x100 0 0 0 none

/-- The store is queued, its register cannot be read, and an arrival on the barrier object at 0x100 is still held. -/
def badOverBarrier : State :=
  { State.reset with
    tile := { Tile.reset 0 with
      stat := .running
      win := { Mem.empty with bad := [0x180000, 0x100] }
      cq := [.barv 0 0x100 1 0]
      mq := [storeOverBarrier] } }

theorem exec_matrixOpComplete (s : State) : exec .matrixOpComplete s = .next s.runHead := rfl

/-- The barrier object is written, and with it the mark of its word is gone. -/
theorem runHead_badOverBarrier_bad : badOverBarrier.runHead.tile.win.bad = [0x180000] := by decide +kernel

/-- Refutes O46: the window does not stay as it was under a `tst` that meets a data error, where a barrier object in use lies at its
destination. -/
theorem not_matrixCompletes : ¬ Obligations.MatrixCompletes := by
  intro h
  obtain ⟨t, hexec, hbad, -⟩ := h badOverBarrier storeOverBarrier [] rfl (by decide +kernel)
  obtain ⟨-, hwin, -⟩ := hbad (by decide +kernel) rfl
  obtain rfl := Host.Outcome.next.inj ((exec_matrixOpComplete badOverBarrier).symm.trans hexec)
  have hmarks := congrArg Mem.bad hwin
  rw [runHead_badOverBarrier_bad] at hmarks
  exact absurd hmarks (by decide +kernel)

end Sys2Proof.Machine
end

section
/-! PROOFS. X-pipe operations entering the queue (R273), refuted: two tiles of one physical number. -/

namespace Sys2Proof.Machine

open Sys2Proof.Claims

/-! ### The counterexample

A `tld` that meets a parity error in the tile file of another tile emits an event record (R291), and the event ring may lie in a window.
A tile written through the on-chip map is put back by its physical number (`State.putTile`). The statement does not ask that a number
name one tile: here the tile in focus and its sibling have the same, so the record written to the sibling's window puts the sibling, with
its own queue, in the place of the tile in focus. -/

/-- The sibling, logical tile 1: its tile file has a word of bad parity, and its queue an operation. -/
def twinTile : Tile :=
  { Tile.reset 0 with
    stat := .idle
    ltile := 1
    win := { Mem.empty with bad := [0x180000] }
    mq := [.azero 0 0 0] }

/-- The loading tile: s4 is the address of that word. -/
def loadingTile : Tile :=
  { Tile.reset 0 with
    stat := .running
    ntile := 2
    task := { Task.none with feat := 1 }
    core := Core.reset.setReg 4 0x40380000 }

/-- Mynyx's translation of the first page of PASID 1: the start of logical tile 1's window. -/
def ringPage : TlbEntry := ⟨1, 0, 0, 0x40200000, 3, 0, true, true, false⟩

/-- The load at issue; the event ring has one record, at that page. -/
def loadingFromTwin : State :=
  { State.reset with
    tile := loadingTile
    src := loadingTile
    others := [twinTile]
    dev := { Device.reset with evRing := some (1, 0, 0), xtlb := [ringPage] } }

/-- `tld` of register 0 from s4. -/
def loadFromTwin : FXY := ⟨0, 0, 4, .imm 0⟩

/-- The row of a `tld` (R278). -/
def tldRow (s : State) (o : FXY) : XRow :=
  let cfg := s.tcfgOf o.y.toNat
  let c := Cfg.ofWord cfg
  let p := s.planes o
  ⟨o.g, 0, s.src.tregOk o.y && s.src.pairOk o.a && s.src.bOk o.b, usesRegs (o.a :: (o.a ||| 1) :: o.b.regs) [],
    planesOk s c p false, c.valid, [], false, tileBytes o.y.toNat c, id, [], .tld o.y.toNat cfg p.b1 p.p1 p.b2 p.p2 s.iss.pc⟩

theorem matrixRow_tld (s : State) (o : FXY) : matrixRow s (.tld o) = some (tldRow s o) := rfl

theorem xready_loadFromTwin : XReady loadingFromTwin (tldRow loadingFromTwin loadFromTwin) where
  feat := by decide +kernel
  ready := by unfold Ready; decide +kernel
  room := by decide +kernel
  quiet := by decide +kernel

/-- The queue after an outcome and the completion of the oldest queued operation. -/
def queueCompleted : Host.Outcome State Fault Refusal → Option (List XOp)
  | .next t => some t.runHead.tile.mq
  | .fault _ => none
  | .refused _ => none

/-- The load's completion leaves the sibling's queue. -/
theorem queueCompleted_loadFromTwin : queueCompleted (exec (.tld loadFromTwin) loadingFromTwin) = some [.azero 0 0 0] := by
  decide +kernel

/-- Refutes O44: a `tld` that has entered an empty queue does not leave an empty one as it executes, where its event record goes to
the window of another tile of its own physical number. -/
theorem not_matrixQueues : ¬ Obligations.MatrixQueues := by
  intro h
  obtain ⟨t, hexec, -, -, hnext⟩ := h.1 (.tld loadFromTwin) loadingFromTwin _ (.inl ⟨loadFromTwin, rfl⟩) (.inl (matrixRow_tld _ _))
    xready_loadFromTwin (by decide +kernel) (by decide +kernel) rfl (fun _ => rfl) (by decide +kernel) (by decide +kernel)
    (by decide +kernel) (by decide +kernel) (fun _ => rfl)
  obtain ⟨u, hu, hempty⟩ := hnext rfl rfl
  obtain rfl := Host.Outcome.next.inj ((exec_matrixOpComplete t).symm.trans hu)
  have hqueue := queueCompleted_loadFromTwin
  rw [hexec] at hqueue
  exact absurd (hempty.symm.trans (Option.some.inj hqueue)) (by decide)

end Sys2Proof.Machine
end
